-- ==== Sys2Proof/Word.lean ====
section
/-!
DEFINITION. The word types of the KL64 (00_scope.md R7, R8; 02_programming_model.md R32): memory is addressed in
16-bit words, registers are 64 bits, accumulators are held by field.
-/
namespace Sys2Proof

/-- A memory word, the unit of every address space but IO-space (R5, R32). -/
abbrev W16 := BitVec 16
/-- A double word. -/
abbrev W32 := BitVec 32
/-- A quad, the content of a G or L register and of a port (R43, R32). -/
abbrev W64 := BitVec 64
/-- A byte, at the interfaces that carry bytes (R253, R281, R457). -/
abbrev Byte := BitVec 8

/-- A core of the device, 0 to 63 (R5). -/
abbrev CoreId := Fin 64
/-- A quire, with its warden, 0 to 7 (R14). -/
abbrev QuireId := Fin 8
/-- A stream engine, 0 to 15 (R14). -/
abbrev EngId := Fin 16
/-- A Camwin queue pair, 0 to 255 (R459). -/
abbrev QpId := Fin 256
/-- A PCIe function: 0 the PF, 1 to 15 the VFs (R452, R459). -/
abbrev FnId := Fin 16
/-- A general register G0 to G31 (R43). -/
abbrev GReg := Fin 32
/-- A general register that an S-form instruction reaches, G0 to G15 (R43). -/
abbrev SReg := Fin 16
/-- A long-result register L0 to L7 (R43). -/
abbrev LRegId := Fin 8
/-- An accumulator A0 to A7 (R44). -/
abbrev AReg := Fin 8
/-- A stream window of a core, 0 to 15 (R303). -/
abbrev WinId := Fin 16

end Sys2Proof
end

