-- ==== Sys2Proof/Syntax.lean ====
section
/-!
DEFINITION. The commands of the KL64: one constructor of Instr for each row of spec/opcode_table.json. A core
instruction names the core that issues it and its decoded operands; an event names the agent it befalls and what
comes in from outside (a pin, a sheet on the ring, a reply of the host, a reading of a sensor).
-/
namespace Sys2Proof

/-! ### Operand forms of the core's instructions (R100, R101) -/

/-- The two register forms of the ALU instructions: S-RR (`Gd := Gd op Gs`) and W-RRR (`Gd := Ga op Gb`) (R104, R105). -/
inductive RForm where
  | s (d s : SReg)
  | w (d a b : GReg)
deriving DecidableEq, Repr

/-- MOV in its S-RR and W-RRR forms (R104, R105). -/
inductive MovForm where
  | s (d s : SReg)
  | w (d a : GReg)
deriving DecidableEq, Repr

/-- CMP in its S-RR and W-RRR forms (R104, R105). -/
inductive CmpForm where
  | s (d s : SReg)
  | w (a b : GReg)
deriving DecidableEq, Repr

/-- The address forms of LD and ST: S-RR register address, base plus index, base plus displacement (R109). -/
inductive AddrForm where
  | reg (a : SReg)
  | idx (a b : GReg)
  | disp (a : GReg) (i : BitVec 16)
deriving DecidableEq, Repr

/-- Width and extension of a load (R109). -/
inductive LdKind where
  | w | ws | d | ds | q
deriving DecidableEq, Repr

/-- Width of a store (R109). -/
inductive StKind where
  | w | d | q
deriving DecidableEq, Repr

/-- The port of IN and OUT: immediate (L-I32) or in a register (W-RRR) (R119). -/
inductive PortForm where
  | imm (p : BitVec 24)
  | reg (a : GReg)
deriving DecidableEq, Repr

/-- The form of an IN or OUT whose port the row fixes (R119): three words with an immediate port or two words with the
port in a register. -/
inductive IoForm where
  | imm | reg
deriving DecidableEq, Repr

/-- The destination of a long op (R74): an L register, an accumulator (the even one of a pair), or the deckle group. -/
inductive LDest where
  | l (n : LRegId)
  | a (n : AReg)
  | dsu
deriving DecidableEq, Repr

/-- Which store request of a core a bank serves (R219, R59): the VST with this L destination, or the oldest request of
the translated-PUSH partition. -/
inductive StoreReq where
  | vst (l : LRegId)
  | push
deriving DecidableEq, Repr

/-- Which read request of a core a unit serves: the VLD, or part 0 or 1 of a translated POP, with this L destination. -/
structure ReadReq where
  l : LRegId
  part : Fin 2
deriving DecidableEq, Repr

/-- The precise causes of the X set, 0x01 to 0x14 (R343). -/
inductive PreciseCause where
  | illegal | privileged | localPlacement | localBound | rsOverflow | rsUnderflow | vatAlign
  | iTrans | dTrans | iWalk | dWalk | iProt | dProt | iKey | dKey | iAccess | memType
  | postDesc | dataExc | decDivide
deriving DecidableEq, Repr

/-- The machine-check causes 0x30 to 0x35 (R365). -/
inductive MCause where
  | localData | poisonedData | walkData | csParity | instr | coreState
deriving DecidableEq, Repr

/-! ### Operands of the device's events -/

/-- A ring port: A faces the successor, B the predecessor (15_pliry_ring.md). -/
inductive RPort where
  | a | b
deriving DecidableEq, Repr

/-- Who writes a device port: a core, the Steward, the host through BAR0 (R362, R564). -/
inductive Accessor where
  | core (c : CoreId)
  | steward
  | host
deriving DecidableEq, Repr

/-- What a device read of host memory brings back (R300, R301): bytes, of which a completion may carry EP, or an error. -/
inductive HostReply where
  | data (bytes : List Byte)
  | poisoned (bytes : List Byte)
  | error
deriving DecidableEq, Repr

/-- A 66-bit block of the line code after descrambling: the two sync bits and 64 bits (R428). -/
structure Block where
  sync : BitVec 2
  bits : BitVec 64
deriving DecidableEq, Repr

/-- What a walk serves (R318): a fetch, a D-space access, or a TLBLK.I (R336). -/
inductive WalkKind where
  | fetch | data | lockI
deriving DecidableEq, Repr

/-- What applies a broadcast invalidation: a core, or the translation cache of a quire (R338). -/
inductive ShootTarget where
  | core (c : CoreId)
  | quire (q : QuireId)
deriving DecidableEq, Repr

/-- The fatal faults of R374 that the Steward detects by itself. The rest are found in the state. -/
inductive FatalKind where
  | checkstop (c : CoreId) | warden (q : QuireId) | jerr | reload (c : CoreId) | steward
deriving DecidableEq, Repr

/-- The transport of a management message (R484, R485, R486). -/
inductive Path where
  | smbus | vdm | doe | inBand
deriving DecidableEq, Repr

/-- The reset pin of a warm reset (R526, R529). -/
inductive ResetPin where
  | rst | perst | both
deriving DecidableEq, Repr

/-- What the outside supplies to a boot (R425, R472, R479, R528, R544): the levels of the strap pins and of TRST_N from the
release on, whether the fuses read, whether the stack trained, and how many lanes were remapped. -/
structure BootInput where
  strapBoot : BitVec 2
  strapAddr : BitVec 3
  trstN : Bool
  fuseOk : Bool
  trained : Bool
  nrep : BitVec 8
deriving DecidableEq, Repr

/-- A ring key record (R493). -/
structure RingKeyRecord where
  serial : BitVec 64
  port : RPort
  tx : Bool
  slot : Fin 2
  sw : Bool
  salt : BitVec 32
  ephemeral : List Byte
  sealedKey : List Byte
  signer : List Byte
deriving DecidableEq, Repr

/-- An owner key record (R474): programming carries the hash, both carry the owner signature block, if any. -/
inductive OwnerKeyRecord where
  | program (slot : Fin 4) (hash : BitVec 384) (signer : Option (List Byte))
  | revoke (slot : Fin 4) (signer : Option (List Byte))
deriving DecidableEq, Repr

/-- The targets of UPDATE_IMAGE and COMMIT (R486). -/
inductive ImageTarget where
  | slotA | slotB | ownerConfig
deriving DecidableEq, Repr

/-- How the verifications of a control-store load end (R403): every quire's stores hold the new image; those of quire q do not, and
hold the previous one again; or core c, which ends the load at its quire, holds neither. -/
inductive LoadVerify where
  | ok | restored (q : QuireId) | failed (c : CoreId)
deriving DecidableEq, Repr

/-- The 64-bit BARs (R454). -/
inductive BarNo where
  | bar0 | bar2 | bar4
deriving DecidableEq, Repr

/-- A PCIe configuration request (R453, R452): a read, or a write of a field that the spec gives an effect: Memory Space Enable,
the number of VFs enabled, a base address, the VFs' BAR2 base, the encoded Max Payload and Max Read Request Sizes, MSI-X Enable
and Function Mask. -/
inductive CfgReq where
  | read (reg : BitVec 12)
  | memSpace (v : Bool)
  | vfEnable (n : Fin 16)
  | bar (b : BarNo) (v : BitVec 64)
  | vfBar (v : BitVec 64)
  | payload (v : BitVec 3)
  | readReq (v : BitVec 3)
  | msix (enable mask : Bool)
deriving DecidableEq, Repr

/-- The commands: every row of spec/opcode_table.json, in the table's order. -/
inductive Instr where
  -- control and system
  | nop (c : CoreId)
  | lwait (c : CoreId)
  | vfence (c : CoreId)
  | fbar (c : CoreId)
  | svc (c : CoreId) (n : Fin 8)
  | sret (c : CoreId)
  | xret (c : CoreId)
  | mret (c : CoreId)
  -- integer
  | mov (c : CoreId) (f : MovForm)
  | add (c : CoreId) (f : RForm)
  | sub (c : CoreId) (f : RForm)
  | addc (c : CoreId) (f : RForm)
  | subc (c : CoreId) (f : RForm)
  | and (c : CoreId) (f : RForm)
  | or (c : CoreId) (f : RForm)
  | xor (c : CoreId) (f : RForm)
  | andn (c : CoreId) (d a b : GReg)
  | cmp (c : CoreId) (f : CmpForm)
  | shl (c : CoreId) (f : RForm)
  | shr (c : CoreId) (f : RForm)
  | sar (c : CoreId) (f : RForm)
  | rol (c : CoreId) (d a b : GReg)
  | not (c : CoreId) (d : SReg)
  | neg (c : CoreId) (d : SReg)
  | tst (c : CoreId) (d : SReg)
  | addi (c : CoreId) (d a : GReg) (i : BitVec 16)
  | andi (c : CoreId) (d a : GReg) (i : BitVec 16)
  | ori (c : CoreId) (d a : GReg) (i : BitVec 16)
  | xori (c : CoreId) (d a : GReg) (i : BitVec 16)
  | shli (c : CoreId) (d a : GReg) (k : BitVec 6)
  | shri (c : CoreId) (d a : GReg) (k : BitVec 6)
  | sari (c : CoreId) (d a : GReg) (k : BitVec 6)
  | roli (c : CoreId) (d a : GReg) (k : BitVec 6)
  | cmpi (c : CoreId) (a : GReg) (i : BitVec 16)
  | movi (c : CoreId) (d : GReg) (i : BitVec 32)
  | moviu (c : CoreId) (d : GReg) (i : BitVec 32)
  | movh (c : CoreId) (d : GReg) (i : BitVec 32)
  | mul (c : CoreId) (d a b : GReg)
  | mulw (c : CoreId) (d a b : GReg)
  | mulwu (c : CoreId) (d a b : GReg)
  | mac (c : CoreId) (d a b : GReg)
  | div (c : CoreId) (d a b : GReg)
  | divu (c : CoreId) (d a b : GReg)
  | ld (c : CoreId) (k : LdKind) (ea : AddrForm) (d : GReg)
  | st (c : CoreId) (k : StKind) (ea : AddrForm) (d : GReg)
  | push (c : CoreId) (s : SReg)
  | pop (c : CoreId) (d : SReg)
  -- branches, block repeat
  | bcc (c : CoreId) (annul : Bool) (cond : BitVec 4) (v : BitVec 16)
  | br (c : CoreId) (annul : Bool) (v : BitVec 16)
  | bra (c : CoreId) (annul : Bool) (i : BitVec 32)
  | call (c : CoreId) (annul : Bool) (v : BitVec 16)
  | calla (c : CoreId) (annul : Bool) (i : BitVec 32)
  | callRegister (c : CoreId) (annul : Bool) (a : SReg)
  | jmpi (c : CoreId) (annul : Bool) (a : SReg)
  | ret (c : CoreId) (annul : Bool)
  | repb (c : CoreId) (a : GReg) (n : Fin 16)
  | repbi (c : CoreId) (v : BitVec 16) (n : Fin 16)
  -- status, ports
  | setms (c : CoreId) (a : SReg)
  | setkr (c : CoreId) (a : SReg)
  | inp (c : CoreId) (p : PortForm) (d : GReg)
  | outp (c : CoreId) (p : PortForm) (s : GReg)
  | outRsd (c : CoreId) (f : IoForm) (s : GReg)
  | outRsp (c : CoreId) (f : IoForm) (s : GReg)
  | icinv (c : CoreId) (f : IoForm) (s : GReg)
  | outBpctl (c : CoreId) (f : IoForm) (s : GReg)
  | iclaim (c : CoreId) (f : IoForm) (d : GReg)
  | mbxData (c : CoreId) (f : IoForm) (d : GReg)
  -- translation and keys
  | tlbiv (c : CoreId) (a b : GReg)
  | tlbit (c : CoreId) (b : GReg)
  | tlbia (c : CoreId)
  | tlbiaF (c : CoreId)
  | tlblk (c : CoreId) (a : GReg)
  | tlblkI (c : CoreId) (a : GReg)
  | tlbul (c : CoreId) (a : GReg)
  | tlbulI (c : CoreId) (a : GReg)
  | skey (c : CoreId) (l : LRegId) (a b : GReg)
  | skeyServe (c : CoreId) (l : LRegId)
  -- decimal
  | dld (c : CoreId) (d : AReg) (a : GReg) (i : BitVec 16) (n : Fin 8)
  | dst (c : CoreId) (d : AReg) (a : GReg) (i : BitVec 16) (n : Fin 8)
  | dadd (c : CoreId) (d a b : AReg)
  | dsub (c : CoreId) (d a b : AReg)
  | dcmp (c : CoreId) (a b : AReg)
  | daddc (c : CoreId) (first : Bool) (d a b : AReg)
  | dsubc (c : CoreId) (first : Bool) (d a b : AReg)
  | dmul (c : CoreId) (d a b : AReg)
  | ddiv (c : CoreId) (d a b : AReg)
  | dshl (c : CoreId) (d a : AReg) (b : GReg)
  | dshr (c : CoreId) (rm : BitVec 3) (d a : AReg) (b : GReg)
  | dcvb (c : CoreId) (u : Bool) (d : GReg) (a : AReg)
  | dcvd (c : CoreId) (u : Bool) (d : AReg) (a : GReg)
  | dmac (c : CoreId) (ia ib n : Bool) (d : AReg) (a b : GReg)
  -- strings
  | mvs (c : CoreId)
  | mvsp (c : CoreId)
  | trs (c : CoreId)
  | cms (c : CoreId)
  | scs (c : CoreId)
  | scsN (c : CoreId)
  | eds (c : CoreId)
  | edsm (c : CoreId)
  | pks (c : CoreId)
  | ups (c : CoreId)
  | dsuSuspend (c : CoreId) (units : Nat)
  -- floating
  | fadd (c : CoreId) (d a b : GReg)
  | fsub (c : CoreId) (d a b : GReg)
  | fmul (c : CoreId) (d a b : GReg)
  | fma (c : CoreId) (d a b : GReg)
  | fdiv (c : CoreId) (l : LRegId) (a b : GReg)
  | fsqrt (c : CoreId) (l : LRegId) (a : GReg)
  | fcmp (c : CoreId) (a b : GReg)
  | fcvti (c : CoreId) (d a : GReg)
  | fcvtf (c : CoreId) (d a : GReg)
  | frint (c : CoreId) (d a : GReg)
  | dqadd (c : CoreId) (d a b : AReg)
  | dqsub (c : CoreId) (d a b : AReg)
  | dqmul (c : CoreId) (d a b : AReg)
  | dqdiv (c : CoreId) (d a b : AReg)
  | dqsqrt (c : CoreId) (d a : AReg)
  | dqcmp (c : CoreId) (a b : AReg)
  | dqfix (c : CoreId) (d a : AReg)
  | dqflt (c : CoreId) (d a : AReg)
  | dqrint (c : CoreId) (d a : AReg)
  | dqquant (c : CoreId) (d a b : AReg)
  | dqld (c : CoreId) (d : AReg) (a : GReg)
  | dqst (c : CoreId) (d : AReg) (a : GReg)
  -- Vat
  | vld (c : CoreId) (l : LRegId) (a : GReg)
  | vst (c : CoreId) (l : LRegId) (a b : GReg)
  | vget (c : CoreId) (l : LRegId) (a b : GReg)
  | vput (c : CoreId) (l : LRegId) (a b : GReg)
  | vcas (c : CoreId) (l : LRegId) (a b : GReg)
  | vldServe (c : CoreId) (r : ReadReq)
  | vstServe (c : CoreId) (r : StoreReq)
  | vgetServe (c : CoreId) (l : LRegId)
  | vputServe (c : CoreId) (l : LRegId)
  | vcasServe (c : CoreId) (l : LRegId)
  | vatPoisonMark (line : BitVec 19)
  | find (c : CoreId) (l : LRegId) (a : GReg)
  | findServe (c : CoreId) (l : LRegId)
  | dswap (c : CoreId) (l : LRegId) (a b : GReg)
  | dswapServe (c : CoreId) (l : LRegId)
  | dswapDeliver (c : CoreId) (l : LRegId)
  | post (c : CoreId) (l : LRegId) (a : GReg)
  | postLockLo (id : Nat)
  | postLockHi (id : Nat)
  | postClose (id : Nat)
  | postWriteLo (id : Nat)
  | postReleaseHi (id : Nat)
  | swait (c : CoreId) (l : LRegId) (a : GReg)
  | swaitDeliver (c : CoreId) (w : WinId)
  | deviceInServe (c : CoreId) (l : LRegId)
  | deviceOutAccept (c : CoreId)
  | longOpDeliver (c : CoreId) (d : LDest)
  | vgetDeliver (c : CoreId) (l : LRegId)
  | customerInstruction (c : CoreId) (w0 w1 w2 : W16)
  -- core events
  | storeBufferDrain (c : CoreId)
  | tlbWalk (c : CoreId) (k : WalkKind) (va : BitVec 40)
  | icacheFill (c : CoreId) (addr : BitVec 32)
  | exceptionEntry (c : CoreId) (x : PreciseCause) (xad : BitVec 40) (lvl : BitVec 2)
  | decimalOverflowTrap (c : CoreId)
  | floatingTrap (c : CoreId)
  | interruptEntry (c : CoreId)
  | machineCheck (c : CoreId) (m : MCause)
  | checkstop (c : CoreId)
  | controlStoreReload (c : CoreId) (dsu ok : Bool)
  | intSourceEvent (q : QuireId) (s : BitVec 6)
  | intDeliver (q : QuireId) (s : BitVec 6)
  | intSet (q : QuireId) (v : W64)
  | timerMatch (c : CoreId)
  | mbxSend (who : Accessor) (c : CoreId) (v : W64)
  | coreWake (c : CoreId)
  | coreRegate (c : CoreId)
  | coreReset (c : CoreId)
  | tlbShoot (q : QuireId) (v : W64)
  | shootApply (q : QuireId) (t : ShootTarget)
  | wardenFailed (q : QuireId)
  | fatalFault (k : FatalKind)
  | stewardWatchdog
  | logFlush
  -- streams
  | seCtlEn (e : EngId) (v : Bool)
  | seCtlHalt (e : EngId) (v : Bool)
  | seCtlAbt (e : EngId)
  | seCtlCen (e : EngId) (v : Bool)
  | seHead (who : Accessor) (e : EngId) (v : BitVec 32)
  | seMdata (e : EngId) (v : W64)
  | seDescriptorStart (e : EngId)
  | sePrefetch (e : EngId) (n : Fin 3)
  | seSlotTake (e : EngId)
  | seDescriptorComplete (e : EngId) (src : List HostReply) (records : Nat)
  | windowRecordEnqueue (e : EngId)
  | swinEnable (c : CoreId) (w : WinId) (v : W64)
  | swinDisable (c : CoreId) (w : WinId)
  | swinCancel (c : CoreId) (w : WinId)
  -- journal
  | jnlPen (v : Bool)
  | jnlRpe (v : Bool)
  | jnlHde (v : Bool)
  | jnlMrel
  | jnlNext (v : W64)
  | jnlDur (v : W64)
  | journalHbmCopy
  | hostDrain
  | pfail
  | freeze
  | journalSheetSend
  | journalSheetTimer
  | journalSheetReceive (sheet : List Block)
  | acknowledgement (sheet : List Block)
  | ackRepeat
  | resend (sheet : List Block)
  | resendTimeout
  | dur (sheet : List Block)
  | durSend
  -- ring
  | hello (p : RPort) (sheet : List Block)
  | census (sheet : List Block)
  | keysw (p : RPort) (sheet : List Block)
  | keepalive (p : RPort)
  | calenderSlot (p : RPort)
  | calibrationSheet (p : RPort) (sheet : List Block)
  | portLost (p : RPort)
  | relock (p : RPort)
  | ringLeave
  | ringInsert
  | ringHelloStart
  | helloTimeout
  | ringJenSet
  | ringJenClear
  | ringRjr
  | ringKey (p : Path) (r : RingKeyRecord)
  | ringEnLow
  | ringEnHigh
  -- HBM
  | scrubRead
  | hbmRefresh
  | hbmTempRead (t : BitVec 8)
  | calenderWindowOpen
  | calenderWindowClose (wmin rmin : BitVec 8) (low : Bool)
  -- host
  | bar0Read (off len : Nat)
  | bar0Write (off : Nat) (bytes : List Byte)
  | bar4Read (off len : Nat)
  | bar4Write (off : Nat) (bytes : List Byte)
  | configRequest (f : FnId) (r : CfgReq)
  | sqDoorbell (f : FnId) (n : QpId) (v : BitVec 64)
  | cqDoorbell (f : FnId) (n : QpId) (v : BitVec 64)
  | queuePairEnable (n : QpId) (v : W64)
  | sqFetch (n : QpId) (r : HostReply)
  | submissionReceive (n : QpId)
  | cqCmpl (n : QpId) (v : W64)
  | completionRelease (n : QpId) (ok : Bool)
  | cqSignalTimer (n : QpId)
  | flrVf (f : FnId)
  | flrPf
  | linkDown
  | busMasterEnable (f : FnId) (v : Bool)
  -- management
  | controlStoreLoad (bundle : HostReply) (v : LoadVerify)
  | inBandCommand
  | getStatus (p : Path)
  | ackAlert (p : Path)
  | readLog (p : Path) (first : BitVec 32) (count : Nat) (nonce : BitVec 384)
  | readJournal (p : Path) (mirror : Bool) (first : BitVec 16) (count : Nat)
  | readPort (p : Path) (port : BitVec 24)
  | ownerKey (p : Path) (r : OwnerKeyRecord)
  | extendMr7 (p : Path) (d : BitVec 384)
  | debugUnlock (p : Path) (password : List Byte)
  | debugLock (p : Path)
  | vendorChallenge (p : Path)
  | vendorResponse (p : Path) (sig : List Byte)
  | updateImage (p : Path) (t : ImageTarget) (off : BitVec 32) (bytes : List Byte)
  | commit (p : Path) (t : ImageTarget)
  | getVersion (p : Path)
  | getCapabilities (p : Path)
  | negotiateAlgorithms (p : Path) (p384 sha384 dmtf : Bool)
  | getDigests (p : Path)
  | getCertificate (p : Path) (slot : Fin 8) (off len : BitVec 16)
  | challenge (p : Path) (slot : Fin 8) (nonce : BitVec 256)
  | getMeasurements (p : Path) (index : BitVec 8) (signed : Bool) (nonce : BitVec 256)
  | respondIfReady (p : Path)
  | setEndpointId (p : Path) (eid : Byte)
  | getEndpointId (p : Path)
  | getMctpVersionSupport (p : Path)
  | getMessageTypeSupport (p : Path)
  -- TAP
  | bypass
  | idcode
  | samplePreload (inputs held : List Bool)
  | extest (inputs held : List Bool)
  | extestPulse
  | extestTrain
  | unlock (len : Byte) (data : List Byte)
  | vchal
  -- power, thermal, reset
  | powerRun
  | powerTrim (tq : BitVec 8)
  | powerIdle
  | powerDormant
  | thermalSensorRead (t : BitVec 8)
  | throttleChange
  | thermalTrip (stack : Bool)
  | refclkLoss
  | undervoltage (rail : Fin 10)
  | undervoltageHold
  | pwrgoodRise
  | pwrgoodFall
  | rstNAssert
  | perstNAssert
  | warmResetAssert
  | resetRelease (b : BootInput)
  | registerWrite (who : Accessor) (port : BitVec 24) (v : W64)
  | linkUp (width : BitVec 6) (speed : BitVec 4)
  | completionTimeout (e : Option EngId) (n : Option QpId)
  | msixTableWrite (f : FnId) (v : BitVec 7) (dw : Fin 4) (val : BitVec 32)
  | lanesLocked (p : RPort)
  | lossOfLock (p : RPort)
deriving DecidableEq, Repr

end Sys2Proof
end

