-- ==== Sys2Proof/WellFormed.lean ====
section
/-!
DEFINITION. The commands whose operands the spec's encodings and messages can carry. Every other operand is bounded by
its type. A command that is not well formed names nothing that the outside can send.
-/
namespace Sys2Proof

/-- LD and ST by register address exist for four words and for G0 to G15 only (R109). -/
def AddrForm.wf (f : AddrForm) (quad : Bool) (d : GReg) : Bool :=
  match f with
  | .reg _ => quad && decide (d.val < 16)
  | _ => true

/-- A sheet is a header block, up to 18 payload and trailer blocks and, encrypted, two tag blocks (R430, R431). -/
def sheetWf (b : List Block) : Bool := decide (2 ≤ b.length) && decide (b.length ≤ 160)

/-- A read of BAR0 or BAR4 asks for 1 to 4,096 bytes (R452). -/
def readLenWf (len : Nat) : Bool := decide (1 ≤ len) && decide (len ≤ 4096)

/-- Management commands come over SMBus, PCIe VDM or the in-band buffer (R485, R488). -/
def Path.mgmt (p : Path) : Bool := p != .doe
/-- SPDM requests come over DOE, SMBus or PCIe VDM (R484). -/
def Path.spdm (p : Path) : Bool := p != .inBand
/-- MCTP control messages come over SMBus or PCIe VDM (R485). -/
def Path.mctp (p : Path) : Bool := p == .smbus || p == .vdm

/-- A command whose operands can be sent. -/
def Instr.wf : Instr → Bool
  | .ld _ k ea d => ea.wf (k == .q) d
  | .st _ k ea d => ea.wf (k == .q) d
  | .journalSheetReceive b => sheetWf b
  | .acknowledgement b => sheetWf b
  | .resend b => sheetWf b
  | .dur b => sheetWf b
  | .hello _ b => sheetWf b
  | .census b => sheetWf b
  | .keysw _ b => sheetWf b
  | .calibrationSheet _ b => sheetWf b
  | .bar0Read _ len => readLenWf len
  | .bar4Read _ len => readLenWf len
  | .bar0Write _ bytes => decide (1 ≤ bytes.length) && decide (bytes.length ≤ 4096)
  | .bar4Write _ bytes => decide (1 ≤ bytes.length) && decide (bytes.length ≤ 4096)
  | .customerInstruction _ w0 _ _ => decide (0xE0 ≤ w0.toNat / 256) && decide (w0.toNat / 256 ≤ 0xEF)
  | .getStatus p => p.mgmt
  | .ackAlert p => p.mgmt
  | .readLog p _ count _ => p.mgmt && decide (count < 256)
  | .readJournal p _ _ count => p.mgmt && decide (count < 256)
  | .readPort p _ => p.mgmt
  | .ownerKey p _ => p.mgmt
  | .ringKey p _ => p.mgmt
  | .extendMr7 p _ => p.mgmt
  | .debugUnlock p pw => p.mgmt && decide (pw.length < 256)
  | .debugLock p => p.mgmt
  | .vendorChallenge p => p.mgmt
  | .vendorResponse p _ => p.mgmt
  | .updateImage p _ _ _ => p.mgmt
  | .commit p _ => p.mgmt
  | .getVersion p => p.spdm
  | .getCapabilities p => p.spdm
  | .negotiateAlgorithms p _ _ _ => p.spdm
  | .getDigests p => p.spdm
  | .getCertificate p _ _ _ => p.spdm
  | .challenge p _ _ => p.spdm
  | .getMeasurements p _ _ _ => p.spdm
  | .respondIfReady p => p.spdm
  | .setEndpointId p _ => p.mctp
  | .getEndpointId p => p.mctp
  | .getMctpVersionSupport p => p.mctp
  | .getMessageTypeSupport p => p.mctp
  | .unlock _ data => data.length == 32
  | _ => true

end Sys2Proof
end

