-- ==== Sys2Proof/Decode.lean ====
section
/-!
DEFINITION. The instruction that a core's fetched words spell (R100 to R102 and the encoding tables of R104 to R122, R128 to
R130, R164, R190, R191, R216, R233, R306, R334), its encoder, and decodeTableWord: the opcode table gives no row any bits,
so no table word spells a command.
-/
namespace Sys2Proof

/-- The command that a table word spells: none, since no row of the table has bits. -/
def decodeTableWord (_nbits _w : Nat) : Option Instr := none

/-! ### The six layouts (R100) -/

/-- Bits [15:8] of word 0: the major opcode (R100). -/
def majorOf (w0 : W16) : Nat := (w0.extractLsb' 8 8).toNat

/-- The fields of an instruction's words in the layouts of R100: x, the S-form registers that x holds, the register of
x[7:3], the registers of word 1, and words 1 and 2 whole. -/
structure Fields where
  x : BitVec 8
  xd : SReg
  xs : SReg
  xr : GReg
  d : GReg
  a : GReg
  b : GReg
  v : W16
  i : W16
deriving DecidableEq, Repr

/-- The fields of three words (R100). -/
def fieldsOf (w0 w1 w2 : W16) : Fields :=
  { x := w0.extractLsb' 0 8, xd := (w0.extractLsb' 4 4).toFin, xs := (w0.extractLsb' 0 4).toFin
    xr := (w0.extractLsb' 3 5).toFin, d := (w1.extractLsb' 11 5).toFin, a := (w1.extractLsb' 6 5).toFin
    b := (w1.extractLsb' 1 5).toFin, v := w1, i := w2 }

/-- The sub-opcode where it is the whole of x, x[3:0], or x[2:0]. -/
def Fields.sub (f : Fields) : Nat := f.x.toNat
def Fields.sub4 (f : Fields) : Nat := f.x.toNat % 16
def Fields.sub3 (f : Fields) : Nat := f.x.toNat % 8
/-- The immediate of layout L-I32 (R100). -/
def Fields.i32 (f : Fields) : BitVec 32 := f.v ++ f.i
/-- Word 1 [0] of layout W-RRR and word 1 [5:0] of layout L-RRI are reserved (R100). -/
def Fields.wrrr (f : Fields) : Bool := !f.v.getLsbD 0
def Fields.lrri (f : Fields) : Bool := f.v.extractLsb' 0 6 == 0#6

/-- A field that names an accumulator or an L register in its bits [2:0]; bits [4:3] are reserved (R59, R129, R216). -/
def low3 (r : GReg) : Fin 8 := ⟨r.val % 8, by omega⟩
def high2 (r : GReg) : Bool := decide (r.val < 8)

/-- An instruction whose reserved fields are 0; illegal otherwise (R102). -/
def onlyIf (p : Bool) (i : Instr) : Option Instr := if p then some i else none

/-! ### Decoding by major opcode (R101); none is an illegal instruction (R102) -/

/-- Major 0x00 (R121). -/
def decodeSystem (c : CoreId) (f : Fields) : Option Instr :=
  match f.sub with
  | 0x01 => some (.nop c)
  | 0x02 => some (.lwait c)
  | 0x03 => some (.vfence c)
  | 0x04 => some (.fbar c)
  | 0x08 => some (.sret c)
  | 0x09 => some (.xret c)
  | 0x0A => some (.mret c)
  | x => onlyIf (decide (0x10 ≤ x ∧ x ≤ 0x17)) (.svc c ⟨x % 8, by omega⟩)

/-- Major 0x0D (R104). -/
def decodeUnary (c : CoreId) (f : Fields) : Option Instr :=
  match f.sub4 with
  | 0 => some (.not c f.xd)
  | 1 => some (.neg c f.xd)
  | 2 => some (.tst c f.xd)
  | _ => none

/-- Major 0x10 (R105). -/
def decodeAlu (c : CoreId) (f : Fields) : Option Instr :=
  let w : RForm := .w f.d f.a f.b
  if !f.wrrr then none
  else match f.sub with
  | 0x00 => some (.add c w)
  | 0x01 => some (.sub c w)
  | 0x02 => some (.addc c w)
  | 0x03 => some (.subc c w)
  | 0x04 => some (.and c w)
  | 0x05 => some (.or c w)
  | 0x06 => some (.xor c w)
  | 0x07 => some (.andn c f.d f.a f.b)
  | 0x08 => some (.shl c w)
  | 0x09 => some (.shr c w)
  | 0x0A => some (.sar c w)
  | 0x0B => some (.rol c f.d f.a f.b)
  | 0x0C => onlyIf (f.d == 0) (.cmp c (.w f.a f.b))
  | 0x0D => onlyIf (f.b == 0) (.mov c (.w f.d f.a))
  | _ => none

/-- Major 0x11 (R107); an odd pair is decoded, and its meaning raises illegal instruction (R102). -/
def decodeMul (c : CoreId) (f : Fields) : Option Instr :=
  if !f.wrrr then none
  else match f.sub with
  | 0x00 => some (.mul c f.d f.a f.b)
  | 0x01 => some (.mulw c f.d f.a f.b)
  | 0x02 => some (.mulwu c f.d f.a f.b)
  | 0x03 => some (.mac c f.d f.a f.b)
  | 0x04 => some (.div c f.d f.a f.b)
  | 0x05 => some (.divu c f.d f.a f.b)
  | _ => none

/-- Major 0x12 (R105). -/
def decodeImm (c : CoreId) (f : Fields) : Option Instr :=
  let k : BitVec 6 := f.i.extractLsb' 0 6
  let kOk : Bool := f.i.extractLsb' 6 10 == 0#10
  if !f.lrri then none
  else match f.sub with
  | 0x00 => some (.addi c f.d f.a f.i)
  | 0x04 => some (.andi c f.d f.a f.i)
  | 0x05 => some (.ori c f.d f.a f.i)
  | 0x06 => some (.xori c f.d f.a f.i)
  | 0x08 => onlyIf kOk (.shli c f.d f.a k)
  | 0x09 => onlyIf kOk (.shri c f.d f.a k)
  | 0x0A => onlyIf kOk (.sari c f.d f.a k)
  | 0x0B => onlyIf kOk (.roli c f.d f.a k)
  | 0x0C => onlyIf (f.d == 0) (.cmpi c f.a f.i)
  | _ => none

/-- Major 0x13 (R105). -/
def decodeMovi (c : CoreId) (f : Fields) : Option Instr :=
  match f.sub3 with
  | 0 => some (.movi c f.xr f.i32)
  | 1 => some (.moviu c f.xr f.i32)
  | 2 => some (.movh c f.xr f.i32)
  | _ => none

/-- The loads and stores of majors 0x18 and 0x19 (R109). -/
def decodeMem (c : CoreId) (f : Fields) (ea : AddrForm) : Option Instr :=
  match f.sub with
  | 0x00 => some (.ld c .w ea f.d)
  | 0x01 => some (.ld c .ws ea f.d)
  | 0x02 => some (.ld c .d ea f.d)
  | 0x03 => some (.ld c .ds ea f.d)
  | 0x04 => some (.ld c .q ea f.d)
  | 0x08 => some (.st c .w ea f.d)
  | 0x09 => some (.st c .d ea f.d)
  | 0x0A => some (.st c .q ea f.d)
  | _ => none

/-- Major 0x1A (R111). -/
def decodeStack (c : CoreId) (f : Fields) : Option Instr :=
  match f.sub4 with
  | 0 => some (.push c f.xd)
  | 1 => some (.pop c f.xd)
  | _ => none

/-- Major 0x25 (R112). -/
def decodeIndirect (c : CoreId) (f : Fields) : Option Instr :=
  match f.sub3 with
  | 0 => some (.callRegister c (f.x.getLsbD 3) f.xd)
  | 1 => some (.jmpi c (f.x.getLsbD 3) f.xd)
  | _ => none

/-- Major 0x30 (R120). -/
def decodeStatus (c : CoreId) (f : Fields) : Option Instr :=
  match f.sub4 with
  | 0 => some (.setms c f.xd)
  | 1 => some (.setkr c f.xd)
  | _ => none

/-- Major 0x34 (R119). -/
def decodePortImm (c : CoreId) (f : Fields) : Option Instr :=
  let p : BitVec 24 := f.i32.setWidth 24
  if f.i32.extractLsb' 24 8 != 0#8 then none
  else match f.sub3 with
  | 0 => some (.inp c (.imm p) f.xr)
  | 1 => some (.outp c (.imm p) f.xr)
  | _ => none

/-- Major 0x35 (R119). -/
def decodePortReg (c : CoreId) (f : Fields) : Option Instr :=
  if !f.wrrr || f.b != 0 then none
  else match f.sub with
  | 0x00 => some (.inp c (.reg f.a) f.d)
  | 0x01 => some (.outp c (.reg f.a) f.d)
  | _ => none

/-- Major 0x38 (R334). -/
def decodeTranslation (c : CoreId) (f : Fields) : Option Instr :=
  if !f.wrrr then none
  else match f.sub with
  | 0x00 => onlyIf (f.d == 0) (.tlbiv c f.a f.b)
  | 0x01 => onlyIf (f.d == 0 && f.a == 0) (.tlbit c f.b)
  | 0x02 => onlyIf (f.d == 0 && f.a == 0 && f.b == 0) (.tlbia c)
  | 0x12 => onlyIf (f.d == 0 && f.a == 0 && f.b == 0) (.tlbiaF c)
  | 0x03 => onlyIf (f.d == 0 && f.b == 0) (.tlblk c f.a)
  | 0x13 => onlyIf (f.d == 0 && f.b == 0) (.tlblkI c f.a)
  | 0x04 => onlyIf (f.d == 0 && f.b == 0) (.tlbul c f.a)
  | 0x14 => onlyIf (f.d == 0 && f.b == 0) (.tlbulI c f.a)
  | 0x05 => onlyIf (high2 f.d) (.skey c (low3 f.d) f.a f.b)
  | _ => none

/-- Major 0x42 (R129). -/
def decodeDecimal (c : CoreId) (f : Fields) : Option Instr :=
  let md := f.x.toNat / 16
  let ab := f.wrrr && high2 f.a && high2 f.b
  let dab := ab && high2 f.d
  let da := f.wrrr && high2 f.d && high2 f.a
  match f.sub4 with
  | 0x0 => onlyIf (dab && md == 0) (.dadd c (low3 f.d) (low3 f.a) (low3 f.b))
  | 0x1 => onlyIf (dab && md == 0) (.dsub c (low3 f.d) (low3 f.a) (low3 f.b))
  | 0x2 => onlyIf (ab && md == 0 && f.d == 0) (.dcmp c (low3 f.a) (low3 f.b))
  | 0x3 => onlyIf (dab && decide (md < 2)) (.daddc c (md == 1) (low3 f.d) (low3 f.a) (low3 f.b))
  | 0x4 => onlyIf (dab && decide (md < 2)) (.dsubc c (md == 1) (low3 f.d) (low3 f.a) (low3 f.b))
  | 0x5 => onlyIf (dab && md == 0) (.dmul c (low3 f.d) (low3 f.a) (low3 f.b))
  | 0x6 => onlyIf (dab && md == 0) (.ddiv c (low3 f.d) (low3 f.a) (low3 f.b))
  | 0x7 => onlyIf (da && md == 0) (.dshl c (low3 f.d) (low3 f.a) f.b)
  | 0x8 => onlyIf (da && decide (md < 8)) (.dshr c (f.x.extractLsb' 4 3) (low3 f.d) (low3 f.a) f.b)
  | _ => none

/-- Major 0x44 (R130). -/
def decodeConvert (c : CoreId) (f : Fields) : Option Instr :=
  let u := f.x.getLsbD 4
  if !f.wrrr || f.b != 0 || decide (32 ≤ f.sub) then none
  else match f.sub4 with
  | 0 => onlyIf (high2 f.a) (.dcvb c u f.d (low3 f.a))
  | 1 => onlyIf (high2 f.d) (.dcvd c u (low3 f.d) f.a)
  | _ => none

/-- Major 0x50 (R164). -/
def decodeStrings (c : CoreId) (f : Fields) : Option Instr :=
  match f.sub with
  | 0x00 => some (.mvs c)
  | 0x01 => some (.mvsp c)
  | 0x02 => some (.trs c)
  | 0x03 => some (.cms c)
  | 0x04 => some (.scs c)
  | 0x14 => some (.scsN c)
  | 0x05 => some (.eds c)
  | 0x06 => some (.edsm c)
  | 0x07 => some (.pks c)
  | 0x08 => some (.ups c)
  | _ => none

/-- Major 0x60 (R190). -/
def decodeBinary (c : CoreId) (f : Fields) : Option Instr :=
  if !f.wrrr then none
  else match f.sub with
  | 0x00 => some (.fadd c f.d f.a f.b)
  | 0x01 => some (.fsub c f.d f.a f.b)
  | 0x02 => some (.fmul c f.d f.a f.b)
  | 0x03 => some (.fma c f.d f.a f.b)
  | 0x04 => onlyIf (high2 f.d) (.fdiv c (low3 f.d) f.a f.b)
  | 0x05 => onlyIf (high2 f.d && f.b == 0) (.fsqrt c (low3 f.d) f.a)
  | 0x06 => onlyIf (f.d == 0) (.fcmp c f.a f.b)
  | 0x07 => onlyIf (f.b == 0) (.fcvti c f.d f.a)
  | 0x08 => onlyIf (f.b == 0) (.fcvtf c f.d f.a)
  | 0x09 => onlyIf (f.b == 0) (.frint c f.d f.a)
  | _ => none

/-- Major 0x61 (R191). -/
def decodeDecimal128 (c : CoreId) (f : Fields) : Option Instr :=
  let da := f.wrrr && high2 f.d && high2 f.a
  let dab := da && high2 f.b
  let da0 := da && f.b == 0
  match f.sub with
  | 0x00 => onlyIf dab (.dqadd c (low3 f.d) (low3 f.a) (low3 f.b))
  | 0x01 => onlyIf dab (.dqsub c (low3 f.d) (low3 f.a) (low3 f.b))
  | 0x02 => onlyIf dab (.dqmul c (low3 f.d) (low3 f.a) (low3 f.b))
  | 0x03 => onlyIf dab (.dqdiv c (low3 f.d) (low3 f.a) (low3 f.b))
  | 0x04 => onlyIf da0 (.dqsqrt c (low3 f.d) (low3 f.a))
  | 0x05 => onlyIf (f.wrrr && high2 f.a && high2 f.b && f.d == 0) (.dqcmp c (low3 f.a) (low3 f.b))
  | 0x06 => onlyIf da0 (.dqfix c (low3 f.d) (low3 f.a))
  | 0x07 => onlyIf da0 (.dqflt c (low3 f.d) (low3 f.a))
  | 0x08 => onlyIf da0 (.dqrint c (low3 f.d) (low3 f.a))
  | 0x09 => onlyIf dab (.dqquant c (low3 f.d) (low3 f.a) (low3 f.b))
  | 0x0A => onlyIf (f.wrrr && high2 f.d && f.b == 0) (.dqld c (low3 f.d) f.a)
  | 0x0B => onlyIf (f.wrrr && high2 f.d && f.b == 0) (.dqst c (low3 f.d) f.a)
  | _ => none

/-- Major 0x70 (R216); an odd b of VCAS is decoded, and its meaning raises illegal instruction. -/
def decodeVat (c : CoreId) (f : Fields) : Option Instr :=
  if !f.wrrr || !high2 f.d then none
  else match f.sub with
  | 0x00 => onlyIf (f.b == 0) (.vld c (low3 f.d) f.a)
  | 0x01 => some (.vst c (low3 f.d) f.a f.b)
  | 0x02 => some (.vget c (low3 f.d) f.a f.b)
  | 0x03 => some (.vput c (low3 f.d) f.a f.b)
  | 0x04 => some (.vcas c (low3 f.d) f.a f.b)
  | _ => none

/-- Major 0x71 (R233). -/
def decodeDirectory (c : CoreId) (f : Fields) : Option Instr :=
  if !f.wrrr || !high2 f.d then none
  else match f.sub with
  | 0x00 => onlyIf (f.b == 0) (.find c (low3 f.d) f.a)
  | 0x01 => onlyIf (f.b == 0) (.post c (low3 f.d) f.a)
  | 0x02 => some (.dswap c (low3 f.d) f.a f.b)
  | _ => none

/-- The instruction that words 0 to 2 spell at a core; words past its length are not read. None where R102 makes the words
illegal in themselves: an unassigned or reserved major opcode, an unlisted sub-opcode, or a reserved field that is not 0.
A customer opcode is an instruction, whether or not microcode is loaded for it (R101, R377). -/
def decodeInstr (c : CoreId) (w0 w1 w2 : W16) : Option Instr :=
  let f := fieldsOf w0 w1 w2
  let s2 : RForm := .s f.xd f.xs
  match majorOf w0 with
  | 0x00 => decodeSystem c f
  | 0x01 => some (.mov c (.s f.xd f.xs))
  | 0x02 => some (.add c s2)
  | 0x03 => some (.sub c s2)
  | 0x04 => some (.addc c s2)
  | 0x05 => some (.subc c s2)
  | 0x06 => some (.and c s2)
  | 0x07 => some (.or c s2)
  | 0x08 => some (.xor c s2)
  | 0x09 => some (.cmp c (.s f.xd f.xs))
  | 0x0A => some (.shl c s2)
  | 0x0B => some (.shr c s2)
  | 0x0C => some (.sar c s2)
  | 0x0D => decodeUnary c f
  | 0x0E => some (.ld c .q (.reg f.xs) (wide f.xd))
  | 0x0F => some (.st c .q (.reg f.xd) (wide f.xs))
  | 0x10 => decodeAlu c f
  | 0x11 => decodeMul c f
  | 0x12 => decodeImm c f
  | 0x13 => decodeMovi c f
  | 0x18 => if f.wrrr then decodeMem c f (.idx f.a f.b) else none
  | 0x19 => if f.lrri then decodeMem c f (.disp f.a f.i) else none
  | 0x1A => decodeStack c f
  | 0x20 => onlyIf (f.sub3 == 0) (.bcc c (f.x.getLsbD 7) (f.x.extractLsb' 3 4) f.v)
  | 0x21 => onlyIf (f.sub % 128 == 0) (.br c (f.x.getLsbD 7) f.v)
  | 0x22 => onlyIf (f.sub % 128 == 0) (.bra c (f.x.getLsbD 7) f.i32)
  | 0x23 => onlyIf (f.sub % 128 == 0) (.call c (f.x.getLsbD 7) f.v)
  | 0x24 => onlyIf (f.sub % 128 == 0) (.calla c (f.x.getLsbD 7) f.i32)
  | 0x25 => decodeIndirect c f
  | 0x26 => onlyIf (f.sub % 128 == 0) (.ret c (f.x.getLsbD 7))
  | 0x27 => onlyIf (f.wrrr && f.sub4 == 0 && f.d == 0 && f.b == 0) (.repb c f.a f.xd)
  | 0x28 => onlyIf (f.sub4 == 0) (.repbi c f.v f.xd)
  | 0x30 => decodeStatus c f
  | 0x34 => decodePortImm c f
  | 0x35 => decodePortReg c f
  | 0x38 => decodeTranslation c f
  | 0x40 => onlyIf (f.lrri && decide (f.sub < 8) && high2 f.d) (.dld c (low3 f.d) f.a f.i ⟨f.sub3, by unfold Fields.sub3; omega⟩)
  | 0x41 => onlyIf (f.lrri && decide (f.sub < 8) && high2 f.d) (.dst c (low3 f.d) f.a f.i ⟨f.sub3, by unfold Fields.sub3; omega⟩)
  | 0x42 => decodeDecimal c f
  | 0x43 => onlyIf (f.wrrr && decide (f.sub < 8) && high2 f.d)
      (.dmac c (f.x.getLsbD 0) (f.x.getLsbD 1) (f.x.getLsbD 2) (low3 f.d) f.a f.b)
  | 0x44 => decodeConvert c f
  | 0x50 => decodeStrings c f
  | 0x60 => decodeBinary c f
  | 0x61 => decodeDecimal128 c f
  | 0x70 => decodeVat c f
  | 0x71 => decodeDirectory c f
  | 0x74 => onlyIf (f.wrrr && f.sub == 0 && high2 f.d && f.b == 0) (.swait c (low3 f.d) f.a)
  | m => onlyIf (decide (0xE0 ≤ m ∧ m ≤ 0xEF)) (.customerInstruction c w0 w1 w2)
where
  /-- An S-form register as a G register (R43). -/
  wide (r : SReg) : GReg := ⟨r.val, by omega⟩

/-! ### The encoder -/

/-- Word 0 of the S-form layouts: a major opcode and x (R100). -/
def word0 (m : BitVec 8) (x : BitVec 8) : W16 := m ++ x
/-- A register number in a field of 4 or 5 bits (R100). -/
def reg4 (r : Fin 16) : BitVec 4 := BitVec.ofFin r
def reg5 (r : GReg) : BitVec 5 := BitVec.ofFin r
/-- x of S-RR and of the S-X forms that name an S-form register first (R100). -/
def xPair (d s : SReg) : BitVec 8 := reg4 d ++ reg4 s
def xReg (d : SReg) (sub : BitVec 4) : BitVec 8 := reg4 d ++ sub
/-- x of the L-I32 forms that name a G register (R105, R119). -/
def xWide (d : GReg) (sub : BitVec 3) : BitVec 8 := reg5 d ++ sub
/-- Word 1 of W-RRR and of L-RRI (R100). -/
def word1 (d a b : GReg) : W16 := reg5 d ++ reg5 a ++ reg5 b ++ 0#1
def word1i (d a : GReg) : W16 := reg5 d ++ reg5 a ++ 0#6
/-- A W-RRR, an L-RRI and an L-I32 instruction. -/
def wForm (m x : BitVec 8) (d a b : GReg) : List W16 := [word0 m x, word1 d a b]
def lForm (m x : BitVec 8) (d a : GReg) (i : W16) : List W16 := [word0 m x, word1i d a, i]
def iForm (m x : BitVec 8) (i : BitVec 32) : List W16 := [word0 m x, i.extractLsb' 16 16, i.extractLsb' 0 16]
/-- An accumulator or L register in a 5-bit field (R129, R216). -/
def fld3 (r : Fin 8) : GReg := ⟨r.val, by omega⟩
/-- The annul bit in x[7] (R112). -/
def xAnnul (annul : Bool) (c : BitVec 4) : BitVec 8 := BitVec.ofBool annul ++ c ++ 0#3

/-- An ALU operation with an S form and a W form (R104, R105). -/
def aluWords (m sub : BitVec 8) : RForm → List W16
  | .s d s => [word0 m (xPair d s)]
  | .w d a b => wForm 0x10 sub d a b
/-- A load or store: the major of its register form, its sub-opcode and its address form (R109). -/
def memWords (x : BitVec 8) (quad : SReg → W16) (d : GReg) : AddrForm → List W16
  | .reg a => [quad a]
  | .idx a b => wForm 0x18 x d a b
  | .disp a i => lForm 0x19 x d a i
def ldCode : LdKind → BitVec 8
  | .w => 0x00 | .ws => 0x01 | .d => 0x02 | .ds => 0x03 | .q => 0x04
def stCode : StKind → BitVec 8
  | .w => 0x08 | .d => 0x09 | .q => 0x0A
/-- IN or OUT (R119). -/
def portWords (sub : BitVec 3) (r : GReg) : PortForm → List W16
  | .imm p => iForm 0x34 (xWide r sub) (p.setWidth 32)
  | .reg a => wForm 0x35 (sub.setWidth 8) r a 0
/-- An S-form register of a G register number (R43). -/
def narrow (r : GReg) : SReg := ⟨r.val % 16, by omega⟩

/-- The words of an instruction (R100, R101); none for an event, and for an IN or OUT row whose port a register gives,
since the row does not name the register. -/
def encodeInstr : Instr → List W16
  | .nop _ => [0x0001]
  | .lwait _ => [0x0002]
  | .vfence _ => [0x0003]
  | .fbar _ => [0x0004]
  | .sret _ => [0x0008]
  | .xret _ => [0x0009]
  | .mret _ => [0x000A]
  | .svc _ n => [word0 0x00 (0x10 + BitVec.ofNat 8 n.val)]
  | .mov _ (.s d s) => [word0 0x01 (xPair d s)]
  | .mov _ (.w d a) => wForm 0x10 0x0D d a 0
  | .add _ f => aluWords 0x02 0x00 f
  | .sub _ f => aluWords 0x03 0x01 f
  | .addc _ f => aluWords 0x04 0x02 f
  | .subc _ f => aluWords 0x05 0x03 f
  | .and _ f => aluWords 0x06 0x04 f
  | .or _ f => aluWords 0x07 0x05 f
  | .xor _ f => aluWords 0x08 0x06 f
  | .andn _ d a b => wForm 0x10 0x07 d a b
  | .cmp _ (.s d s) => [word0 0x09 (xPair d s)]
  | .cmp _ (.w a b) => wForm 0x10 0x0C 0 a b
  | .shl _ f => aluWords 0x0A 0x08 f
  | .shr _ f => aluWords 0x0B 0x09 f
  | .sar _ f => aluWords 0x0C 0x0A f
  | .rol _ d a b => wForm 0x10 0x0B d a b
  | .not _ d => [word0 0x0D (xReg d 0)]
  | .neg _ d => [word0 0x0D (xReg d 1)]
  | .tst _ d => [word0 0x0D (xReg d 2)]
  | .addi _ d a i => lForm 0x12 0x00 d a i
  | .andi _ d a i => lForm 0x12 0x04 d a i
  | .ori _ d a i => lForm 0x12 0x05 d a i
  | .xori _ d a i => lForm 0x12 0x06 d a i
  | .shli _ d a k => lForm 0x12 0x08 d a (k.setWidth 16)
  | .shri _ d a k => lForm 0x12 0x09 d a (k.setWidth 16)
  | .sari _ d a k => lForm 0x12 0x0A d a (k.setWidth 16)
  | .roli _ d a k => lForm 0x12 0x0B d a (k.setWidth 16)
  | .cmpi _ a i => lForm 0x12 0x0C 0 a i
  | .movi _ d i => iForm 0x13 (xWide d 0) i
  | .moviu _ d i => iForm 0x13 (xWide d 1) i
  | .movh _ d i => iForm 0x13 (xWide d 2) i
  | .mul _ d a b => wForm 0x11 0x00 d a b
  | .mulw _ d a b => wForm 0x11 0x01 d a b
  | .mulwu _ d a b => wForm 0x11 0x02 d a b
  | .mac _ d a b => wForm 0x11 0x03 d a b
  | .div _ d a b => wForm 0x11 0x04 d a b
  | .divu _ d a b => wForm 0x11 0x05 d a b
  | .ld _ k ea d => memWords (ldCode k) (fun a => word0 0x0E (xPair (narrow d) a)) d ea
  | .st _ k ea d => memWords (stCode k) (fun a => word0 0x0F (xPair a (narrow d))) d ea
  | .push _ s => [word0 0x1A (xReg s 0)]
  | .pop _ d => [word0 0x1A (xReg d 1)]
  | .bcc _ annul cond v => [word0 0x20 (xAnnul annul cond), v]
  | .br _ annul v => [word0 0x21 (xAnnul annul 0), v]
  | .bra _ annul i => iForm 0x22 (xAnnul annul 0) i
  | .call _ annul v => [word0 0x23 (xAnnul annul 0), v]
  | .calla _ annul i => iForm 0x24 (xAnnul annul 0) i
  | .callRegister _ annul a => [word0 0x25 (xReg a (BitVec.ofBool annul ++ 0#3))]
  | .jmpi _ annul a => [word0 0x25 (xReg a (BitVec.ofBool annul ++ 1#3))]
  | .ret _ annul => [word0 0x26 (xAnnul annul 0)]
  | .repb _ a n => wForm 0x27 (xReg n 0) 0 a 0
  | .repbi _ v n => [word0 0x28 (xReg n 0), v]
  | .setms _ a => [word0 0x30 (xReg a 0)]
  | .setkr _ a => [word0 0x30 (xReg a 1)]
  | .inp _ p d => portWords 0 d p
  | .outp _ p s => portWords 1 s p
  | .outRsd _ .imm s => portWords 1 s (.imm 0x000003)
  | .outRsp _ .imm s => portWords 1 s (.imm 0x000002)
  | .icinv _ .imm s => portWords 1 s (.imm 0x000060)
  | .outBpctl _ .imm s => portWords 1 s (.imm 0x000024)
  | .iclaim _ .imm d => portWords 0 d (.imm 0x000202)
  | .mbxData _ .imm d => portWords 0 d (.imm 0x000220)
  | .tlbiv _ a b => wForm 0x38 0x00 0 a b
  | .tlbit _ b => wForm 0x38 0x01 0 0 b
  | .tlbia _ => wForm 0x38 0x02 0 0 0
  | .tlbiaF _ => wForm 0x38 0x12 0 0 0
  | .tlblk _ a => wForm 0x38 0x03 0 a 0
  | .tlblkI _ a => wForm 0x38 0x13 0 a 0
  | .tlbul _ a => wForm 0x38 0x04 0 a 0
  | .tlbulI _ a => wForm 0x38 0x14 0 a 0
  | .skey _ l a b => wForm 0x38 0x05 (fld3 l) a b
  | .dld _ d a i n => lForm 0x40 (BitVec.ofNat 8 n.val) (fld3 d) a i
  | .dst _ d a i n => lForm 0x41 (BitVec.ofNat 8 n.val) (fld3 d) a i
  | .dadd _ d a b => wForm 0x42 0x00 (fld3 d) (fld3 a) (fld3 b)
  | .dsub _ d a b => wForm 0x42 0x01 (fld3 d) (fld3 a) (fld3 b)
  | .dcmp _ a b => wForm 0x42 0x02 0 (fld3 a) (fld3 b)
  | .daddc _ first d a b => wForm 0x42 ((BitVec.ofBool first).setWidth 4 ++ 3#4) (fld3 d) (fld3 a) (fld3 b)
  | .dsubc _ first d a b => wForm 0x42 ((BitVec.ofBool first).setWidth 4 ++ 4#4) (fld3 d) (fld3 a) (fld3 b)
  | .dmul _ d a b => wForm 0x42 0x05 (fld3 d) (fld3 a) (fld3 b)
  | .ddiv _ d a b => wForm 0x42 0x06 (fld3 d) (fld3 a) (fld3 b)
  | .dshl _ d a b => wForm 0x42 0x07 (fld3 d) (fld3 a) b
  | .dshr _ rm d a b => wForm 0x42 (rm.setWidth 4 ++ 8#4) (fld3 d) (fld3 a) b
  | .dcvb _ u d a => wForm 0x44 ((BitVec.ofBool u).setWidth 4 ++ 0#4) d (fld3 a) 0
  | .dcvd _ u d a => wForm 0x44 ((BitVec.ofBool u).setWidth 4 ++ 1#4) (fld3 d) a 0
  | .dmac _ ia ib n d a b =>
    wForm 0x43 (0#5 ++ BitVec.ofBool n ++ BitVec.ofBool ib ++ BitVec.ofBool ia) (fld3 d) a b
  | .mvs _ => [0x5000]
  | .mvsp _ => [0x5001]
  | .trs _ => [0x5002]
  | .cms _ => [0x5003]
  | .scs _ => [0x5004]
  | .scsN _ => [0x5014]
  | .eds _ => [0x5005]
  | .edsm _ => [0x5006]
  | .pks _ => [0x5007]
  | .ups _ => [0x5008]
  | .fadd _ d a b => wForm 0x60 0x00 d a b
  | .fsub _ d a b => wForm 0x60 0x01 d a b
  | .fmul _ d a b => wForm 0x60 0x02 d a b
  | .fma _ d a b => wForm 0x60 0x03 d a b
  | .fdiv _ l a b => wForm 0x60 0x04 (fld3 l) a b
  | .fsqrt _ l a => wForm 0x60 0x05 (fld3 l) a 0
  | .fcmp _ a b => wForm 0x60 0x06 0 a b
  | .fcvti _ d a => wForm 0x60 0x07 d a 0
  | .fcvtf _ d a => wForm 0x60 0x08 d a 0
  | .frint _ d a => wForm 0x60 0x09 d a 0
  | .dqadd _ d a b => wForm 0x61 0x00 (fld3 d) (fld3 a) (fld3 b)
  | .dqsub _ d a b => wForm 0x61 0x01 (fld3 d) (fld3 a) (fld3 b)
  | .dqmul _ d a b => wForm 0x61 0x02 (fld3 d) (fld3 a) (fld3 b)
  | .dqdiv _ d a b => wForm 0x61 0x03 (fld3 d) (fld3 a) (fld3 b)
  | .dqsqrt _ d a => wForm 0x61 0x04 (fld3 d) (fld3 a) 0
  | .dqcmp _ a b => wForm 0x61 0x05 0 (fld3 a) (fld3 b)
  | .dqfix _ d a => wForm 0x61 0x06 (fld3 d) (fld3 a) 0
  | .dqflt _ d a => wForm 0x61 0x07 (fld3 d) (fld3 a) 0
  | .dqrint _ d a => wForm 0x61 0x08 (fld3 d) (fld3 a) 0
  | .dqquant _ d a b => wForm 0x61 0x09 (fld3 d) (fld3 a) (fld3 b)
  | .dqld _ d a => wForm 0x61 0x0A (fld3 d) a 0
  | .dqst _ d a => wForm 0x61 0x0B (fld3 d) a 0
  | .vld _ l a => wForm 0x70 0x00 (fld3 l) a 0
  | .vst _ l a b => wForm 0x70 0x01 (fld3 l) a b
  | .vget _ l a b => wForm 0x70 0x02 (fld3 l) a b
  | .vput _ l a b => wForm 0x70 0x03 (fld3 l) a b
  | .vcas _ l a b => wForm 0x70 0x04 (fld3 l) a b
  | .find _ l a => wForm 0x71 0x00 (fld3 l) a 0
  | .post _ l a => wForm 0x71 0x01 (fld3 l) a 0
  | .dswap _ l a b => wForm 0x71 0x02 (fld3 l) a b
  | .swait _ l a => wForm 0x74 0x00 (fld3 l) a 0
  | .customerInstruction _ w0 w1 w2 => [w0, w1, w2]
  | _ => []

end Sys2Proof
end

