-- ==== Sys2Proof/Config.lean ====
section
/-!
DEFINITION. What the spec leaves to the part, to a named external standard, or open. Every constant here is opaque:
no proof can see a value of it. notes/assumptions/ names each one.
-/
namespace Sys2Proof.Config

/-- Where the spec fixes no value, the value is this function of a counter that the step reads and advances
(State.freeCount). -/
opaque freeValue : Nat → W64

/-- SHA-384, which the spec names (R395, R398, R482, R491) and does not define. -/
opaque sha384 : List Byte → BitVec 384
/-- ECDSA P-384 verification of a signature over a digest under a public key (R395). -/
opaque ecdsaVerify : List Byte → BitVec 384 → List Byte → Bool
/-- ECDSA P-384 signature of a digest with the part's watermark key (R483, R492). -/
opaque watermarkSign : BitVec 384 → List Byte
/-- Noward's public key in the Steward ROM (R396, R471). -/
opaque nowardKey : List Byte
/-- Noward's debug-authority public key (R498, R471). -/
opaque debugAuthorityKey : List Byte
/-- The Noward root and the Noward KL64 product authority certificate, in DER (R483). -/
opaque rootCertificate : List Byte
opaque authorityCertificate : List Byte
/-- The device certificate in DER, as a function of its subject serial number (R483). -/
opaque deviceCertificate : List Byte → List Byte
/-- Whether the hexadecimal digits of that serial number are capitals (R483). -/
opaque hexCapitals : Bool
/-- AES-256-GCM encryption as NIST SP 800-38D defines it: key, IV, additional data, plaintext to ciphertext (R444). -/
opaque gcmEncrypt : BitVec 256 → BitVec 96 → List Byte → List Byte → List Byte
/-- The AES-256-GCM tag of key, IV, additional data and ciphertext (R444). -/
opaque gcmTag : BitVec 256 → BitVec 96 → List Byte → List Byte → BitVec 128
/-- AES-256-GCM decryption: key, IV, additional data, ciphertext to plaintext (R444). -/
opaque gcmDecrypt : BitVec 256 → BitVec 96 → List Byte → List Byte → List Byte
/-- What a ring port's key slot holds before the Steward has installed a key in it (R444; notes/assumptions/157.md). -/
opaque absentRingKey : BitVec 256
/-- The key that a ring key record seals, when it unseals with the watermark key (R493): ephemeral public key and
sealed bytes to the 256-bit key. -/
opaque unsealRingKey : List Byte → List Byte → Option (BitVec 256)
/-- The crypto engine's random source (R498), as a function of the number of challenges made. -/
opaque randomNonce : Nat → BitVec 384

/-- Bits [55:0] of the serial number fused at manufacture (R472, R490). -/
opaque serialNumber : BitVec 56
/-- The ROM version that STW_ID.ROMV reports (R490). -/
opaque romVersion : BitVec 16
/-- The bytes of the Steward ROM, whose digest MR0 takes (R482). -/
opaque romBytes : List Byte
/-- Noward's JEDEC manufacturer code, reported by IDCODE (R494). -/
opaque jedecCode : BitVec 11

/-- The bytes of an owner key record that its signature block covers, and of a ring key record (R474, R493). -/
opaque ownerKeyBytes : OwnerKeyRecord → List Byte
opaque ringKeyBytes : RingKeyRecord → List Byte
/-- The records that the argument bytes of an in-band command hold (R486, R488). -/
opaque ownerKeyOf : List Byte → Option OwnerKeyRecord
opaque ringKeyOf : List Byte → Option RingKeyRecord
/-- The owner configuration block's parts, whose places R481 does not give beyond its magic and byte 9: where its signature
block begins, if it is well formed; flags; salt; password hash; ring key records. -/
opaque cfgSigned : List Byte → Option Nat
opaque cfgFlags : List Byte → BitVec 8
opaque cfgSalt : List Byte → BitVec 128
opaque cfgHash : List Byte → Option (BitVec 384)
opaque cfgRingKeys : List Byte → List RingKeyRecord
/-- The vendor base version of a base microcode image (R66, R398, R476). -/
opaque baseVersion : List Byte → BitVec 16

/-- Noward's PCI-SIG vendor ID and the revision ID, read in configuration space (R452, R485). -/
opaque vendorId : BitVec 16
opaque revisionId : BitVec 8
/-- The signature of an SPDM response over the transcript of its connection, which DSP0274 defines: the requester's nonce and a
count that stands for the transcript (R484). -/
opaque spdmSignature : BitVec 256 → Nat → List Byte
/-- The versions that Get MCTP Version Support reports (R485). -/
opaque mctpVersions : List Byte

/-- Every other register of configuration space, by function and byte offset, which the PCIe specification and the host's
settings fix (R452, R453). -/
opaque configReg : Nat → Nat → BitVec 32

/-- The code of an event in the error log, for the model's own numbering of the events that R491 lists. -/
opaque logCode : Nat → BitVec 16
/-- The 40 detail bytes of a log entry, as a function of its sequence number (R491). -/
opaque logDetail : Nat → BitVec 320

/-- The status with which a customer DSU routine of Tenant mode ends at a local word that Tenant mode may not touch: one of
those of R176 (R42, R165). -/
opaque dsuBoundStatus : Fin 10

/-- What a nano-word reads of an instruction field that its layout does not have, by layout and field (R383). -/
opaque absentField : Nat → Nat → W64

end Sys2Proof.Config
end

