-- ==== Sys2Proof/Machine/Store.lean ====
section
/-!
DEFINITION. Sparse memory in one canonical form: (address, unit) pairs with strictly rising addresses and no entry equal
to what an unlisted address reads as, which is zero (R215, R274, R425, R527: every array is zero-filled by a cold reset).
The spec's unit of memory is the 16-bit word (R5); byte arrays (flash, command buffer) and small tables use the same store
at their own width.
-/
namespace Sys2Proof.Machine

/-- A sparse array of units of w bits. An address that is not listed reads as 0. -/
abbrev Cells (w : Nat) := List (Nat × BitVec w)

/-- The canonical form: addresses strictly rising, no zero entry. -/
def Cells.wf {w : Nat} : Cells w → Bool
  | [] => true
  | [(_, v)] => v != 0#w
  | (a, v) :: (b, u) :: rest => v != 0#w && decide (a < b) && Cells.wf ((b, u) :: rest)

/-- What an address holds. -/
def Cells.get {w : Nat} : Cells w → Nat → BitVec w
  | [], _ => 0#w
  | (b, v) :: rest, a => if a = b then v else Cells.get rest a

/-- Removes what an address holds. -/
def Cells.drop {w : Nat} (m : Cells w) (a : Nat) : Cells w := m.filter (fun e => e.1 != a)

/-- Writes one unit and keeps the canonical form. -/
def Cells.set {w : Nat} : Cells w → Nat → BitVec w → Cells w
  | [], a, v => if v = 0#w then [] else [(a, v)]
  | (b, u) :: rest, a, v =>
    if a < b then (if v = 0#w then Cells.drop ((b, u) :: rest) a else (a, v) :: (b, u) :: rest)
    else if a = b then (if v = 0#w then Cells.drop rest a else (a, v) :: rest)
    else (b, u) :: Cells.set rest a v

/-- The n units from an address up. -/
def Cells.read {w : Nat} (m : Cells w) (a : Nat) : Nat → List (BitVec w)
  | 0 => []
  | n + 1 => m.get a :: Cells.read m (a + 1) n

/-- Writes a run of units from an address up. -/
def Cells.write {w : Nat} (m : Cells w) (a : Nat) : List (BitVec w) → Cells w
  | [] => m
  | v :: vs => Cells.write (m.set a v) (a + 1) vs

/-- Clears every unit at or above an address. -/
def Cells.clearFrom {w : Nat} (m : Cells w) (a : Nat) : Cells w := m.filter (fun e => e.1 < a)

/-- Clears the units of the addresses lo to hi - 1. -/
def Cells.clearRange {w : Nat} (m : Cells w) (lo hi : Nat) : Cells w :=
  m.filter (fun e => decide (e.1 < lo) || decide (hi ≤ e.1))

/-- The value of a run of words, the first the most significant (R8). -/
def quadOf (ws : List W16) : W64 := ws.foldl (fun acc w => (acc <<< 16) ||| w.setWidth 64) 0#64

/-- The four words of a quad, the most significant first (R8). -/
def wordsOf (v : W64) : List W16 :=
  [v.extractLsb' 48 16, v.extractLsb' 32 16, v.extractLsb' 16 16, v.extractLsb' 0 16]

/-- A word as two bytes, bits [15:8] first (R253, R281). -/
def bytesOfWord (w : W16) : List Byte := [w.extractLsb' 8 8, w.extractLsb' 0 8]

/-- Words as bytes (R253). -/
def bytesOfWords (ws : List W16) : List Byte := ws.flatMap bytesOfWord

/-- A word of two bytes, the first in bits [15:8] (R281). -/
def wordOfBytes (h l : Byte) : W16 := h ++ l

/-- Bytes as words; a last byte alone takes bits [15:8]. -/
def wordsOfBytes : List Byte → List W16
  | [] => []
  | [h] => [wordOfBytes h 0#8]
  | h :: l :: rest => wordOfBytes h l :: wordsOfBytes rest

/-- An unsigned big-endian number (R394, R476). -/
def beNat (bs : List Byte) : Nat := bs.foldl (fun acc b => acc * 256 + b.toNat) 0

/-- The low n bytes of a number, most significant first. -/
def natBytesBE : Nat → Nat → List Byte
  | 0, _ => []
  | n + 1, v => BitVec.ofNat 8 (v / 256 ^ n) :: natBytesBE n v

/-- The low n bytes of a number, least significant first. -/
def natBytesLE : Nat → Nat → List Byte
  | 0, _ => []
  | n + 1, v => BitVec.ofNat 8 v :: natBytesLE n (v / 256)

/-- Field [lo + w - 1 : lo] of a value, as a number. -/
def fieldN {n : Nat} (v : BitVec n) (lo w : Nat) : Nat := (v.extractLsb' lo w).toNat

/-- A Bool as bit i of a 64-bit value. -/
def bit64 (b : Bool) (i : Nat) : W64 := if b then (1#64 <<< i) else 0#64

/-- A number placed at bit lo of a 64-bit value. -/
def at64 (v lo : Nat) : W64 := BitVec.ofNat 64 v <<< lo

end Sys2Proof.Machine
end

