-- ==== Sys2Proof/Machine/State.lean ====
section
/-!
DEFINITION. The state of one KL64 as plain data: every register, buffer, array, queue and pin that the spec gives the
device, the commands that wait, and the model's own time base, age counter, free-value counter and record of what the
device sends out. INVENTORY.md, under State, lists each field with its rule and reset value.
-/
namespace Sys2Proof.Machine

/-! ### The core -/

/-- FL (R47). -/
structure Flags where
  c : Bool
  v : Bool
  z : Bool
  n : Bool
  dc : Bool
deriving DecidableEq, Repr

/-- An accumulator (R44). -/
structure Acc where
  sign : Bool
  tag : BitVec 7
  exp : BitVec 16
  dig : BitVec 136
deriving DecidableEq, Repr

/-- An L register with its poison mark (R43, R220, R221). Its busy bit is whether a long op names it (R46). -/
structure LReg where
  val : W64
  poisoned : Bool
deriving DecidableEq, Repr

/-- A trap request of a floating operation (R206): its enabled raised flags, address, word 0 and issue number. -/
structure FpReq where
  causes : BitVec 5
  addr : BitVec 32
  word0 : W16
  issue : Nat
deriving DecidableEq, Repr

/-- What an in-pipe result writes when it becomes visible (R70, R205, R49, R54). -/
inductive FDst where
  | g (r : GReg) (v : W64)
  | a (r : AReg) (v : Acc)
  /-- T0 or T1, as a later microword reads it (R378, R379) -/
  | t (one : Bool) (v : W64)
  | ms (mode ie : Bool)
  | krr (v : W32)
  | bpctl (v : BitVec 4)
  | fp (flags : BitVec 5) (req : Option FpReq)
  /-- the load data that a later microword of the same instruction reads (R378, R383) -/
  | ld (v : W64)
deriving DecidableEq, Repr

/-- A result in flight: `left` more instructions execute before it is visible (R69). -/
structure Flight where
  dst : FDst
  left : Nat
deriving DecidableEq, Repr

/-- A customer instruction that stalls after a microword has written (R386): the next micro-address, the temporaries and
load data (R379, R383), the results in flight when it began, the results its microwords made visible, and how many
microwords it has executed. -/
structure Micro where
  upc : Nat
  t0 : W64
  t1 : W64
  ld : W64
  old : List Flight
  wrote : List Flight
  count : Nat
deriving DecidableEq, Repr

/-- What a synchronous machine check in a delay slot undoes of the branch (R367). -/
inductive RsUndo where
  | none
  | pushed
  | popped (v : BitVec 32)
deriving DecidableEq, Repr

/-- A branch whose delay slot is the next instruction (R87, R113, R352). -/
structure Branch where
  target : BitVec 32
  pc : BitVec 32
  undo : RsUndo
  /-- the MS of the XRET that executes this slot, when an XRET does (R367) -/
  xretMs : Option (Bool × Bool)
deriving DecidableEq, Repr

/-- DKTL (R160). -/
structure Tally where
  st : BitVec 4
  op : BitVec 4
  nib : BitVec 2
  sig : Bool
  ps : Bool
  neg : Bool
  z : Bool
  lo : Bool
  md : Bool
  fc : BitVec 8
  ia : BitVec 32
deriving DecidableEq, Repr

/-- The deckle group (R156, R159, R160, R163). -/
structure Deckle where
  sa : BitVec 15
  sc : BitVec 32
  da : BitVec 15
  dc : BitVec 32
  ep : BitVec 15
  tl : Tally
  fill : W16
  cb : W16
  mark : BitVec 15
  mv : Bool
  cset : W16
deriving DecidableEq, Repr

/-- The X save set (R56). -/
structure XSet where
  xvb : BitVec 32
  xpc : BitVec 32
  xfl : Flags
  xms : BitVec 3
  xtgt : BitVec 32
  cause : BitVec 8
  xds : Bool
  xsh : Bool
  xlp : Bool
  xrs : Bool
  lvl : BitVec 2
  xad : BitVec 40
deriving DecidableEq, Repr

/-- The M save set (R57). -/
structure MSet where
  mpc : BitVec 32
  mms : BitVec 3
  cause : BitVec 8
  lvl : BitVec 2
  mcip : Bool
deriving DecidableEq, Repr

/-- The status, rights, control and save registers of a core (R48 to R57). -/
structure Sys where
  mode : Bool
  ie : Bool
  krr : W32
  brm : BitVec 3
  drm : BitVec 3
  fpen : BitVec 5
  fpsf : BitVec 5
  fop : W16
  ote : Bool
  psf : Bool
  zsk : Bool
  bpctl : BitVec 4
  txb : BitVec 15
  tyb : BitVec 15
  tib : BitVec 14
  sve : Vector (BitVec 32) 8
  spc : BitVec 32
  sflFl : Flags
  sflMs : BitVec 3
  x : XSet
  m : MSet
deriving DecidableEq, Repr

/-- The loop registers, with the OUTs of a REPB body that wait for its loop end (R39, R115). -/
structure Loop where
  lc : BitVec 32
  ls : BitVec 32
  le : BitVec 32
  lcNew : Option (BitVec 32)
  lsNew : Option (BitVec 32)
  leNew : Option (BitVec 32)
deriving DecidableEq, Repr

/-- A store-buffer entry (R82, R83): local words, the data of a VST, or one part of a translated PUSH. -/
inductive SbEntry where
  | loc (a : Nat) (ws : List W16)
  | vst (l : LRegId)
  | push (pa : Nat) (ws : List W16) (stamp : Nat)
deriving DecidableEq, Repr

/-- When a request entered the mesh: the mesh cycle (R17), and its place in the model's one order of events, by which a report
comes before it or after it (R214). -/
structure Entry where
  cycle : Nat
  seq : Nat
deriving DecidableEq, Repr

/-- A store of a translated PUSH in the mesh queue, and when its request entered (R17, R78). -/
structure PushReq where
  pa : Nat
  ws : List W16
  stamp : Nat
  entry : Option Entry
deriving DecidableEq, Repr

/-- A posted OUT to a device port (R77). -/
structure OutReq where
  port : BitVec 24
  val : W64
  stamp : Nat
  entry : Entry
deriving DecidableEq, Repr

/-- The directory ports (R229). -/
structure DirCfg where
  logn : BitVec 5
  base : BitVec 19
  seed1 : W64
  seed2 : W64
deriving DecidableEq, Repr

/-- The working registers of a DSU routine, which read 0 at every issue and re-issue (R387). -/
structure DsuRegs where
  u : W16
  v : W16
  p : W16
  w : W16
  m : W16
  d : Nat
deriving DecidableEq, Repr

/-- Where a DSU instruction that has begun stands: its own deckle group, which its delivery writes (R156), that group as it was at
the last unit boundary (R370), and the registers and the next word of a routine (R387). -/
structure DsuAt where
  dk : Deckle
  mark : Deckle
  regs : DsuRegs
  addr : Nat
deriving DecidableEq, Repr

/-- A long op's kind, with the operands it read at issue (R74). -/
inductive LOp where
  | vld (pa : Nat)
  | vst (pa : Nat) (v : W64)
  | vget (pa : Nat) (dst : Nat)
  | vput (pa : Nat) (ws : List W16)
  | vcas (pa : Nat) (expect new : W64)
  /-- a translated POP: physical address and word count of its one or two parts (R59) -/
  | pop (pa0 n0 : Nat) (pa1 n1 : Nat) (w0 w1 : Option (List W16)) (bad : Bool)
  /-- FIND: the two buckets that it reads one by one, as far as they have been read, and whether one could not be trusted (R236) -/
  | find (key : W64) (dir : DirCfg) (w1 w2 : Option (List W16)) (bad : Bool)
  /-- DSWAP: the slot's physical word address, the block read and its local address -/
  | dswap (pa : Nat) (block : List W16) (addr : Nat)
  | post (id : Nat)
  | skey (frame : BitVec 24) (v : W64)
  | devIn (port : BitVec 24)
  | swait (w : WinId)
  | calc
  /-- a DSU instruction: x[3:0], x[4], its address, the mode it runs in, whether a stop is requested (R178), and where it
  stands once it has begun -/
  | dsu (op : BitVec 4) (md : Bool) (ia : BitVec 32) (service : Bool) (stop : Bool) (run : Option DsuAt)
deriving DecidableEq, Repr

/-- What a long op will deliver, once it is known (R74). -/
inductive LRes where
  | l (v : W64) (poisoned : Bool)
  | a1 (v : Acc)
  | a2 (hi lo : Acc)
  /-- VGET: status, the 32 words, the 4-word groups that hold an uncorrectable symbol (R220) -/
  | line (status : W64) (ws : List W16) (bad : List Nat)
  /-- DSWAP: status, and the old slot when the bank read it (R235) -/
  | slot (status : W64) (old : Option (List W16))
deriving DecidableEq, Repr

/-- The flags, and the trap request, that a floating long op brings at delivery (R205, R206). -/
structure FpRaise where
  flags : BitVec 5
  req : Option FpReq
deriving DecidableEq, Repr

/-- An outstanding long op (R74, R78): its place in the order of issue, and when its request entered the mesh (R17); a VST enters
once its store-buffer entry has left (R83), a DSWAP once the core's earlier stores are written (R224). -/
structure LongOp where
  dest : LDest
  op : LOp
  stamp : Nat
  entry : Option Entry
  res : Option LRes
  fp : Option FpRaise
deriving DecidableEq, Repr

/-- A TLB entry (R321); `fill` orders the fills, and lists are kept most recently used first (R320). -/
structure TlbEntry where
  vpn : BitVec 28
  cont : Nat
  frame : BitVec 24
  r : Bool
  w : Bool
  x : Bool
  u : Bool
  g : Bool
  mt : BitVec 2
  tag : BitVec 12
  key : BitVec 4
  grd : BitVec 2
  locked : Bool
  fill : Nat
deriving DecidableEq, Repr

/-- A walk-cache entry: the next-level table found for a tag, level and VPN prefix (R318, R322). -/
structure WalkEntry where
  tag : BitVec 12
  lvl : Nat
  idx : Nat
  frame : BitVec 24
deriving DecidableEq, Repr

/-- An instruction-cache line (R98, R323). -/
structure ICLine where
  set : Nat
  line : Nat
  ws : List W16
  /-- the 4-word groups of the line that cannot be trusted (R365) -/
  bad : List Nat
deriving DecidableEq, Repr

/-- An instruction word fetched before an invalidation (R73, R335). -/
structure Prefetched where
  addr : BitVec 32
  w : W16
deriving DecidableEq, Repr

/-- A translation context (R316, R284). -/
structure Ctx where
  root : BitVec 24
  tag : BitVec 12
  v : Bool
deriving DecidableEq, Repr

/-- A stream window (R303 to R306). -/
structure Window where
  base : BitVec 15
  lsz : BitVec 4
  nsl : BitVec 4
  ie : Bool
  en : Bool
  wr : BitVec 4
  queue : List W64
  own : Bool
  osl : BitVec 4
  inUse : List (BitVec 4)
deriving DecidableEq, Repr

/-- The interrupt, timer and mailbox registers of a core (R356, R361, R362). -/
structure Irq where
  ipl : BitVec 3
  ipnd : W64
  tcmp : W64
  ten : Bool
  tlvl : BitVec 3
  tpnd : Bool
  /-- whether the timer's condition held when last looked at (R361) -/
  tcond : Bool
  mbx : List W64
  movf : Bool
  mlvl : BitVec 3
  men : Bool
deriving DecidableEq, Repr

/-- CORE_CTL and the core's standing with its warden (R363, R338, R369, R400, R513). -/
structure Ctl where
  wen : Bool
  wlvl : BitVec 3
  gated : Bool
  cks : Bool
  /-- CORE_CTL.RST was written, and the core's requests are still outstanding (R373) -/
  rstDue : Bool
  iso : Bool
  run : Bool
  /-- the gating does not wake (R363, R515) -/
  noWake : Bool
  /-- ungated by R363 or by a delivery while Trim or Idle gates it (R513) -/
  woken : Bool
  /-- a long op has delivered to the core while it was gated (R513) -/
  dlv : Bool
  /-- since when the core's next instruction waits, whether for a long op, LWAIT or VFENCE (R513), and whether it is an FBAR
  (R359) -/
  stallSince : Option Nat
  opStall : Bool
  fbWait : Bool
  /-- the walk that the next instruction waits for, and one left in progress by an interrupt (R318, R359) -/
  need : Option (WalkKind × BitVec 40)
  walkBg : Option (WalkKind × BitVec 40)
  /-- a DSU operation stopped by a quiesce, to be re-issued (R400) -/
  dsuStopped : Bool
  /-- broadcasts recorded while gated, and whether one had OP 3 (R338) -/
  recShoot : Bool
  recShootF : Bool
  /-- asynchronous machine checks that wait for a boundary (R365, R367) -/
  asyncMc : List MCause
  /-- a control-store reload is due or ran: parity error at this instruction or DSU word (R369, R370) -/
  reload : Option Bool
deriving DecidableEq, Repr

/-- One core. -/
structure Core where
  g : Vector W64 32
  l : Vector LReg 8
  a : Vector Acc 8
  pc : BitVec 32
  fl : Flags
  dsp : BitVec 40
  rsp : BitVec 16
  /-- the hardware top of the return stack, newest first; RSD is its length (R60 to R63) -/
  rs : List (BitVec 32)
  loop : Loop
  dk : Deckle
  sys : Sys
  flights : List Flight
  branch : Option Branch
  micro : Option Micro
  /-- a decimal-overflow trap due at the next boundary: address of the instruction (R151) -/
  ovf : Option (BitVec 32)
  /-- floating trap requests that are due (R206) -/
  fpDue : List FpReq
  icount : Nat
  loc : Cells 16
  /-- local 4-word groups whose check bits report uncorrectable (R220, R221) -/
  locBad : Cells 1
  /-- local 4-word groups with one bit in error, which a read corrects, and how many such reads were counted (R177) -/
  locOne : Cells 1
  locCe : BitVec 32
  iram : Cells 16
  iramBad : Cells 1
  sbuf : List SbEntry
  longs : List LongOp
  pushq : List PushReq
  outq : List OutReq
  itlb : List TlbEntry
  dtlb : List TlbEntry
  wcache : List WalkEntry
  icache : List ICLine
  /-- the up to 3 words that stood in F1, F2 and D at an invalidation and execute as fetched (R73, R335) -/
  ahead : List Prefetched
  /-- the indirect-target table and T1 to T4, newest first (R91) -/
  jtab : Cells 32
  jhist : List (BitVec 32)
  dir : DirCfg
  win : Vector Window 16
  irq : Irq
  cxt : Ctx
  ctl : Ctl
deriving DecidableEq, Repr

/-! ### Quires, Vat, posting, journal -/

/-- INT_ROUTE of one source, with the core that received it last (R354, R355). -/
structure Route where
  cores : BitVec 8
  lvl : BitVec 3
  one : Bool
  en : Bool
  pnd : Bool
  last : Option (Fin 8)
  /-- the Steward messages that go with the next delivery (R570) -/
  msgs : List (BitVec 56)
deriving DecidableEq, Repr

/-- TLB_SHOOT, with those that have still to apply the accepted request (R337, R338). -/
structure Shoot where
  vpn : BitVec 28
  tag : BitVec 12
  op : BitVec 2
  ovr : Bool
  waiting : List ShootTarget
deriving DecidableEq, Repr

/-- A control-store image: the four stores, and what MCVER reports (R376, R66, R398). -/
structure Image where
  dispatch : Cells 24
  micro : Cells 24
  nano : Cells 112
  dsu : Cells 24
  /-- the parity bits beside the words, inverted, so that a word of zeros lists none; their numbers run through the stores in
  order (R376, R392) -/
  parity : Cells 1
  base : W16
  patch : W16
  custId : W16
  custVer : W16
  digest : BitVec 384
deriving DecidableEq, Repr

/-- One quire's warden and quire translation cache. -/
structure Quire where
  routes : Vector Route 64
  shoot : Shoot
  failed : Bool
  qtc : List TlbEntry
  image : Image
  /-- a control-store load or the quiesce of a power state holds the cores (R400) -/
  quiesced : Bool
deriving DecidableEq, Repr

/-- How far a posting has come (R240). -/
inductive PostPhase where
  | issued
  | lockedLo
  | lockedHi
  | closed (r : BitVec 4) (seq : W64)
  | released
deriving DecidableEq, Repr

/-- A posting in flight, with all that its POST captured at issue (R237 to R240). -/
structure Posting where
  id : Nat
  core : CoreId
  l : LRegId
  /-- physical word addresses of the balance fields and of the limit field (R238) -/
  paA : Nat
  paB : Nat
  limit : Nat
  n : Nat
  od : Bool
  jc : BitVec 2
  amt : List W16
  pid : List W16
  ridA : BitVec 32
  ridB : BitVec 32
  krr : W32
  mode : Bool
  psf : Bool
  zsk : Bool
  stamp : Nat
  /-- when the request that it waits with entered the mesh, after the wait of R224 (R17) -/
  entry : Option Entry
  phase : PostPhase
  /-- the lo and the hi line as read when they were locked, and whether a read was uncorrectable or poisoned (R240) -/
  wsLo : List W16
  wsHi : List W16
  bad : Bool
  newA : List W16
  newB : List W16
deriving DecidableEq, Repr

/-- The journal unit (R254 to R274) and its part of the ring (R437 to R440). -/
structure Journal where
  pen : Bool
  rpe : Bool
  hde : Bool
  rep : Bool
  pf : Bool
  frz : Bool
  jerr : Bool
  next : W64
  repl : W64
  hbm : W64
  host : W64
  dur : W64
  hbase : BitVec 36
  logh : BitVec 5
  qaddr : BitVec 52
  logq : BitVec 5
  mhi : W64
  msrc : BitVec 4
  mv : Bool
  /-- the predecessor's sequence number in each slot of the mirror, 0 for a slot that is empty or that its JNL_DUR has freed
  (R258, R440) -/
  mslots : Cells 64
  /-- a fallback was signalled and its end is not yet (R265) -/
  fbSig : Bool
  /-- the entry at which JERR halted replication and copying (R272) -/
  jerrSeq : W64
  /-- the next expected sequence E, and the JNL_DUR last received on port B, whoever sent it (R437) -/
  expect : W64
  pdur : W64
  /-- the next sequence that port A sends, when the last 3 entries were appended, newest first, and when sending last began from a
  new position (R435, R439) -/
  sendPos : W64
  appended : List Nat
  restart : Nat
  /-- when JNL_REPL last advanced or sending last restarted (R439), and when an acknowledgement was last sent (R438) -/
  replSince : Nat
  ackSince : Nat
  /-- the JNL_DUR last sent, and when (R440) -/
  durSent : W64
  durSince : Nat
  /-- when RESEND was last sent and for which E (R437) -/
  resendFor : W64
  resendSince : Nat
  pfSince : Nat
  /-- an earlier slot was not free: a RESEND is owed when it frees (R437) -/
  stuck : Bool
deriving DecidableEq, Repr

/-- What a unit that asks the mesh for a line wants it for: a table walk, an instruction-cache line, data or the journal's copy, the
journal's drain to the host, entries that port A sends again. -/
inductive Task where
  | walk (k : WalkKind)
  | fill
  | data
  | drain
  | resend
deriving DecidableEq, Repr

/-- A request of a walk, of an instruction fetch, of a stream engine or of the journal that waits for a line: the source, the
line, the mesh cycle in which it entered and its place within the cycle (R17). -/
structure MeshWait where
  src : Nat
  task : Task
  line : Nat
  cycle : Nat
  ord : Nat
deriving DecidableEq, Repr

/-- A BAR4 read that the host waits for: its bytes, the cycle in which its requests entered and their place in it, the Vat lines
still to be read, whether one read could not be trusted, and the bytes read, by offset in the window (R457). -/
structure Bar4Read where
  off : Nat
  len : Nat
  cycle : Nat
  ord : Nat
  todo : List Nat
  bad : Bool
  data : Cells 8
deriving DecidableEq, Repr

/-- An access to device ports: its sender, its bytes as BAR0 counts them, the value that it writes, the cycle in which it entered
and its place in it (R17, R455). -/
structure PortAcc where
  who : Accessor
  off : Nat
  len : Nat
  val : Option W64
  cycle : Nat
  ord : Nat
deriving DecidableEq, Repr

/-! ### Streams -/

/-- Work that Camwin gives an engine: queue pair, SQ index, target core, the entry read and the descriptor (R463); live
until the queue pair is disabled (R460). -/
structure CamWork where
  qp : QpId
  sqi : BitVec 12
  core : CoreId
  data : HostReply
  words : List W16
  live : Bool
deriving DecidableEq, Repr

/-- Where a ring descriptor was fetched, so that its words 14 and 15 can be written back (R569). -/
inductive Place where
  | none
  | ram (c : CoreId) (iram : Bool) (a : Nat)
  | mem (pa : Nat)
deriving DecidableEq, Repr

/-- A descriptor that an engine runs (R285 to R305). -/
structure Running where
  words : List W16
  place : Place
  cam : Option CamWork
  /-- the status and FLD when it is decided before any data moves -/
  ended : Option (BitVec 8 × BitVec 7)
  slot : BitVec 4
  /-- the destination once a slot is taken -/
  dst : W64
  /-- the completion record that waits for room in its window (R304) -/
  record : Option W64
deriving DecidableEq, Repr

/-- A stream engine (R284). -/
structure Engine where
  en : Bool
  halt : Bool
  pfe : Bool
  cen : Bool
  err : Bool
  mwe : Bool
  lst : BitVec 8
  rbase : W64
  rcfg : BitVec 4
  head : BitVec 32
  tail : BitVec 32
  xctx : Ctx
  krr : W32
  maddr : BitVec 12
  done : BitVec 32
  fail : BitVec 32
  /-- values written to SE_RBASE, SE_RCFG, SE_XCTX while BUSY, which wait for the boundary (R284) -/
  rbaseNew : Option W64
  rcfgNew : Option (BitVec 4)
  xctxNew : Option Ctx
  mould : Cells 16
  cur : Option Running
  work : List CamWork
  /-- whether Camwin work was started last (R287) -/
  lastCam : Option Bool
  abort : Bool
  /-- descriptors read ahead: index and words (R283) -/
  ahead : List (BitVec 32 × List W16)
  gated : Bool
deriving DecidableEq, Repr

/-! ### HBM -/

/-- HC_EC of one pseudo-channel (R417). -/
structure HcEc where
  ce : W16
  ue : W16
  pr : W16
  /-- source 46 was raised since CE was last below THR (R417) -/
  raised : Bool
deriving DecidableEq, Repr

/-- The HBM controller's ports (R417). -/
structure Hbm where
  cm : BitVec 2
  rdy : Bool
  sr : Bool
  cal : Bool
  tf : Bool
  zf : Bool
  tr : BitVec 2
  nrep : BitVec 8
  parc : W16
  /-- how often in a row the stack is to signal a parity error on the next command, 2 for twice: a fault of the world outside
  that no command of the table brings (R406; DESIGN CHOICE, notes/assumptions/178.md) -/
  parErr : BitVec 2
  temp : BitVec 8
  tempV : Bool
  per : BitVec 8
  pos : BitVec 36
  pass : BitVec 20
  win : BitVec 32
  wmin : BitVec 8
  rmin : BitVec 8
  low : Bool
  /-- when the window that is open, or was open last, began (R421) -/
  calOpened : Nat
  thr : W16
  injAddr : BitVec 36
  injMode : BitVec 2
  injArm : Bool
  logAddr : BitVec 36
  logPc : BitVec 4
  logUe : Bool
  logScr : Bool
  logV : Bool
  ec : Vector HcEc 16
deriving DecidableEq, Repr

/-! ### Ring -/

/-- A key slot of one direction of a ring port (R444). -/
structure KeySlot where
  key : Option (BitVec 256)
  salt : BitVec 32
  count : W64
deriving DecidableEq, Repr

/-- One ring port (R451, R442, R444). -/
structure RingPort where
  lk : BitVec 4
  algn : Bool
  up : Bool
  enc : Bool
  txSlot : Fin 2
  rxSlot : Fin 2
  she : W16
  auth : W16
  rlk : W16
  rsnd : W16
  mrg : BitVec 32
  slots : BitVec 32
  tx : Vector KeySlot 2
  rx : Vector KeySlot 2
  /-- when a valid sheet last came in, when anything last went out -/
  lastRx : Nat
  lastTx : Nat
  tagRun : Nat
  lost : Option Nat
  /-- the TMR_NOW of the calender slot last used (R445) -/
  calAt : W64
  /-- the transmitter's trims, lane l: post-cursor in [16l + 15:16l + 8], pre-cursor in [16l + 7:16l]; and the margins that
  the other end reported for its lanes (R445) -/
  trim : W64
  txEye : BitVec 32
  /-- the position and serial number that HELLO brought (R433) -/
  nPos : BitVec 4
  nKnown : Bool
  nSerial : W64
  hello : Bool
deriving DecidableEq, Repr

/-- States of a ring join (R448). -/
inductive RingSt where
  | off | listen | insert | hello | census | joined | left
deriving DecidableEq, Repr

/-- The ring ports and the join (R448, R451). -/
structure Ring where
  jen : Bool
  enca : Bool
  encb : Bool
  st : RingSt
  byp : Bool
  dup : Bool
  encm : Bool
  acc : Bool
  nmem : BitVec 5
  rjn : BitVec 4
  why : BitVec 4
  pos : BitVec 4
  pv : Bool
  lvt : BitVec 8
  rjmax : BitVec 4
  pa : RingPort
  pb : RingPort
  /-- when the state was entered; since when LISTEN traffic is clean (R448) -/
  since : Nat
  clean : Option Nat
  /-- the members of the last census: position and serial number -/
  members : List (BitVec 4 × BitVec 56)
  /-- this device has started a census that has not come back -/
  censusSent : Bool
deriving DecidableEq, Repr

/-! ### Host interface -/

/-- CQ_BIND (R459). -/
structure Bind where
  mld : BitVec 6
  eng : EngId
  win : WinId
  ack : BitVec 2
  fn : FnId
  vec : BitVec 7
  ve : Bool
  qq : QuireId
  qs : BitVec 5
  qe : Bool
deriving DecidableEq, Repr

/-- A staged completion (R464). -/
structure Cmpl where
  seq : W64
  sqi : BitVec 12
  rc : BitVec 4
  sst : BitVec 8
  dev : Bool
deriving DecidableEq, Repr

/-- A submission that still awaits a completion (R462): its index, its core, and whether it was delivered. -/
structure Sub where
  sqi : BitVec 12
  core : CoreId
  delivered : Bool
deriving DecidableEq, Repr

/-- A queue pair (R459 to R468). The sq*, cq*, bind fields as written; the act* fields as latched at the last enabling
(R460). -/
structure QueuePair where
  sqb : BitVec 52
  cqb : BitVec 52
  sqn : BitVec 13
  cqn : BitVec 13
  bind : Bind
  cores : W64
  ith : BitVec 8
  itt : W16
  actSqb : BitVec 52
  actCqb : BitVec 52
  act : Bind
  sqh : BitVec 13
  cqt : BitVec 13
  stop : Bool
  ph : Bool
  why : BitVec 4
  ovf : Bool
  sqt : BitVec 13
  cqh : BitVec 13
  resv : Nat
  subs : List Sub
  staged : List Cmpl
  lastCore : Option CoreId
  /-- the entry fetched and not yet given to its engine (R462, R463) -/
  fetched : Option (BitVec 12 × HostReply)
  /-- completions since the last signal, and when the first of them was written (R466) -/
  unsig : Nat
  firstUnsig : Option Nat
  /-- doorbells recorded in Dormant (R516) -/
  lateSq : Option W64
  lateCq : Option W64
  /-- a Function Level Reset has disabled the queue pair since it was last enabled (R469) -/
  flr : Bool
deriving DecidableEq, Repr

/-- Configuration space of a function, as far as the spec gives it an effect (R452 to R454, R458, R466): Bus Master Enable and
Memory Space Enable, the bases of its BARs, Max Payload and Max Read Request Size as PCIe encodes them, MSI-X Enable and Function
Mask. -/
structure FnCfg where
  bme : Bool
  mse : Bool
  bar0 : W64
  bar2 : W64
  bar4 : W64
  mps : BitVec 3
  mrrs : BitVec 3
  msixEn : Bool
  fnMask : Bool
deriving DecidableEq, Repr

/-- The PCIe side (R452 to R458, R466, R470). -/
structure HostIf where
  b4e : Bool
  lw : BitVec 6
  ls : BitVec 4
  lup : Bool
  pwe : Bool
  nvf : BitVec 4
  evt : BitVec 6
  evec : BitVec 7
  een : Bool
  emsk : BitVec 6
  cfg : Vector FnCfg 16
  /-- the base that SR-IOV gives the VFs' BAR2 (R454) -/
  vfBar : W64
  /-- MSI-X tables: doubleword d of vector v of function f at 512 f + 4 v + d; the mask bit is kept inverted -/
  msix : Cells 32
  /-- MSI-X pending bits, vector v of function f at 128 f + v -/
  pba : Cells 1
  /-- BAR4 reads that wait for a line, oldest first (R457) -/
  reads : List Bar4Read
deriving DecidableEq, Repr

/-! ### Steward, clocks, power, reset -/

/-- Boot stages (R480). -/
inductive Bst where
  | rom | verify | hbm | fill | ready | held | recovery | bootfail | haltsafe | vendor
deriving DecidableEq, Repr

/-- An SPDM connection (R484). -/
structure Spdm where
  version : Bool
  caps : Bool
  algs : Bool
  /-- a request answered with ResponseNotReady: CHALLENGE nonce, or GET_MEASUREMENTS index and nonce -/
  waiting : Option (Option (BitVec 8) × BitVec 256)
deriving DecidableEq, Repr

/-- A log entry (R491): sequence, time, event code, source, detail, digest prefix. -/
structure LogEntry where
  seq : BitVec 32
  time : W64
  event : W16
  source : W16
  detail : List Byte
  chain : BitVec 64
deriving DecidableEq, Repr

/-- The owner configuration in effect (R481). -/
structure OwnerCfg where
  ocs : Bool
  rba : Bool
  pv : Bool
  pos : BitVec 4
  salt : List Byte
  hash : Option (BitVec 384)
deriving DecidableEq, Repr

/-- Fuses (R472). -/
structure Fuses where
  serial : W64
  hash : Vector (BitVec 384) 4
  prog : BitVec 4
  rev : BitVec 4
  floor : Nat
  unlocks : Nat
deriving DecidableEq, Repr

/-- The TAP instructions that the spec names (R494, R496, R498). -/
inductive Tap where
  | bypass | idcode | sample | extest | extestPulse | extestTrain | unlock | vchal
deriving DecidableEq, Repr

/-- The Steward (R471 to R500). -/
structure Steward where
  bst : Bst
  slot : BitVec 2
  dbg : BitVec 2
  pwf : BitVec 4
  plk : Bool
  pwUntil : Nat
  fat : Bool
  /-- fatal faults detected and not yet handled (R374) -/
  faults : List FatalKind
  hsf : Bool
  alrt : Bool
  bfc : BitVec 8
  fwv : W16
  sv : BitVec 6
  fuses : Fuses
  cmdLen : BitVec 13
  cmdBusy : Bool
  cmdDone : Bool
  rlen : BitVec 13
  buf : Cells 8
  log : List LogEntry
  logNext : BitVec 32
  chain : BitVec 384
  /-- C after each entry since the cold reset, which READ_LOG gives (R492) -/
  chains : Cells 384
  flushed : BitVec 32
  /-- C after the entry of the last fatal fault handled, and the signature over it (R492) -/
  fatalSig : Option (BitVec 384 × List Byte)
  mr : Vector (BitVec 384) 8
  flash : Cells 8
  /-- targets that UPDATE_IMAGE has marked invalid and no COMMIT has accepted since (R487): slot A, slot B, owner configuration -/
  badA : Bool
  badB : Bool
  badCfg : Bool
  cfg : OwnerCfg
  spdm : Vector Spdm 3
  eid : Byte
  eidVdm : Byte
  nonce : Option (BitVec 384)
  challenges : Nat
  tap : Tap
  boundary : List Bool
  straps : BitVec 5
  mcQm : BitVec 8
  mcAddr : BitVec 63
  mcHbm : Bool
  mcGo : Bool
  mcBusy : Bool
  mcDone : Bool
  mcErr : BitVec 8
  mcQd : BitVec 8
  mcOcs : Bool
  /-- the digest of the bundle that is being loaded, and the images of the quires still to be loaded (R393, R400, R482) -/
  mcDigest : BitVec 384
  mcTodo : List (QuireId × Image)
deriving DecidableEq, Repr

/-- Power states (R510). -/
inductive PwrSt where
  | run | trim | idle | dormant
deriving DecidableEq, Repr

/-- A transition between power states, which BUSY shows (R512): to Run, Trim or Idle; to Dormant; out of Dormant, with the
mesh spine ungated, and with the stack retrained (R515, R517). -/
inductive PwrMove where
  | still | toActive | toDormant | outSpine | outStack
deriving DecidableEq, Repr

/-- Clocks, power, thermal, reset and I/O ports (R504, R507, R512, R529, R535, R539). -/
structure Power where
  ssc : BitVec 3
  lock : Bool
  plock : Bool
  ssca : BitVec 3
  /-- when SSCA last took a step (R504) -/
  sscSince : Nat
  rfl : Bool
  req : BitVec 3
  tq : BitVec 8
  gt : BitVec 8
  st : PwrSt
  /-- the transition that runs, the state and the quires it gates, and whether a request came meanwhile (R512) -/
  move : PwrMove
  goal : PwrSt
  goalQ : BitVec 8
  late : Bool
  ref : Bool
  why : BitVec 3
  gq : BitVec 8
  dax : Bool
  tj : BitVec 8
  tjV : Bool
  lvl : BitVec 2
  trip : Bool
  htrip : Bool
  tcnt : W16
  ton : BitVec 8
  /-- since when TJ has been at or above TON + 3, and below TON - 5 (R534) -/
  hotSince : Option Nat
  coolSince : Option Nat
  cld : Bool
  ws : BitVec 2
  trp : Bool
  uvr : BitVec 10
  nwr : W16
  drv : BitVec 2
  slw : BitVec 2
deriving DecidableEq, Repr

/-- Where the device stands with respect to its resets (R524 to R526, R523). -/
inductive RstPhase where
  | running
  /-- the pin has fallen; postings stop, locked POSTs complete -/
  | stopping (why : ResetPin)
  | asserted
  | off
deriving DecidableEq, Repr

/-- The input pins after their filters, and what is latched of them (R524, R526, R538, R544). -/
structure Pins where
  pwrgood : Bool
  rstN : Bool
  perstN : Bool
  pfailN : Bool
  ringEn : Bool
  thermtripN : Bool
  trstN : Bool
  /-- the levels of STRAP_SMBADDR and STRAP_BOOT, which are sampled (R528) -/
  straps : BitVec 5
  phase : RstPhase
  /-- when the first reset pin fell (R529) -/
  stopSince : Nat
  /-- PWRGOOD has risen since the previous boot (R525) -/
  cold : Bool
  /-- since when each rail is below its limit (R523) -/
  uvSince : Vector (Option Nat) 10
  uvHold : Bool
deriving DecidableEq, Repr

/-- The part fitted (R1). -/
inductive Part where
  | a24c | a24e | a16c
deriving DecidableEq, Repr

/-- What the device sends out of its boundary. -/
inductive Output where
  /-- a posted write of a function to host memory; ep marks a poisoned TLP (R300, R458) -/
  | hostWrite (fn : FnId) (addr : Nat) (bytes : List Byte) (ep : Bool)
  /-- a read request of a function to host memory (R458) -/
  | hostRead (fn : FnId) (addr : Nat) (len : Nat)
  | msix (fn : FnId) (vec : Nat) (addr : Nat) (data : BitVec 32)
  /-- completions of host requests -/
  | cplData (bytes : List Byte) (ep : Bool)
  | cplAbort
  | cplUnsupported
  | cplRetry
  | cplConfig (fn : FnId) (reg : BitVec 12) (v : BitVec 32)
  | errFatal
  | aerUnsupported
  | sheet (p : RPort) (blocks : List Block)
  /-- answers of the Steward: on SMBus they come from the address that `src` gives (R485) -/
  | mgmt (p : Path) (src : BitVec 7) (bytes : List Byte)
  | spdm (p : Path) (src : BitVec 7) (code : Byte) (body : List Byte)
  | mctp (p : Path) (src : BitVec 7) (bytes : List Byte)
  | tdo (bits : List Bool)
  | pads (bits : List Bool)
deriving DecidableEq, Repr

/-- The device. -/
structure State where
  part : Part
  cores : Vector Core 64
  quires : Vector Quire 8
  /-- HBM, Vat and journal SRAM by physical word address (R311) -/
  phys : Cells 16
  /-- Vat lines that are not clean: 1 correctable, 2 uncorrectable, 3 poisoned (R213) -/
  vatMark : Cells 2
  /-- for each HBM burst, its 4 stored check bytes added to the correct check bytes of the data stored with it, byte 32 first: 0
  where the burst is clean (R410 to R412) -/
  hbmEcc : Cells 32
  /-- journal SRAM groups of 4 words that SEC-DED cannot correct (R272) -/
  jnlMark : Cells 1
  /-- frame tags (R329), and the 8-frame groups whose read is uncorrectable (R333) -/
  keys : Cells 8
  keyMark : Cells 1
  /-- errors counted by the unit that found them (R214): corrected, uncorrectable -/
  ceCount : Cells 32
  ueCount : Cells 32
  /-- Vat lines reported uncorrectable and not yet marked by their bank, with the place of the report in the order of issue (R214) -/
  reports : List (BitVec 19 × Nat)
  /-- requests of units other than the cores' long ops that wait for a line (R17) -/
  waits : List MeshWait
  /-- port accesses of the host and of register writes that wait at their blocks, oldest first (R17, R455) -/
  accs : List PortAcc
  /-- locked lines by physical line number, with the posting that holds each (R240, R245) -/
  locks : List (Nat × Nat)
  posts : List Posting
  dir : DirCfg
  postCnt : W64
  postRef : W64
  jnl : Journal
  engines : Vector Engine 16
  hbm : Hbm
  ring : Ring
  qps : Vector QueuePair 256
  host : HostIf
  stw : Steward
  pwr : Power
  pins : Pins
  /-- TMR_NOW (R361) -/
  tmr : W64
  /-- the model's time in mesh cycles, which never stops -/
  now : Nat
  /-- the age of the next request (R17), the id of the next posting -/
  stamp : Nat
  nextPost : Nat
  /-- the model's counter of free values drawn -/
  freeCount : Nat
  out : List Output
  pending : List Instr
deriving DecidableEq, Repr

/-! ### Outcomes that stop the machine -/

/-- The faults of the model. -/
inductive Fault where
  /-- An access names a physical word address at which the spec has no memory (R311). Raised by the accesses to physical
  memory. Safe: the model stops where the spec gives no behaviour. -/
  | noMemory (pa : Nat)
deriving DecidableEq, Repr

/-- The refusals of the model. -/
inductive Refusal where
  /-- The command has no meaning yet. Raised by an arm of exec only. Safe. -/
  | notModelled (mnemonic : String)
deriving DecidableEq, Repr

/-! ### Reset values (R10) -/

/-- FL after reset (R47). -/
def Flags.zero : Flags := ⟨false, false, false, false, false⟩
/-- An accumulator after reset (R44). -/
def Acc.zero : Acc := ⟨false, 0, 0, 0⟩
/-- DKTL after reset (R160). -/
def Tally.zero : Tally := ⟨0, 0, 0, false, false, false, false, false, false, 0, 0⟩
/-- The deckle group after reset. -/
def Deckle.zero : Deckle := ⟨0, 0, 0, 0, 0, Tally.zero, 0, 0, 0, false, 0⟩
/-- The X set after reset (R56). -/
def XSet.zero : XSet := ⟨0, 0, Flags.zero, 0, 0, 0, false, false, false, false, 0, 0⟩
/-- The M set after reset (R57). -/
def MSet.zero : MSet := ⟨0, 0, 0, 0, false⟩
/-- The system registers after reset: Service mode, interrupts disabled, every right, predictors on (R30, R48 to R57). -/
def Sys.reset : Sys :=
  { mode := true, ie := false, krr := 0xFFFFFFFF#32, brm := 0, drm := 0, fpen := 0, fpsf := 0, fop := 0
    ote := false, psf := false, zsk := false, bpctl := 0b0111#4, txb := 0, tyb := 0, tib := 0
    sve := Vector.replicate 8 0, spc := 0, sflFl := Flags.zero, sflMs := 0, x := XSet.zero, m := MSet.zero }
/-- The loop registers after reset. -/
def Loop.zero : Loop := ⟨0, 0, 0, none, none, none⟩
/-- A window after reset (R303). -/
def Window.zero : Window := ⟨0, 0, 0, false, false, 0, [], false, 0, []⟩
/-- Interrupt registers after reset (R356, R361, R362). -/
def Irq.zero : Irq := ⟨0, 0, 0, false, 0, false, false, [], false, 0, false⟩
/-- CORE_CTL after reset: WEN 1, the core held by its warden (R363, R30). -/
def Ctl.reset : Ctl :=
  { wen := true, wlvl := 0, gated := false, cks := false, rstDue := false, iso := false, run := false, noWake := false, woken := false, dlv := false
    stallSince := none, opStall := false, fbWait := false, need := none, walkBg := none, dsuStopped := false, recShoot := false, recShootF := false, asyncMc := [], reload := none }
/-- A translation context after reset (R316). -/
def Ctx.zero : Ctx := ⟨0, 0, false⟩
/-- The directory ports after reset (R229). -/
def DirCfg.zero : DirCfg := ⟨0, 0, 0, 0⟩

/-- A core after a cold reset (R30, R43 to R66, R527). -/
def Core.reset : Core :=
  { g := Vector.replicate 32 0, l := Vector.replicate 8 ⟨0, false⟩, a := Vector.replicate 8 Acc.zero, pc := 0
    fl := Flags.zero, dsp := 0x0000004000#40, rsp := 0x8000#16, rs := [], loop := Loop.zero, dk := Deckle.zero
    sys := Sys.reset, flights := [], branch := none, micro := none, ovf := none, fpDue := [], icount := 0, loc := [], locBad := []
    locOne := [], locCe := 0
    iram := [], iramBad := [], sbuf := [], longs := [], pushq := [], outq := [], itlb := [], dtlb := [], wcache := []
    icache := [], ahead := [], jtab := [], jhist := [0, 0, 0, 0], dir := DirCfg.zero, win := Vector.replicate 16 Window.zero
    irq := Irq.zero, cxt := Ctx.zero, ctl := Ctl.reset }

/-- An INT_ROUTE after reset (R354). -/
def Route.zero : Route := ⟨0, 0, false, false, false, none, []⟩
/-- TLB_SHOOT after reset: DONE reads 1 (R337). -/
def Shoot.zero : Shoot := ⟨0, 0, 0, false, []⟩
/-- An empty control-store image. -/
def Image.empty : Image := ⟨[], [], [], [], [], 0, 0, 0, 0, 0⟩
/-- A quire after reset. -/
def Quire.reset : Quire :=
  { routes := Vector.replicate 64 Route.zero, shoot := Shoot.zero, failed := false, qtc := [], image := Image.empty
    quiesced := false }

/-- The journal after a cold reset (R262, R274). -/
def Journal.reset : Journal :=
  { pen := false, rpe := false, hde := false, rep := false, pf := false, frz := false, jerr := false, next := 1
    repl := 0, hbm := 0, host := 0, dur := 0, hbase := 0, logh := 0, qaddr := 0, logq := 0, mhi := 0, msrc := 0
    mv := false, mslots := [], fbSig := false, jerrSeq := 0, expect := 1, pdur := 0, sendPos := 1, appended := [], restart := 0, replSince := 0, ackSince := 0
    durSent := 0, durSince := 0, resendFor := 0, resendSince := 0, pfSince := 0, stuck := false }

/-- A stream engine after reset: PFE 1 (R284). -/
def Engine.reset : Engine :=
  { en := false, halt := false, pfe := true, cen := false, err := false, mwe := false, lst := 0, rbase := 0, rcfg := 0
    head := 0, tail := 0, xctx := Ctx.zero, krr := 0, maddr := 0, done := 0, fail := 0, rbaseNew := none, rcfgNew := none
    xctxNew := none, mould := [], cur := none, work := [], lastCam := none, abort := false, ahead := [], gated := false }

/-- The HBM controller after reset: PER 24 hours, THR 0x0100 (R417). -/
def Hbm.reset : Hbm :=
  { cm := 0, rdy := false, sr := false, cal := false, tf := false, zf := false, tr := 0, nrep := 0, parc := 0, parErr := 0, temp := 0
    tempV := false, per := 0x18, pos := 0, pass := 0, win := 0, wmin := 0, rmin := 0, low := false
    calOpened := 0, thr := 0x0100, injAddr := 0, injMode := 0, injArm := false, logAddr := 0, logPc := 0, logUe := false
    logScr := false, logV := false, ec := Vector.replicate 16 ⟨0, 0, 0, false⟩ }

/-- A key slot with no key (R493). -/
def KeySlot.empty : KeySlot := ⟨none, 0, 0⟩
/-- A ring port after reset (R451). -/
def RingPort.reset : RingPort :=
  { lk := 0, algn := false, up := false, enc := false, txSlot := 0, rxSlot := 0, she := 0, auth := 0, rlk := 0, rsnd := 0
    mrg := 0, slots := 0, tx := Vector.replicate 2 KeySlot.empty, rx := Vector.replicate 2 KeySlot.empty, lastRx := 0
    lastTx := 0, tagRun := 0, lost := none, calAt := 0, trim := 0, txEye := 0, nPos := 0, nKnown := false, nSerial := 0
    hello := false }
/-- The ring after reset: bypass closed, LVT 10 ms, RJMAX 3 (R446, R451). -/
def Ring.reset : Ring :=
  { jen := false, enca := false, encb := false, st := .off, byp := true, dup := false, encm := false, acc := false
    nmem := 0, rjn := 0, why := 0, pos := 0, pv := false, lvt := 0x0A, rjmax := 0x3, pa := RingPort.reset
    pb := RingPort.reset, since := 0, clean := none, members := [], censusSent := false }

/-- CQ_BIND after reset (R459). -/
def Bind.zero : Bind := ⟨0, 0, 0, 0, 0, 0, false, 0, 0, false⟩
/-- A queue pair after reset: ITH 1, PH 1 (R459). -/
def QueuePair.reset : QueuePair :=
  { sqb := 0, cqb := 0, sqn := 0, cqn := 0, bind := Bind.zero, cores := 0, ith := 1, itt := 0, actSqb := 0, actCqb := 0
    act := Bind.zero, sqh := 0, cqt := 0, stop := false, ph := true, why := 0, ovf := false, sqt := 0, cqh := 0, resv := 0
    subs := [], staged := [], lastCore := none, fetched := none, unsig := 0, firstUnsig := none, lateSq := none
    lateCq := none, flr := false }

/-- A function's configuration space after reset: 128-byte payloads, 512-byte read requests (R453). -/
def FnCfg.reset : FnCfg :=
  { bme := false, mse := false, bar0 := 0, bar2 := 0, bar4 := 0, mps := 0, mrrs := 2, msixEn := false, fnMask := false }

/-- The host interface after reset: BAR4 window enabled, every event bit enabled in MSK (R470). -/
def HostIf.reset : HostIf :=
  { b4e := true, lw := 0, ls := 0, lup := false, pwe := false, nvf := 0, evt := 0, evec := 0, een := false, emsk := 0x3F
    cfg := Vector.replicate 16 FnCfg.reset, vfBar := 0, msix := [], pba := [], reads := [] }

/-- An SPDM connection that has not begun. -/
def Spdm.zero : Spdm := ⟨false, false, false, none⟩
/-- No owner configuration (R481). -/
def OwnerCfg.none : OwnerCfg := ⟨false, false, false, 0, [], Option.none⟩
/-- The fuses of an unowned part, its serial number in bits [55:0] below 0x64 (R472). -/
def Fuses.fresh : Fuses :=
  { serial := 0x64#8 ++ Config.serialNumber, hash := Vector.replicate 4 0, prog := 0, rev := 0, floor := 0, unlocks := 0 }

/-- The Steward after reset (R480, R490, R399). -/
def Steward.reset : Steward :=
  { bst := .rom, slot := 0, dbg := 0, pwf := 0, plk := false, pwUntil := 0, fat := false, faults := [], hsf := false, alrt := false
    bfc := 0, fwv := 0, sv := 0, fuses := Fuses.fresh, cmdLen := 0, cmdBusy := false, cmdDone := false, rlen := 0
    buf := [], log := [], logNext := 0, chain := 0, chains := [], flushed := 0, fatalSig := none, mr := Vector.replicate 8 0, flash := [], badA := false
    badB := false, badCfg := false, cfg := OwnerCfg.none, spdm := Vector.replicate 3 Spdm.zero, eid := 0, eidVdm := 0
    nonce := none, challenges := 0, tap := .idcode, boundary := [], straps := 0, mcQm := 0xFF
    mcAddr := 0, mcHbm := false, mcGo := false, mcBusy := false, mcDone := false, mcErr := 0, mcQd := 0, mcOcs := false
    mcDigest := 0, mcTodo := [] }

/-- The clock, power, thermal, reset and I/O ports after a cold reset (R504 to R539). -/
def Power.reset : Power :=
  { ssc := 0, lock := false, plock := false, ssca := 0, sscSince := 0, rfl := false, req := 0, tq := 0, gt := 0x10, st := .run
    move := .still, goal := .run, goalQ := 0, late := false, ref := false, why := 0, gq := 0, dax := false, tj := 0, tjV := false, lvl := 0, trip := false
    htrip := false, tcnt := 0, ton := 0x64, hotSince := none, coolSince := none, cld := true, ws := 0, trp := false
    uvr := 0, nwr := 0, drv := 1, slw := 1 }

/-- The pins when PWRGOOD has risen and the device waits to leave reset (R525); RING_EN, TRST_N and the straps as their pulls
hold them open (R528, R544). -/
def Pins.reset : Pins :=
  { pwrgood := true, rstN := true, perstN := true, pfailN := true, ringEn := false, thermtripN := true, trstN := false, straps := 0
    phase := .asserted, stopSince := 0, cold := true, uvSince := Vector.replicate 10 none, uvHold := false }

/-- The machine right after a cold reset (R10, R524, R527): every port at its reset value, every array zero, the cores
held by their wardens, nothing booted yet. The command RESET_RELEASE boots it (R525, R480). -/
def State.reset : State :=
  { part := .a24c, cores := Vector.replicate 64 Core.reset, quires := Vector.replicate 8 Quire.reset, phys := []
    vatMark := [], hbmEcc := [], jnlMark := [], keys := [], keyMark := [], ceCount := [], ueCount := [], reports := [], waits := [], accs := []
    locks := [], posts := [], dir := DirCfg.zero, postCnt := 0, postRef := 0, jnl := Journal.reset
    engines := Vector.replicate 16 Engine.reset, hbm := Hbm.reset, ring := Ring.reset
    qps := Vector.replicate 256 QueuePair.reset, host := HostIf.reset, stw := Steward.reset, pwr := Power.reset
    pins := Pins.reset, tmr := 0, now := 0, stamp := 0, nextPost := 0, freeCount := 0, out := [], pending := [] }

end Sys2Proof.Machine
end

