-- ==== Sys2Proof/Machine/Ops.lean ====
section
/-!
DEFINITION. The operations that the meanings share over one core: parts of the state, results in flight, entry to an
exception and to a machine check, local memory and the store buffer, the return stack, TLB look-up and access checks.
-/
namespace Sys2Proof.Machine

/-- What a meaning answers. -/
abbrev Out := Host.Outcome State Fault Refusal

/-! ### Parts of the state -/

/-- The quire of a core (R5). -/
def coreQuire (c : CoreId) : QuireId := ⟨c.val / 8, by omega⟩
/-- The number of a core within its quire. -/
def coreIdx (c : CoreId) : Fin 8 := ⟨c.val % 8, by omega⟩
/-- Core k of quire q. -/
def coreOf (q : QuireId) (k : Fin 8) : CoreId := ⟨8 * q.val + k.val, by omega⟩
/-- The quire of a stream engine (R14). -/
def engQuire (e : EngId) : QuireId := ⟨e.val / 2, by omega⟩

/-- A core of the device. -/
def State.core (s : State) (c : CoreId) : Core := s.cores[c]
/-- Replaces a core. -/
def State.setCore (s : State) (c : CoreId) (k : Core) : State := { s with cores := s.cores.set c k }
/-- Changes a core. -/
def State.modCore (s : State) (c : CoreId) (f : Core → Core) : State := s.setCore c (f (s.core c))
/-- A quire of the device. -/
def State.quire (s : State) (q : QuireId) : Quire := s.quires[q]
/-- Replaces a quire. -/
def State.setQuire (s : State) (q : QuireId) (x : Quire) : State := { s with quires := s.quires.set q x }
/-- A stream engine. -/
def State.eng (s : State) (e : EngId) : Engine := s.engines[e]
/-- Replaces a stream engine. -/
def State.setEng (s : State) (e : EngId) (x : Engine) : State := { s with engines := s.engines.set e x }
/-- A queue pair. -/
def State.qp (s : State) (n : QpId) : QueuePair := s.qps[n]
/-- Replaces a queue pair. -/
def State.setQp (s : State) (n : QpId) (x : QueuePair) : State := { s with qps := s.qps.set n x }

/-- The next free value: a value that the spec leaves open. -/
def State.free (s : State) : W64 := Config.freeValue s.freeCount
/-- The state after that free value has been drawn. -/
def State.drawn (s : State) : State := { s with freeCount := s.freeCount + 1 }

/-- The age stamp of a new request (R17). -/
def State.stamped (s : State) : State := { s with stamp := s.stamp + 1 }

/-- Appends to what the device sends out. -/
def State.send (s : State) (o : Output) : State := { s with out := s.out ++ [o] }

/-- A transition between power states runs: PWR_STAT.BUSY (R512). -/
def Power.busy (p : Power) : Bool := p.move != .still

/-- The mesh spine, the wardens, the Vat groups and the key array are clocked: in every power state but Dormant, and in the
steps out of it (R19, R517). -/
def Power.spine (p : Power) : Bool := p.st != .dormant || p.move == .outSpine || p.move == .outStack

/-- The same, and the device has power. -/
def State.spineRuns (s : State) : Bool := s.pwr.spine && s.pins.phase != .off

/-! ### Status words -/

/-- FL as its port shows it (R47). -/
def Flags.bits (f : Flags) : BitVec 5 :=
  BitVec.ofBool f.dc ++ BitVec.ofBool f.n ++ BitVec.ofBool f.z ++ BitVec.ofBool f.v ++ BitVec.ofBool f.c
/-- FL from the bits of its port (R47). -/
def Flags.ofBits (v : BitVec 5) : Flags :=
  { c := v.getLsbD 0, v := v.getLsbD 1, z := v.getLsbD 2, n := v.getLsbD 3, dc := v.getLsbD 4 }

/-- MS.PRED: some predictor is in use (R48, R53). -/
def Sys.pred (y : Sys) : Bool := !y.bpctl.getLsbD 3 && y.bpctl.extractLsb' 0 3 != 0#3
/-- MS (R48). -/
def Sys.ms (y : Sys) : BitVec 3 := BitVec.ofBool y.pred ++ BitVec.ofBool y.ie ++ BitVec.ofBool y.mode

/-! ### Results in flight (R68 to R72) -/

/-- A result becomes visible. -/
def Core.commit (k : Core) : FDst → Core
  | .g r v => { k with g := k.g.set r v }
  | .a r v => { k with a := k.a.set r v }
  | .ms m ie => { k with sys := { k.sys with mode := m, ie := ie } }
  | .krr v => { k with sys := { k.sys with krr := v } }
  | .bpctl v => { k with sys := { k.sys with bpctl := v } }
  | .fp f req => { k with sys := { k.sys with fpsf := k.sys.fpsf ||| f }, fpDue := k.fpDue ++ req.toList }
  | .ld v => { k with micro := k.micro.map (fun m => { m with ld := v }) }
  | .t one v => { k with micro := k.micro.map (fun m => if one then { m with t1 := v } else { m with t0 := v }) }

/-- Results become visible in order (R71). -/
def Core.commitAll (k : Core) (fs : List Flight) : Core := fs.foldl (fun k f => k.commit f.dst) k

/-- The end of an instruction: results whose distance is met become visible, then its own results of distance 0; its
other results go in flight (R68 to R71). -/
def Core.retire (k : Core) (own : List Flight) : Core :=
  let due := k.flights.filter (fun f => f.left ≤ 1)
  let rest := (k.flights.filter (fun f => !decide (f.left ≤ 1))).map (fun f => { f with left := f.left - 1 })
  let k := (k.commitAll due).commitAll (own.filter (fun f => f.left == 0))
  { k with flights := rest ++ own.filter (fun f => f.left != 0) }

/-- A result that only later microwords of the same instruction see (R378, R379). -/
def FDst.inner : FDst → Bool
  | .ld _ => true
  | .t _ _ => true
  | _ => false

/-- The results of a customer instruction that ends here stand after the older ones (R71, R378, R385). -/
def Core.unmicro (k : Core) : Core :=
  match k.micro with
  | none => k
  | some m =>
    let own := k.flights.filter (fun f => !f.dst.inner)
    { k with flights := m.old ++ m.wrote ++ own, micro := none }

/-- Every result in flight becomes visible, as at an entry (R72). -/
def Core.settle (k : Core) : Core := { k.commitAll k.flights with flights := [] }

/-- A SETMS or SETKR is in its shadow (R346). -/
def Core.shadow (k : Core) : Bool :=
  k.flights.any (fun f => match f.dst with | .ms _ _ => true | .krr _ => true | _ => false)

/-- A result in G register r, visible at distance d. -/
def wrG (r : GReg) (v : W64) (d : Nat := 0) : List Flight := [⟨.g r v, d⟩]
/-- MS written at distance 0, after the results that fall due with it (R71). -/
def wrMs (mode ie : Bool) : List Flight := [⟨.ms mode ie, 0⟩]
/-- A result in accumulator r, visible at distance d. -/
def wrA (r : AReg) (v : Acc) (d : Nat) : List Flight := [⟨.a r v, d⟩]

/-! ### Busy destinations (R46, R74, R75) -/

/-- L register n awaits a long op. -/
def Core.lBusy (k : Core) (n : LRegId) : Bool := k.longs.any (fun o => o.dest == .l n)
/-- A long op will write accumulator n. -/
def LongOp.owns (o : LongOp) (n : AReg) : Bool :=
  match o.dest, o.res with
  | .a m, some (.a2 _ _) => m == n || m.val + 1 == n.val
  | .a m, _ => m == n
  | _, _ => false
/-- Accumulator n awaits a long op. -/
def Core.aBusy (k : Core) (n : AReg) : Bool := k.longs.any (fun o => o.owns n)
/-- A DSU instruction owns the deckle group. -/
def Core.dsuBusy (k : Core) : Bool := k.longs.any (fun o => o.dest == .dsu)
/-- LBSY (R46). -/
def Core.lbsy (k : Core) : W64 :=
  (List.range 8).foldl (fun acc n =>
    acc ||| bit64 (k.longs.any (fun o => match o.dest with | .l m => m.val == n | _ => false)) n
      ||| bit64 (k.longs.any (fun o => (List.finRange 8).any (fun m => m.val == n && o.owns m))) (8 + n))
    (bit64 k.dsuBusy 16)
/-- The long op with this destination. -/
def Core.long? (k : Core) (d : LDest) : Option LongOp := k.longs.find? (fun o => o.dest == d)
/-- Removes the long op with this destination. -/
def Core.dropLong (k : Core) (d : LDest) : Core := { k with longs := k.longs.filter (fun o => o.dest != d) }
/-- Changes the long op with this destination. -/
def Core.modLong (k : Core) (d : LDest) (f : LongOp → LongOp) : Core :=
  { k with longs := k.longs.map (fun o => if o.dest == d then f o else o) }
/-- Issues a long op: its destination becomes busy (R74). -/
def Core.addLong (k : Core) (o : LongOp) : Core := { k with longs := k.longs ++ [o] }
/-- Writes an L register, which clears its poison mark (R220, R221). -/
def Core.setL (k : Core) (n : LRegId) (v : W64) (p : Bool := false) : Core := { k with l := k.l.set n ⟨v, p⟩ }

/-- A core that is checkstopped or isolated discards what is delivered to it (R249, R372). -/
def Core.discards (k : Core) : Bool := k.ctl.cks || k.ctl.iso

/-! ### Entries (R345 to R349, R366, R367) -/

/-- Clears what an instruction that waits at the pc has recorded. -/
def Ctl.proceed (t : Ctl) : Ctl := { t with stallSince := none, opStall := false, fbWait := false, need := none }

/-- Drops the trap requests of floating long ops in flight (R209). -/
def dropFpReqs (ls : List LongOp) : List LongOp :=
  ls.map (fun o => { o with fp := o.fp.map (fun r => { r with req := none }) })

/-- Entry through the X save set (R345). -/
def Core.enterX (k : Core) (cause : BitVec 8) (xpc : BitVec 32) (xad : BitVec 40) (lvl : BitVec 2)
    (xtgt : Option (BitVec 32)) (xlp xrs : Bool) : Core :=
  let k := k.unmicro
  let xsh := k.shadow
  let k := k.settle
  let x : XSet :=
    { xvb := k.sys.x.xvb, xpc := xpc, xfl := k.fl, xms := k.sys.ms, xtgt := xtgt.getD k.sys.x.xtgt, cause := cause
      xds := xtgt.isSome, xsh := xsh, xlp := xlp, xrs := xrs, lvl := lvl, xad := xad }
  { k with
    pc := x.xvb + cause.setWidth 32 * 16#32
    branch := none
    micro := none
    ahead := []
    longs := dropFpReqs k.longs
    ctl := k.ctl.proceed
    sys := { k.sys with x := x, mode := true, ie := false } }

/-- The cause of a floating trap: the first enabled flag raised (R206). -/
def FpReq.cause (r : FpReq) : BitVec 8 :=
  if r.causes.getLsbD 0 then 0x18 else if r.causes.getLsbD 1 then 0x19 else if r.causes.getLsbD 2 then 0x1A
  else if r.causes.getLsbD 3 then 0x1B else 0x1C

/-- The oldest of some requests in issue order (R207). -/
def oldestReq : List FpReq → Option FpReq
  | [] => none
  | r :: rs =>
    match oldestReq rs with
    | none => some r
    | some r' => if r.issue ≤ r'.issue then some r else some r'

/-- The floating trap for the oldest request, the others being discarded (R206, R207, R209). -/
def Core.enterFloat (k : Core) (r : FpReq) : Core :=
  let k := k.enterX r.cause k.pc (r.addr.setWidth 40) 0 none false false
  { k with fpDue := [], sys := { k.sys with fop := r.word0 } }

/-- The request that a floating trap at this boundary would report: results in flight complete at an entry (R72). -/
def Core.fpAtEntry (k : Core) : Option FpReq := oldestReq k.unmicro.settle.fpDue

/-- The instruction at the pc is at a loop end that has not occurred (R348). -/
def Core.atLoopEnd (k : Core) : Bool := k.pc == k.loop.le && k.loop.lc != 0#32 && k.branch.isNone

/-- A precise exception of the instruction at the pc (R345 to R348). A floating request in flight is reported first
(R208), unless the instruction is a delay slot, before which no trap can be taken (R206). -/
def Core.enterPrecise (k : Core) (cause : BitVec 8) (xad : BitVec 40) (lvl : BitVec 2) : Core :=
  match k.branch, k.fpAtEntry with
  | none, some r => k.enterFloat r
  | b, _ => k.enterX cause k.pc xad lvl (b.map (·.target)) k.atLoopEnd false

/-- The code of a machine-check cause (R365). -/
def mcauseCode : MCause → BitVec 8
  | .localData => 0x30 | .poisonedData => 0x31 | .walkData => 0x32 | .csParity => 0x33 | .instr => 0x34
  | .coreState => 0x35

/-- The code of a precise cause (R343). -/
def preciseCode : PreciseCause → BitVec 8
  | .illegal => 0x01 | .privileged => 0x02 | .localPlacement => 0x03 | .localBound => 0x04 | .rsOverflow => 0x05
  | .rsUnderflow => 0x06 | .vatAlign => 0x07 | .iTrans => 0x08 | .dTrans => 0x09 | .iWalk => 0x0A | .dWalk => 0x0B
  | .iProt => 0x0C | .dProt => 0x0D | .iKey => 0x0E | .dKey => 0x0F | .iAccess => 0x10 | .memType => 0x11
  | .postDesc => 0x12 | .dataExc => 0x13 | .decDivide => 0x14

/-- Entry through the M save set (R366). Decimal and floating requests are discarded (R208, R364). -/
def Core.enterM (k : Core) (cause : MCause) (lvl : BitVec 2) (mpc : BitVec 32) (mms : Option (BitVec 3)) : Core :=
  let k := k.unmicro.settle
  { k with
    pc := k.sys.x.xvb + (mcauseCode cause).setWidth 32 * 16#32
    branch := none
    micro := none
    ahead := []
    ovf := none
    fpDue := []
    longs := dropFpReqs k.longs
    ctl := k.ctl.proceed
    sys := { k.sys with
      m := { mpc := mpc, mms := mms.getD k.sys.ms, cause := mcauseCode cause, lvl := lvl, mcip := true }
      mode := true, ie := false } }

/-- A synchronous machine check of the instruction at the pc: in a delay slot the branch is undone (R367). -/
def Core.enterMSync (k : Core) (cause : MCause) (lvl : BitVec 2) : Core :=
  match k.branch with
  | none => k.enterM cause lvl k.pc none
  | some b =>
    let rs := match b.undo with
      | .none => k.rs
      | .pushed => k.rs.tail
      | .popped v => v :: k.rs
    let mms := b.xretMs.map (fun p => BitVec.ofBool k.sys.pred ++ BitVec.ofBool p.2 ++ BitVec.ofBool p.1)
    { k with rs := rs }.enterM cause lvl b.pc mms

/-! ### Local memory and the store buffer (R82 to R84, R365) -/

/-- The groups of 4 words that a run of words covers wholly. -/
def wholeGroups (a n : Nat) : List Nat :=
  (List.range (n / 4 + 1)).filterMap (fun i =>
    let g := (a + 3) / 4 + i
    if g * 4 + 4 ≤ a + n then some g else none)

/-- The groups of 4 words that a run of words touches. -/
def touchedGroups (a n : Nat) : List Nat :=
  if n = 0 then [] else (List.range ((a + n - 1) / 4 + 1 - a / 4)).map (fun i => a / 4 + i)

/-- Writes local words: a group written whole gets new check bits, one written in part keeps its uncorrectable mark (R365); a
single bit in error is corrected before the group is encoded again. -/
def Core.writeLoc (k : Core) (a : Nat) (ws : List W16) : Core :=
  { k with
    loc := k.loc.write a ws
    locBad := (wholeGroups a ws.length).foldl (fun m g => m.set g 0#1) k.locBad
    locOne := (touchedGroups a ws.length).foldl (fun m g => m.set g 0#1) k.locOne }

/-- A read of local words counts the groups with a single-bit error, which SEC-DED corrects (R177). -/
def Core.countLoc (k : Core) (a n : Nat) : Core :=
  { k with locCe := k.locCe + BitVec.ofNat 32 ((touchedGroups a n).filter (fun g => k.locOne.get g != 0#1)).length }

/-- An entry of the store buffer holds a local word of the run. -/
def SbEntry.overlaps (a n : Nat) : SbEntry → Bool
  | .loc b ws => decide (b < a + n) && decide (a < b + ws.length)
  | _ => false

/-- A local entry. -/
def SbEntry.isLoc : SbEntry → Bool
  | .loc _ _ => true
  | _ => false

/-- Drains the oldest local entry (R83). -/
def Core.drainOldest (k : Core) : Core :=
  match k.sbuf.find? SbEntry.isLoc with
  | some (.loc a ws) => { k with sbuf := k.sbuf.eraseP SbEntry.isLoc }.writeLoc a ws
  | _ => k

/-- Drains local entries, oldest first, while some entry overlaps a run of words (R84). -/
def Core.drainOver (k : Core) (a n : Nat) : Nat → Core
  | 0 => k
  | f + 1 => if k.sbuf.any (SbEntry.overlaps a n) then k.drainOldest.drainOver a n f else k

/-- Drains every local entry, as before a DSU operation or a VGET delivery (R81, R85). -/
def Core.drainLocal (k : Core) : Nat → Core
  | 0 => k
  | f + 1 => if k.sbuf.any SbEntry.isLoc then k.drainOldest.drainLocal f else k

/-- A local store retires into the store buffer; with 8 local entries undrained the oldest drains (R82, R83). -/
def Core.storeLoc (k : Core) (a : Nat) (ws : List W16) : Core :=
  let k := if 8 ≤ (k.sbuf.filter SbEntry.isLoc).length then k.drainOldest else k
  { k with sbuf := k.sbuf ++ [.loc a ws] }

/-- What a local read gives, with the core after the drain it may need and the corrected errors it counts: the words, or an
uncorrectable word (R84, R177, R365). -/
inductive LocRead where
  | ok (ws : List W16) (k : Core)
  | bad (k : Core)
deriving DecidableEq, Repr

/-- Reads words of the local region through the store buffer (R84). -/
def Core.readLoc (k : Core) (a n : Nat) : LocRead :=
  let bank (k : Core) : LocRead :=
    if (List.range n).any (fun i => k.locBad.get ((a + i) / 4) != 0#1) then .bad (k.countLoc a n)
    else .ok (k.loc.read a n) (k.countLoc a n)
  match (k.sbuf.filter (SbEntry.overlaps a n)).getLast? with
  | some (.loc b ws) =>
    if b ≤ a ∧ a + n ≤ b + ws.length then .ok ((ws.drop (a - b)).take n) k
    else bank (k.drainOver a n k.sbuf.length)
  | _ => bank k

/-- The local region ends at this address (R32). -/
def localEnd : Nat := 0x8000

/-- A run of words lies in the local region. -/
def inLocal (ea : BitVec 40) (n : Nat) : Bool := decide (ea.toNat + n ≤ localEnd)

/-- Tenant mode may touch this local word (R40, R42). -/
def Sys.tenantWord (y : Sys) (a : Nat) : Bool :=
  if a < 0x4000 then decide (a < min y.txb.toNat 0x4000) else decide (a - 0x4000 < min y.tyb.toNat 0x3C00)

/-- The first word of a run that Tenant mode may not touch (R41, R343). Service mode ignores LRB. -/
def Core.outOfBound (k : Core) (a n : Nat) : Option (BitVec 40) :=
  if k.sys.mode then none
  else ((List.range n).find? (fun i => !k.sys.tenantWord (a + i))).map (fun i => BitVec.ofNat 40 (a + i))

/-! ### The return stack (R60 to R63) -/

/-- Spills the oldest entry of the hardware top; none when the spill area is full (R61). -/
def Core.rsSpill (k : Core) : Option Core :=
  match k.rs.getLast? with
  | none => some k
  | some v =>
    if k.rsp = 0x7C00#16 then none
    else
      let p := k.rsp - 2#16
      some ({ k with rsp := p, rs := k.rs.dropLast }.storeLoc p.toNat [v.extractLsb' 16 16, v.extractLsb' 0 16])

/-- Pushes a return address; none is a return-stack overflow (R61). -/
def Core.rsPush (k : Core) (v : BitVec 32) : Option Core :=
  if k.rs.length < 16 then some { k with rs := v :: k.rs }
  else k.rsSpill.map (fun k => { k with rs := v :: k.rs })

/-- What popping the return stack gives (R62). -/
inductive RsPop where
  | ok (v : BitVec 32) (k : Core)
  | underflow
  | bad (k : Core)
deriving DecidableEq, Repr

/-- Pops the newest return address, filling from the spill area when the hardware top is empty (R62). -/
def Core.rsPop (k : Core) : RsPop :=
  match k.rs with
  | v :: rest => .ok v { k with rs := rest }
  | [] =>
    if k.rsp = 0x8000#16 then .underflow
    else
      match k.readLoc k.rsp.toNat 2 with
      | .bad k => .bad k
      | .ok ws k => .ok ((quadOf ws).setWidth 32) { k with rsp := k.rsp + 2#16 }

/-! ### Translation look-up and access checks (R314, R320, R321, R324 to R327) -/

/-- A virtual page number (R309). -/
def vpnOf (va : BitVec 40) : BitVec 28 := va.extractLsb' 12 28

/-- An entry covers a page (R314). -/
def TlbEntry.covers (e : TlbEntry) (vpn : BitVec 28) : Bool := vpn.toNat / 2 ^ e.cont == e.vpn.toNat / 2 ^ e.cont
/-- An entry matches an access (R321). -/
def TlbEntry.hits (e : TlbEntry) (tag : BitVec 12) (vpn : BitVec 28) : Bool :=
  (e.tag == tag || e.g) && e.covers vpn

/-- The matching entry, the most recently filled of several (R321). -/
def tlbFind (l : List TlbEntry) (tag : BitVec 12) (vpn : BitVec 28) : Option TlbEntry :=
  (l.filter (fun e => e.hits tag vpn)).foldl (fun acc e =>
    match acc with
    | none => some e
    | some b => if b.fill < e.fill then some e else some b) none

/-- The frame that an entry gives a page (R314). -/
def TlbEntry.frameOf (e : TlbEntry) (vpn : BitVec 28) : Nat :=
  e.frame.toNat / 2 ^ e.cont * 2 ^ e.cont + vpn.toNat % 2 ^ e.cont
/-- The physical word address that an entry gives a virtual address. -/
def TlbEntry.pa (e : TlbEntry) (va : BitVec 40) : Nat := e.frameOf (vpnOf va) * 4096 + va.toNat % 4096

/-- An entry becomes the most recently used (R320). -/
def tlbTouch (l : List TlbEntry) (e : TlbEntry) : List TlbEntry := e :: l.erase e

/-- Removes the least recently used unlocked entry (R320). -/
def tlbEvict (l : List TlbEntry) : List TlbEntry := (l.reverse.eraseP (fun e => !e.locked)).reverse
/-- Fills an entry into a TLB of a size (R320). -/
def tlbFill (size : Nat) (l : List TlbEntry) (e : TlbEntry) : List TlbEntry :=
  e :: (if l.length < size then l else tlbEvict l)

/-- The read rule of R327. -/
def keyRead (rights : W32) (svc : Bool) (key : BitVec 4) (grd : BitVec 2) : Bool :=
  match grd.toNat with
  | 0 => true
  | 3 => svc && rights.getLsbD (2 * key.toNat)
  | _ => rights.getLsbD (2 * key.toNat)
/-- The write rule of R327. -/
def keyWrite (rights : W32) (svc : Bool) (key : BitVec 4) (grd : BitVec 2) : Bool :=
  match grd.toNat with
  | 0 => rights.getLsbD (2 * key.toNat + 1)
  | 1 => rights.getLsbD (2 * key.toNat + 1)
  | _ => svc && rights.getLsbD (2 * key.toNat + 1)

/-- What an access asks of its leaf and its frame's key (R324). -/
structure Want where
  r : Bool
  w : Bool
  x : Bool
  /-- the key rules are applied at issue -/
  keyed : Bool
  /-- the memory types that permit it (R33, R218) -/
  mts : List (BitVec 2)
deriving DecidableEq, Repr

/-- What the look-up and the checks of an access give (R325). -/
inductive Tr where
  | ok (pa : Nat) (e : TlbEntry)
  | miss
  | prot
  | key
  | mt
deriving DecidableEq, Repr

/-- Looks an address up and checks the access: translation, permission, key, memory type (R325). -/
def translate (l : List TlbEntry) (tag : BitVec 12) (mode : Bool) (krr : W32) (va : BitVec 40) (q : Want) : Tr :=
  match tlbFind l tag (vpnOf va) with
  | none => .miss
  | some e =>
    if (q.r && !e.r) || (q.w && !e.w) || (q.x && !e.x) || (!mode && !e.u) then .prot
    else if q.keyed && e.mt != 3#2 &&
        (((q.r || q.x) && !keyRead krr mode e.key e.grd) || (q.w && !keyWrite krr mode e.key e.grd)) then .key
    else if !q.mts.contains e.mt then .mt
    else .ok (e.pa va) e

/-! ### Instruction lengths and control instructions (R101, R88) -/

/-- The entry of the dispatch table for a customer opcode (R377). -/
def Image.entry (g : Image) (op : Nat) : BitVec 24 := g.dispatch.get op

/-- The length of an instruction by its major opcode, from R101 and, for customer opcodes, the loaded dispatch entry. -/
def majorLen (g : Image) (w0 : W16) : Nat :=
  let m := (w0.extractLsb' 8 8).toNat
  if m = 0x12 ∨ m = 0x13 ∨ m = 0x19 ∨ m = 0x22 ∨ m = 0x24 ∨ m = 0x34 ∨ m = 0x40 ∨ m = 0x41 then 3
  else if m = 0x10 ∨ m = 0x11 ∨ m = 0x18 ∨ m = 0x20 ∨ m = 0x21 ∨ m = 0x23 ∨ m = 0x27 ∨ m = 0x28 ∨ m = 0x35 ∨ m = 0x38
      ∨ (0x42 ≤ m ∧ m ≤ 0x44) ∨ m = 0x60 ∨ m = 0x61 ∨ m = 0x70 ∨ m = 0x71 ∨ m = 0x74 then 2
  else if 0xE0 ≤ m ∧ m ≤ 0xEF then
    let l := ((g.entry m).extractLsb' 12 2).toNat
    if l = 0 then 1 else l
  else 1

/-- A branch, REPB, REPBI, SVC, SRET, XRET or MRET by its major opcode and sub-opcode (R88). -/
def isControl (w0 : W16) : Bool :=
  let m := (w0.extractLsb' 8 8).toNat
  let x := (w0.extractLsb' 0 8).toNat
  if m = 0 then decide (x = 8 ∨ x = 9 ∨ x = 10 ∨ (0x10 ≤ x ∧ x ≤ 0x17))
  else if m = 0x25 then decide (x % 8 ≤ 1)
  else decide ((0x20 ≤ m ∧ m ≤ 0x24) ∨ m = 0x26 ∨ m = 0x27 ∨ m = 0x28)

/-! ### The parity of the control stores (R376, R392) -/

/-- The exclusive or of bits lo to lo + n - 1: the inverted odd-parity bit of a field. -/
def xorBits {w : Nat} (v : BitVec w) (lo n : Nat) : BitVec 1 :=
  BitVec.ofBool ((List.range n).foldl (fun x i => x ^^ v.getLsbD (lo + i)) false)

/-- The parity bits of a word, by store (1 dispatch, 2 microstore, 3 nano-store, 4 DSU store) and index: their numbers and
their inverted values. A nano-word has one for bits [55:0] and one for [111:56]. -/
def parityBits (store idx : Nat) (v : BitVec 112) : List (Nat × BitVec 1) :=
  match store with
  | 1 => [(idx, xorBits v 0 24)]
  | 2 => [(256 + idx, xorBits v 0 24)]
  | 3 => [(4352 + 2 * idx, xorBits v 0 56), (4353 + 2 * idx, xorBits v 56 56)]
  | _ => [(5376 + idx, xorBits v 0 24)]

/-- A word of an image. -/
def Image.word (g : Image) (store idx : Nat) : BitVec 112 :=
  match store with
  | 1 => (g.dispatch.get idx).setWidth 112
  | 2 => (g.micro.get idx).setWidth 112
  | 3 => g.nano.get idx
  | _ => (g.dsu.get idx).setWidth 112
/-- A word reads with right parity. -/
def Image.parityOk (g : Image) (store idx : Nat) : Bool :=
  (parityBits store idx (g.word store idx)).all (fun x => g.parity.get x.1 == x.2)

/-- The core stops for a reload of its control stores, before the instruction completes; its machine check follows (R369). -/
def Core.awaitReload (k : Core) : Core := { k with ctl := { k.ctl with reload := some false } }

end Sys2Proof.Machine
end

