-- ==== Sys2Proof/Machine/Events.lean ====
section
/-!
DEFINITION. What the device's agents tell one another: the Steward's log (R491), host events and MSI-X (R466, R470),
quire sources (R353, R355, R570), mailboxes (R362), and what follows a checkstop (R372).
-/
namespace Sys2Proof.Machine

/-! ### The error log (R491) -/

/-- The events that R491 lists. -/
inductive LogKind where
  | boot | skipped | fatal | haltSafe | machineCheck | uncorrectable | pfail | fallback | ringJoin | portLost | ownerKey
  | password | debugOpen | vendorUnlock | load | failedWardenAccess | eyeLow | thermal
deriving DecidableEq, Repr

/-- The model's number of an event, from which Config gives the code. -/
def LogKind.index : LogKind → Nat
  | .boot => 0 | .skipped => 1 | .fatal => 2 | .haltSafe => 3 | .machineCheck => 4 | .uncorrectable => 5 | .pfail => 6
  | .fallback => 7 | .ringJoin => 8 | .portLost => 9 | .ownerKey => 10 | .password => 11 | .debugOpen => 12
  | .vendorUnlock => 13 | .load => 14 | .failedWardenAccess => 15 | .eyeLow => 16 | .thermal => 17

/-- Bytes 0 to 55 of a log entry (R491). -/
def LogEntry.head (e : LogEntry) : List Byte :=
  natBytesBE 4 e.seq.toNat ++ natBytesBE 8 e.time.toNat ++ natBytesBE 2 e.event.toNat ++ natBytesBE 2 e.source.toNat ++
    e.detail
/-- A log entry as its 64 bytes (R491). -/
def LogEntry.bytes (e : LogEntry) : List Byte := e.head ++ natBytesBE 8 e.chain.toNat

/-- The last n elements of a list. -/
def lastN {α : Type} (n : Nat) (l : List α) : List α := l.drop (l.length - n)

/-- Logs an event: the chain digest moves on, and the RAM log keeps 1,024 entries (R491). -/
def logEvent (s : State) (k : LogKind) (source : BitVec 16) : State :=
  let w := s.stw
  let e0 : LogEntry :=
    { seq := w.logNext, time := s.tmr, event := Config.logCode k.index, source := source
      detail := natBytesBE 40 (Config.logDetail w.logNext.toNat).toNat, chain := 0 }
  let c := Config.sha384 (natBytesBE 48 w.chain.toNat ++ e0.head)
  let e := { e0 with chain := c.extractLsb' 320 64 }
  { s with stw := { w with log := lastN 1024 (w.log ++ [e]), logNext := w.logNext + 1#32, chain := c
                           chains := w.chains.set w.logNext.toNat c } }

/-- The source of a device-wide log entry (R491). -/
def noSource : BitVec 16 := 0xFFFF

/-- ALERT_N is driven low (R490). -/
def setAlert (s : State) : State := { s with stw := { s.stw with alrt := true } }

/-! ### Host events and MSI-X (R466, R470) -/

/-- Address of doubleword d of vector v of function f in the MSI-X tables. -/
def msixIdx (f : FnId) (v : BitVec 7) (d : Nat) : Nat := 512 * f.val + 4 * v.toNat + d
/-- Address of the pending bit of vector v of function f. -/
def pbaIdx (f : FnId) (v : BitVec 7) : Nat := 128 * f.val + v.toNat

/-- Vector v of function f is masked: by the Function Mask, or by bit 0 of its vector control, which is 1 after reset (R466). -/
def msixMasked (s : State) (f : FnId) (v : BitVec 7) : Bool :=
  s.host.cfg[f].fnMask || !(s.host.msix.get (msixIdx f v 3)).getLsbD 0

/-- Sends the message of a vector; while the link is down it is discarded (R469). -/
def sendMsix (s : State) (f : FnId) (v : BitVec 7) : State :=
  let dw := fun d => s.host.msix.get (msixIdx f v d)
  if !s.host.lup then s else
  s.send (.msix f v.toNat ((dw 1).toNat * 2 ^ 32 + (dw 0).toNat) (dw 2))

/-- Signals a vector: a masked one, or one of a function whose Bus Master Enable is 0, becomes pending; a function whose MSI-X
Enable is 0 signals nothing (R458, R466). -/
def signalMsix (s : State) (f : FnId) (v : BitVec 7) : State :=
  if !s.host.cfg[f].msixEn then s
  else if msixMasked s f v || !s.host.cfg[f].bme then
    { s with host := { s.host with pba := s.host.pba.set (pbaIdx f v) 1#1 } }
  else sendMsix s f v

/-- Bit numbers of HI_EVT (R470). -/
def evFbon : Nat := 0
def evFboff : Nat := 1
def evQstp : Nat := 2
def evClost : Nat := 3
def evCovf : Nat := 4
def evLdn : Nat := 5

/-- Sets a bit of HI_EVT; a rise of an enabled bit signals the event vector of the PF (R470). -/
def hostEvent (s : State) (b : Nat) : State :=
  let rise := !s.host.evt.getLsbD b
  let s1 := { s with host := { s.host with evt := s.host.evt ||| (1#6 <<< b) } }
  if rise && s.host.een && s.host.emsk.getLsbD b then signalMsix s1 0 s.host.evec else s1

/-- The Steward interrupts the host (R23, R372, R374). HI_EVT has no bit for it, so the event vector of the PF is
signalled while HI_ECFG.EN is 1 (DEDUCED, notes/assumptions/56.md). -/
def interruptHost (s : State) : State := if s.host.een then signalMsix s 0 s.host.evec else s

/-! ### Quire sources (R353 to R355, R570) -/

/-- An event on source i of quire q sets PND, or merges with the one pending (R355); for sources 42 to 45 a Steward
message goes with it (R570). -/
def raiseIn (s : State) (q : QuireId) (i : Fin 64) (msg : Option (BitVec 56)) : State :=
  let x := s.quire q
  let r := x.routes[i]
  let msgs := match msg with
    | some m => if r.msgs.contains m then r.msgs else r.msgs ++ [m]
    | none => r.msgs
  s.setQuire q { x with routes := x.routes.set i { r with pnd := true, msgs := msgs } }

/-- Raises a source in all 8 quires (R570). -/
def raiseAll (s : State) (i : Fin 64) (msg : Option (BitVec 56)) : State :=
  (List.finRange 8).foldl (fun s q => raiseIn s q i msg) s

/-- A Steward message: event code in [55:48], detail in [47:0] (R362). -/
def stwMsg (code : BitVec 8) (detail : Nat) : BitVec 56 := code ++ BitVec.ofNat 48 detail

/-- The event codes that a message of source 42, 43, 44 or 45 may carry for an event of the whole device (R353, R362). -/
def sourceCodes : Nat → List (BitVec 8)
  | 42 => [0x03, 0x04, 0x08]
  | 43 => [0x01, 0x02]
  | 44 => [0x05]
  | 45 => [0x06]
  | _ => []

/-- An event of the whole device is logged, by the code that its message carries, where R491 lists it; a free value says which port
was lost. -/
def logMessage (s : State) (code : BitVec 8) (port : Bool) : State :=
  match code.toNat with
  | 1 => logEvent s .ringJoin noSource
  | 2 => logEvent s .portLost ((BitVec.ofBool port).setWidth 16)
  | 3 => logEvent s .fallback noSource
  | 5 => logEvent s .pfail noSource
  | 6 => logEvent s .uncorrectable noSource
  | _ => s

/-- An event on source i as it reaches quire q (R355). Sources 42 to 47 report an event of the whole device and are raised in
all 8 quires (R570), and the events of sources 42 to 45 are logged (R491); which of its events a source 42 or 43 reports is open
here, and a free value chooses the code of its message (DESIGN CHOICE, notes/assumptions/176.md). -/
def sourceEvent (s : State) (q : QuireId) (i : Fin 64) : State :=
  if i.val < 42 ∨ 47 < i.val then raiseIn s q i none
  else
    let l := sourceCodes i.val
    match l[s.free.toNat % l.length]? with
    | some code => raiseAll (logMessage (if l.length < 2 then s else s.drawn) code (s.free.getLsbD 63)) i (some (stwMsg code 0))
    | none => raiseAll s i none

/-- An uncorrectable error outside the cores is logged and raises source 45 with message 0x06 (R214, R413, R570). -/
def reportUncorrectable (s : State) : State :=
  raiseAll (logEvent s .uncorrectable noSource) 45 (some (stwMsg 0x06 0))

/-- Adds a message to a core's mailbox, or drops it and sets OVF (R362). -/
def mailboxPut (s : State) (c : CoreId) (sender : BitVec 8) (v : BitVec 56) : State :=
  let k := s.core c
  if k.ctl.cks || k.ctl.iso || decide (16 ≤ k.irq.mbx.length) then
    s.setCore c { k with irq := { k.irq with movf := true } }
  else s.setCore c { k with irq := { k.irq with mbx := k.irq.mbx ++ [sender ++ v] } }

/-! ### Commands that write a port of the mesh (R516, R562) -/

/-- What a command does that writes a port of a block gated in Dormant: there it is discarded, and one of the host sets DAX
(R516); at a port of a failed warden it is discarded and logged (R562). -/
def portCommand (s : State) (host : Bool) (q : Option QuireId) (act : State → State) : State :=
  if !s.spineRuns then (if host then { s with pwr := { s.pwr with dax := true } } else s)
  else
    match q with
    | some q =>
      if (s.quire q).failed then (if host then s else logEvent s .failedWardenAccess (BitVec.ofNat 16 q.val)) else act s
    | none => act s

/-- The same for a command that names no writer: in Dormant only the host can be it, since every core is gated. -/
def anyCommand (s : State) (q : Option QuireId) (act : State → State) : State := portCommand s (!s.spineRuns) q act

/-! ### Stopping a core (R372, R469) -/

/-- A queue pair is enabled (R460). -/
def QueuePair.en (x : QueuePair) : Bool :=
  decide (2 ≤ x.sqn.toNat) && decide (x.sqn.toNat ≤ 4096) && decide (2 ≤ x.cqn.toNat) && decide (x.cqn.toNat ≤ 4096)

/-- The reservations of a lost core's undelivered completions are released (R469). -/
def QueuePair.loseCore (x : QueuePair) (c : CoreId) : QueuePair :=
  let gone := (x.subs.filter (fun u => u.core == c)).length
  { x with subs := x.subs.filter (fun u => u.core != c), resv := x.resv - gone }

/-- A target core was lost (R469). -/
def targetLost (s : State) (c : CoreId) : State :=
  let hit := (List.finRange 256).any (fun n => (s.qp n).en && (s.qp n).cores.getLsbD c.val)
  let s1 := { s with qps := s.qps.map (fun x => x.loseCore c) }
  if hit then hostEvent s1 evClost else s1

/-- Word w of a descriptor (R287). -/
def descWord (ws : List W16) (w : Nat) : W16 := ws.getD w 0

/-- The core whose window slot a descriptor needs: WC of a descriptor with SLOT = 1 and CNT ≠ 0 (R287, R305). -/
def slotCore (ws : List W16) : Option Nat :=
  if (descWord ws 10).getLsbD 11 && !(descWord ws 8 == 0 && descWord ws 9 == 0) then some (fieldN (descWord ws 11) 0 6)
  else none

/-- A running descriptor with SLOT = 1 for a core, and for one of some windows of it, ends with status 0x18
(R303, R372). -/
def Engine.endSlot (e : Engine) (c : CoreId) (wins : Nat → Bool) (waitingOnly : Bool) : Engine :=
  match e.cur with
  | some r =>
    if slotCore r.words == some c.val && wins (fieldN (descWord r.words 10) 6 4) && r.ended.isNone
        && !(waitingOnly && r.slot != 0xF) && r.record.isNone
    then { e with cur := some { r with ended := some (0x18, 0) } } else e
  | none => e

/-- Every window is disabled and the SWAITs that wait are discarded (R372). -/
def Core.closeWindows (k : Core) : Core :=
  { k with
    win := k.win.map (fun w => { w with en := false, queue := [], own := false, inUse := [] })
    longs := k.longs.filter (fun o => match o.op with | .swait _ => false | _ => true) }

/-- The parts of R372 and R23 that follow when a core stops for good. -/
def coreStops (s : State) (c : CoreId) : State :=
  let s1 := s.modCore c Core.closeWindows
  let s2 := { s1 with
    engines := s1.engines.map (fun e => e.endSlot c (fun _ => true) false)
    quires := s1.quires.map (fun q =>
      { q with shoot := { q.shoot with waiting := q.shoot.waiting.filter (fun t => t != .core c) } }) }
  targetLost s2 c

/-- A fatal fault is detected: the Steward begins to handle it, or has a second one to handle, which may be one of the same
kind (R374, R490). -/
def detectFatal (s : State) (f : FatalKind) : State :=
  { s with stw := { s.stw with faults := s.stw.faults ++ [f], fat := true, alrt := true } }

/-- The consequences of a checkstop at the core and in the device (R372). -/
def stopCore (s : State) (c : CoreId) : State :=
  let s1 := s.modCore c (fun k =>
    { k with micro := none, branch := none, ctl := { k.ctl.proceed with cks := true, run := false, reload := none } })
  raiseIn (coreStops s1 c) (coreQuire c) 45 (some (stwMsg 0x07 c.val))

/-- A core checkstops (R371, R372). The Steward logs it and interrupts the host when it handles the fault (R374). -/
def checkstopCore (s : State) (c : CoreId) : State := detectFatal (stopCore s c) (.checkstop c)

/-- A machine check of a core, synchronous at the instruction at the pc or taken at a boundary; while MCIP is 1 the core
checkstops (R366, R367, R371). The warden reports it and the Steward logs it (R491). -/
def machineCheckAt (s : State) (c : CoreId) (cause : MCause) (lvl : BitVec 2) (sync : Bool) : State :=
  let k := s.core c
  if k.sys.m.mcip then checkstopCore s c
  else
    logEvent (s.setCore c (if sync then k.enterMSync cause lvl else k.enterM cause lvl k.pc none)) .machineCheck
      (BitVec.ofNat 16 c.val)

end Sys2Proof.Machine
end

