-- ==== Sys2Proof/Machine/Mesh.lean ====
section
/-!
DEFINITION. The mesh: the regions of the physical map (R311), the units that serve its lines, the age of a request, and which
request a unit serves next (01_organisation.md R15 to R19; 08_vat_records_posting.md R212, R214, R222 to R224, R245, R246).
The time that a request needs on its way is not modelled: from the cycle in which it enters it stands in its unit's queue.
-/
namespace Sys2Proof.Machine

/-! ### Regions (R311) -/

/-- The regions of the physical map. -/
inductive MemRegion where
  | hbm | vat | jnl | dev | absent
deriving DecidableEq, Repr

/-- Words of the HBM of a part (R1, R311). -/
def hbmWords : Part → Nat
  | .a24c => 0x300000000
  | .a24e => 0x300000000
  | .a16c => 0x200000000
/-- First word of the Vat. -/
def vatBase : Nat := 0x800000000
/-- Words of the Vat (R211). -/
def vatWords : Nat := 0x1000000
/-- First word of the journal SRAM. -/
def jnlBase : Nat := 0x900000000
/-- Words of the journal SRAM (R255). -/
def jnlWords : Nat := 0x200000
/-- First word of the device region. -/
def devBase : Nat := 0xF00000000

/-- The region that a physical word address lies in (R311). -/
def regionOf (p : Part) (pa : Nat) : MemRegion :=
  if pa < hbmWords p then .hbm
  else if vatBase ≤ pa ∧ pa < vatBase + vatWords then .vat
  else if jnlBase ≤ pa ∧ pa < jnlBase + jnlWords then .jnl
  else if devBase ≤ pa ∧ pa < 0x1000000000 then .dev
  else .absent

/-- The region of a memory type (R312). -/
def regionOfMt (mt : BitVec 2) : MemRegion :=
  if mt = 0#2 then .hbm else if mt = 1#2 then .vat else if mt = 2#2 then .jnl else .dev

/-- The line of 32 words that holds an address. -/
def lineOf (pa : Nat) : Nat := pa / 32
/-- The line number of a Vat address (R211). -/
def vatLine (pa : Nat) : Nat := (pa - vatBase) / 32
/-- A POST holds the line locked (R212, R246). -/
def State.locked (s : State) (pa : Nat) : Bool := s.locks.any (fun l => l.1 == lineOf pa)
/-- The HBM controller serves no request at an HBM address: the stack is not ready or in self-refresh, or a calender window is
open (R421, R422, R425). -/
def State.hbmShut (s : State) (pa : Nat) : Bool :=
  decide (pa < hbmWords s.part) && (!s.hbm.rdy || s.hbm.sr || s.hbm.cal)
/-- A request at an address waits for the unlock of its line or for the HBM controller. -/
def State.held (s : State) (pa : Nat) : Bool := s.locked pa || s.hbmShut pa

/-! ### The directory's addresses (R229, R231, R232) -/

/-- FIND and DSWAP have a directory (R229). -/
def DirCfg.enabled (d : DirCfg) : Bool := decide (7 ≤ d.logn.toNat) && decide (d.logn.toNat ≤ 18)
/-- The number of buckets. -/
def DirCfg.buckets (d : DirCfg) : Nat := 2 ^ d.logn.toNat
/-- The first physical word of bucket b: the low LOGN bits of BASE are used as 0 (R229). -/
def DirCfg.bucketPa (d : DirCfg) (b : Nat) : Nat := vatBase + (d.base.toNat / d.buckets * d.buckets + b) * 32
/-- The hash of R232. -/
def dirHash (k s : W64) : BitVec 32 :=
  let t := (k ^^^ s) * 0x9E3779B97F4A7C15#64
  t.extractLsb' 32 32 ^^^ t.extractLsb' 0 32
/-- The two buckets of a key (R232). -/
def DirCfg.choices (d : DirCfg) (key : W64) : Nat × Nat :=
  let b1 := (dirHash key d.seed1).toNat % d.buckets
  let b2 := (dirHash key d.seed2).toNat % d.buckets
  (b1, if b2 % 64 = b1 % 64 then b2 ^^^ 1 else b2)

/-! ### Requests that wait (R17, R83, R223, R224) -/

/-- The age of a request: the mesh cycle in which it entered, the number of its source, and its place among those that one
source entered in one cycle: when it entered, then when it was issued (R17). -/
structure Age where
  cycle : Nat
  src : Nat
  seq : Nat
  ord : Nat
deriving DecidableEq, Repr

/-- The order in which requests are served (R17). -/
def Age.before (a b : Age) : Bool :=
  decide (a.cycle < b.cycle)
    || (a.cycle == b.cycle && (decide (a.src < b.src)
      || (a.src == b.src && (decide (a.seq < b.seq) || (a.seq == b.seq && decide (a.ord < b.ord))))))

/-- A request that enters the mesh now (R17, R214). -/
def State.entryNow (s : State) : Entry := ⟨s.now, s.stamp⟩
/-- The age of a request of a source that entered with e and was issued at ord. -/
def Entry.age (e : Entry) (src ord : Nat) : Age := ⟨e.cycle, src, e.seq, ord⟩

/-- The source numbers of R17: cores, stream engines, then the device stops. -/
def srcCore (c : CoreId) : Nat := c.val
def srcEng (e : EngId) : Nat := 64 + e.val
def srcHbm : Nat := 80
def srcJournal : Nat := 81
def srcPcie : Nat := 82
def srcSteward : Nat := 85

/-- A store that R224 makes a POST or DSWAP wait for, and that is not yet written. -/
def LongOp.unwritten (o : LongOp) : Bool :=
  o.res.isNone && (match o.op with | .vst _ _ => true | .vput _ _ => true | .vcas _ _ _ => true | _ => false)
/-- Every store that the core issued before a stamp has been written at its target (R224). -/
def Core.storesBefore (k : Core) (st : Nat) : Bool :=
  k.longs.all (fun o => !(o.unwritten && decide (o.stamp < st)))
    && k.pushq.all (fun p => decide (st ≤ p.stamp))
    && k.sbuf.all (fun e => match e with | .push _ _ t => decide (st ≤ t) | _ => true)

/-- The lines that an outstanding request of a core has still to reach. -/
def LongOp.lines (o : LongOp) : List Nat :=
  if o.res.isSome then []
  else
    match o.op with
    | .vld pa => [lineOf pa]
    | .vst pa _ => [lineOf pa]
    | .vget pa _ => [lineOf pa]
    | .vput pa _ => [lineOf pa]
    | .vcas pa _ _ => [lineOf pa]
    | .pop pa0 _ pa1 n1 w0 w1 _ =>
      (if w0.isNone then [lineOf pa0] else []) ++ (if w1.isNone && n1 != 0 then [lineOf pa1] else [])
    | .find key d w1 w2 _ =>
      if d.enabled then
        (if w1.isNone then [lineOf (d.bucketPa (d.choices key).1)] else [])
          ++ (if w2.isNone then [lineOf (d.bucketPa (d.choices key).2)] else [])
      else []
    | .dswap pa _ _ => [lineOf pa]
    | _ => []

/-- A request that waits at the unit of a line. -/
structure Waiter where
  age : Age
  line : Nat
  /-- it waits to lock the line, for which it needs a lock slot (R245) -/
  lock : Bool
deriving DecidableEq, Repr

/-- The requests of a core that are on the mesh. -/
def Core.waiters (k : Core) (c : CoreId) : List Waiter :=
  k.longs.flatMap (fun o => match o.entry with
    | some e => o.lines.map (fun ln => ⟨e.age (srcCore c) o.stamp, ln, false⟩)
    | none => [])
  ++ k.pushq.filterMap (fun p => p.entry.map (fun e => ⟨e.age (srcCore c) p.stamp, lineOf p.pa, false⟩))

/-- The lo and hi lines of a posting (R240). -/
def Posting.lo (p : Posting) : Nat := min (lineOf p.paA) (lineOf p.paB)
def Posting.hi (p : Posting) : Nat := max (lineOf p.paA) (lineOf p.paB)
/-- The legs lie in two lines (R240). -/
def Posting.twoLines (p : Posting) : Bool := p.lo != p.hi
/-- The source of a posting's request: its core, and for hi, which the unit holding lo sends for when lo is locked, the HBM
posting unit where that unit is a source (R17, R240); a Vat bank is none, and its request keeps the core's number (DEDUCED,
notes/assumptions/188.md). -/
def Posting.src (p : Posting) (part : Part) : Nat :=
  if p.phase = .lockedLo ∧ regionOf part (p.lo * 32) = .hbm then srcHbm else srcCore p.core
/-- The age of a posting's request. -/
def Posting.age (p : Posting) (part : Part) (e : Entry) : Age := e.age (p.src part) p.stamp
/-- The line that a posting waits to lock. -/
def Posting.wants (p : Posting) : Option Nat :=
  match p.phase with
  | .issued => some p.lo
  | .lockedLo => if p.twoLines then some p.hi else none
  | _ => none

/-- Cores, streams and Camwin issue: not in halt-safe, not once a warm reset has begun, not after a thermal trip (R375,
R526, R537). -/
def State.live (s : State) : Bool := !s.stw.hsf && !s.pwr.trip && s.pins.phase == .running

/-- A gating holds the core at a boundary that R359 allows: it issues nothing more (R400, R513). -/
def Core.gateHolds (k : Core) : Bool := k.ctl.gated && k.branch.isNone && k.micro.isNone && !k.ctl.fbWait
/-- The core's clock is off: it is held, and its store buffer has drained (R19, R83; DESIGN CHOICE, notes/assumptions/200.md). -/
def Core.clockOff (k : Core) : Bool := k.gateHolds && k.sbuf.isEmpty

/-- The core executes: released, clocked, and neither checkstopped, isolated nor in a reload (R363, R369). -/
def State.runs (s : State) (c : CoreId) : Bool :=
  let k := s.core c
  s.live && k.ctl.run && !k.gateHolds && !k.ctl.cks && !k.ctl.iso && k.ctl.reload.isNone

/-- The device is powered and out of reset, or finishes its postings before one. -/
def State.awake (s : State) : Bool := match s.pins.phase with | .running => true | .stopping _ => true | _ => false
/-- The journal unit makes copies (R270, R375). -/
def State.jnlWorks (s : State) : Bool := !s.jnl.frz && !s.stw.hsf && s.awake

/-- Scrub and windows run: the stack is ready and out of self-refresh, the device neither in halt-safe nor held in reset (R421,
R424). -/
def State.stackRuns (s : State) : Bool := s.hbm.rdy && !s.hbm.sr && !s.stw.hsf && s.awake && s.pwr.spine

/-- A unit that has made no use yet of a request that waits is still in need of it: the walk or line of a core that executes, so
that a gated core's holds nothing up (R20), an engine's descriptor, the scrub, the Steward's copy of a bundle, the journal's
copies. -/
def State.needs (s : State) (w : MeshWait) : Bool :=
  if h : w.src < 64 then
    let t := (s.core ⟨w.src, h⟩).ctl
    s.runs ⟨w.src, h⟩ && (match w.task with
    | .fill => t.stallSince.isSome
    | .walk k => (t.need.any (fun n => n.1 == k)) || (t.walkBg.any (fun n => n.1 == k))
    | _ => false)
  else if h : w.src - 64 < 16 then
    let x := s.eng ⟨w.src - 64, h⟩
    x.cur.isSome || (x.en && !x.halt && x.head != x.tail)
  else
    if w.src == srcHbm then s.hbm.per != 0#8 && s.stackRuns
    else if w.src == srcSteward then s.stw.mcGo
    else
    match w.task with
    | .drain => s.jnl.hde
    | .resend => s.jnl.rep
    | _ => decide (s.jnl.hbm.toNat + 1 < s.jnl.next.toNat)

/-- Every request that waits on the mesh. -/
def State.waiting (s : State) : List Waiter :=
  (List.finRange 64).flatMap (fun c => (s.core c).waiters c)
  ++ s.posts.filterMap (fun p => match p.entry, p.wants with
    | some e, some ln => some ⟨p.age s.part e, ln, true⟩
    | _, _ => none)
  ++ (s.waits.filter s.needs).map (fun w => ⟨⟨w.cycle, w.src, w.ord, w.ord⟩, w.line, false⟩)
  ++ s.host.reads.flatMap (fun r => r.todo.map (fun l => ⟨⟨r.cycle, srcPcie, r.ord, r.ord⟩, vatBase / 32 + l, false⟩))

/-! ### Units, lock slots and service (R212, R214, R223, R245, R246) -/

/-- The unit that serves a line: a Vat bank, the HBM controller, the journal unit; a word of the device region is served at its
own port's block. -/
def unitAt (p : Part) (ln : Nat) : Nat :=
  match regionOf p (ln * 32) with
  | .vat => ln % 64
  | .hbm => 64
  | .jnl => 65
  | _ => 66 + ln

/-- The lock slots of a unit (R245). -/
def unitSlots (u : Nat) : Nat := if u < 64 then 16 else 2048
/-- The unit of a line has a lock slot free. -/
def slotFreeAt (s : State) (ln : Nat) : Bool :=
  decide ((s.locks.filter (fun x => unitAt s.part x.1 == unitAt s.part ln)).length < unitSlots (unitAt s.part ln))

/-- A request that waits could be served now, were it the oldest. -/
def State.ready (s : State) (w : Waiter) : Bool :=
  !s.held (w.line * 32) && (!w.lock || slotFreeAt s w.line)

/-- A request reaches the bank of a line after a report that the line is uncorrectable, and waits for the mark (R214). -/
def State.marking (s : State) (a : Age) (ln : Nat) : Bool :=
  s.reports.any (fun r => ln == vatBase / 32 + r.1.toNat && decide (r.2 ≤ a.seq))

/-- Two lines whose accesses by one core keep the order of issue: one line, or two of the device region (R223, R467). -/
def sameQueue (p : Part) (l ln : Nat) : Bool :=
  l == ln || (regionOf p (l * 32) == .dev && regionOf p (ln * 32) == .dev)

/-- A core has issued a request earlier that keeps its order with one to a line, and it has not been served (R223, R467). -/
def Core.earlier (k : Core) (p : Part) (st ln : Nat) : Bool :=
  k.longs.any (fun o => decide (o.stamp < st) && o.lines.any (fun l => sameQueue p l ln))
    || k.pushq.any (fun q => decide (q.stamp < st) && sameQueue p (lineOf q.pa) ln)
    || k.sbuf.any (fun e => match e with
      | .push pa _ t => decide (t < st) && sameQueue p (lineOf pa) ln
      | _ => false)

/-- One of them has not entered the mesh: a request to the line enters behind it (R17, R223). -/
def Core.holdsBack (k : Core) (p : Part) (st ln : Nat) : Bool :=
  k.longs.any (fun o => decide (o.stamp < st) && o.entry.isNone && o.lines.any (fun l => sameQueue p l ln))
    || k.pushq.any (fun q => decide (q.stamp < st) && q.entry.isNone && sameQueue p (lineOf q.pa) ln)
    || k.sbuf.any (fun e => match e with
      | .push pa _ t => decide (t < st) && sameQueue p (lineOf pa) ln
      | _ => false)

/-- A request of an age to a line must wait: the spine is not clocked, the line is locked or the controller shut, the line is to
be marked, an older request to the line waits, or one to another line of the unit that could be served (R17, R19, R212). -/
def State.blocked (s : State) (a : Age) (ln : Nat) : Bool :=
  !s.spineRuns || s.held (ln * 32) || s.marking a ln
    || s.waiting.any (fun w => w.age.before a && (w.line == ln || (unitAt s.part w.line == unitAt s.part ln && s.ready w)))
    || (if h : a.src < 64 then (s.core ⟨a.src, h⟩).earlier s.part a.ord ln else false)

/-- The age of the request that a source makes to a line now, or has made and which still waits. -/
def State.ageOf (s : State) (src ln : Nat) : Age :=
  match s.waits.find? (fun w => w.src == src && w.line == ln) with
  | some w => ⟨w.cycle, src, w.ord, w.ord⟩
  | none => ⟨s.now, src, s.stamp, s.stamp⟩

/-- A request that a source makes to an address must wait. -/
def State.mustWait (s : State) (src pa : Nat) : Bool := s.blocked (s.ageOf src (lineOf pa)) (lineOf pa)

/-- A core's request to a line must let one that it issued earlier enter the mesh first (R223). -/
def State.heldBack (s : State) (src ln : Nat) : Bool :=
  if h : src < 64 then (s.core ⟨src, h⟩).holdsBack s.part s.stamp ln else false

/-- A source's request to a line waits from now on, in place of an earlier one for the same task, once none that the source
issued earlier holds it back. -/
def State.await (s : State) (src : Nat) (task : Task) (ln : Nat) : State :=
  if s.waits.any (fun w => w.src == src && w.task == task && w.line == ln) || s.heldBack src ln then s
  else
    { s.stamped with waits := s.waits.filter (fun w => !(w.src == src && w.task == task)) ++ [⟨src, task, ln, s.now, s.stamp⟩] }

/-- What a source waited for has been served. -/
def State.gotTask (s : State) (src : Nat) (task : Task) : State :=
  { s with waits := s.waits.filter (fun w => !(w.src == src && w.task == task)) }

/-- Requests that nothing needs any more leave (R93, R289, R359). -/
def State.dropWaits (s : State) : State := { s with waits := s.waits.filter s.needs }

/-- A long op's request may enter the mesh: its store-buffer entry has left (R83), a DSWAP finds the core's earlier stores written
(R224), and no earlier request to a line of its own is still to enter (R223). -/
def Core.mayEnter (k : Core) (p : Part) (o : LongOp) : Bool :=
  (match o.op with
    | .vst _ _ => !k.sbuf.any (fun e => match e with | .vst l => .l l == o.dest | _ => false)
    | .dswap _ _ _ => k.storesBefore o.stamp
    | _ => true)
  && o.lines.all (fun ln => !k.holdsBack p o.stamp ln)
/-- A part of a translated PUSH may enter: those before it in the mesh queue have, and nothing holds it back (R78, R223). -/
def Core.pushMayEnter (k : Core) (p : Part) (q : PushReq) : Bool :=
  !k.holdsBack p q.stamp (lineOf q.pa) && k.pushq.all (fun x => decide (q.stamp ≤ x.stamp) || x.entry.isSome)

/-- The requests of a core that may enter do, with one entry. -/
def Core.letInOnce (k : Core) (p : Part) (e : Entry) : Core :=
  { k with
    longs := k.longs.map (fun o => if o.entry.isNone && k.mayEnter p o then { o with entry := some e } else o)
    pushq := k.pushq.map (fun q => if q.entry.isNone && k.pushMayEnter p q then { q with entry := some e } else q) }

/-- The requests of a core that wait to enter the mesh do, as far as they may: one that enters may let in a later one (R223, R224).
Its POSTs enter once its earlier stores are written. -/
def State.letIn (s : State) (c : CoreId) : State :=
  let k := s.core c
  let k1 := (k.longs.map (fun _ => ()) ++ k.pushq.map (fun _ => ())).foldl (fun k _ => k.letInOnce s.part s.entryNow) k
  { (s.setCore c k1).stamped with
    posts := s.posts.map (fun p =>
      if p.core == c && p.entry.isNone && k.storesBefore p.stamp then { p with entry := some s.entryNow } else p) }

end Sys2Proof.Machine
end

