-- ==== Sys2Proof/Machine/Phys.lean ====
section
/-!
DEFINITION. Physical memory: HBM bursts with their code and injection (R408 to R417), Vat lines (R211 to
R215, R220), the journal SRAM (R255), frame tags (R329 to R333), and the table walk (R318).
-/
namespace Sys2Proof.Machine

/-! ### Errors counted by the unit that finds them (R214) -/

/-- The number of a unit that counts errors: a core, an engine, a Vat bank, the host's reads, the key array. -/
def unitCore (c : CoreId) : Nat := c.val
def unitEng (e : EngId) : Nat := 64 + e.val
def unitBank (line : Nat) : Nat := 128 + line % 64
def unitHost : Nat := 80
def unitKeys : Nat := 81

/-- A unit counts a corrected error. -/
def countCe (s : State) (u : Nat) : State := { s with ceCount := s.ceCount.set u (s.ceCount.get u + 1#32) }
/-- A unit counts an uncorrectable error. -/
def countUe (s : State) (u : Nat) : State := { s with ueCount := s.ueCount.set u (s.ueCount.get u + 1#32) }

/-! ### Where a word lies in the stack (R408, R409) -/

/-- The place of an HBM word in the stack (R408). -/
structure HbmPlace where
  word : BitVec 4
  pc : BitVec 4
  column : BitVec 5
  bank : BitVec 4
  row : BitVec 15
  stackId : BitVec 2
deriving DecidableEq, Repr

/-- The stack location that a physical word address names (R408). -/
def hbmPlace (a : BitVec 34) : HbmPlace :=
  { word := a.extractLsb' 0 4, pc := a.extractLsb' 5 4, column := a.extractLsb' 9 4 ++ a.extractLsb' 4 1
    bank := a.extractLsb' 13 4 ^^^ a.extractLsb' 17 4, row := a.extractLsb' 17 15, stackId := a.extractLsb' 32 2 }

/-- The channel of a pseudo-channel, and the pseudo-channel within it (R408). -/
def HbmPlace.channel (x : HbmPlace) : BitVec 3 := x.pc.extractLsb' 1 3

/-- The pseudo-channel of burst b (R408). -/
def pcOf (b : Nat) : Fin 16 := (hbmPlace (BitVec.ofNat 34 (16 * b))).pc.toFin

/-! ### The code of a burst: RS(36,32) over GF(2^8) (R410) -/

/-- Multiplication by α = 0x02 modulo x^8 + x^4 + x^3 + x^2 + 1. -/
def gfTwice (a : Byte) : Byte := (a <<< 1) ^^^ (if a.getLsbD 7 then 0x1D#8 else 0#8)
/-- Multiplication in GF(2^8), by the bits of the second factor from the highest. -/
def gfMul (a b : Byte) : Byte :=
  (List.range 8).foldl (fun r i => gfTwice r ^^^ (if b.getLsbD (7 - i) then a else 0#8)) 0#8
/-- α^n. -/
def gfPow : Nat → Byte
  | 0 => 1#8
  | n + 1 => gfTwice (gfPow n)
/-- The inverse of an element: its power 254. -/
def gfInv (a : Byte) : Byte := (List.range 7).foldl (fun r _ => gfMul (gfMul r r) a) 1#8 |> fun r => gfMul r r

/-- The generator (x - α^0)(x - α^1)(x - α^2)(x - α^3), from its highest coefficient. -/
def rsGenerator : List Byte :=
  (List.range 4).foldl (fun g i => (g ++ [0#8]).zipWith (· ^^^ ·) (0#8 :: g.map (fun c => gfMul c (gfPow i)))) [1#8]

/-- The 4 check bytes of 32 data bytes: the remainder of the data, byte 0 of highest degree, by the generator (R410). -/
def rsCheck (data : List Byte) : List Byte :=
  data.foldl (fun (r : List Byte) d =>
    match r with
    | c :: rest => (rest ++ [0#8]).zipWith (· ^^^ ·) ((rsGenerator.drop 1).map (gfMul (c ^^^ d)))
    | [] => []) [0#8, 0#8, 0#8, 0#8]

/-- The data bytes of a burst: byte 2i is bits [15:8] of word i (R410). -/
def burstBytes (ws : List W16) : List Byte := ws.flatMap (fun w => [w.extractLsb' 8 8, w.extractLsb' 0 8])

/-- Check byte j, byte 32 + j of the code word, of four packed in 32 bits. -/
def checkByte (e : BitVec 32) (j : Nat) : Byte := e.extractLsb' (8 * (3 - j)) 8
/-- Four check bytes in 32 bits, byte 32 first. -/
def packChecks (l : List Byte) : BitVec 32 := l.foldl (fun e b => (e <<< 8) ||| b.setWidth 32) 0#32

/-- The pattern of a poisoned burst, added to its correct check bytes (R412). -/
def poisonPattern : BitVec 32 := 0xB63C9A51#32

/-- Syndrome k of what is stored, from the check bytes' difference: byte n of the code word has degree 35 - n (R410). -/
def syndrome (e : BitVec 32) (k : Nat) : Byte :=
  (List.range 4).foldl (fun s j => s ^^^ gfMul (checkByte e j) (gfPow (k * (3 - j)))) 0#8

/-- The error of one symbol that has a syndrome: its degree and its value. -/
def oneError (s : Nat → Byte) : Option (List (Nat × Byte)) :=
  ((List.range 36).find? (fun i =>
    s 0 != 0#8 && (List.range 3).all (fun k => s (k + 1) == gfMul (s k) (gfPow i)))).map (fun i => [(i, s 0)])

/-- The error of two symbols that has a syndrome: its syndromes follow the recurrence of the two locators. -/
def twoErrors (s : Nat → Byte) : Option (List (Nat × Byte)) :=
  ((List.range 36).flatMap (fun i => (List.range i).map (fun j => (i, j)))).find? (fun x =>
      let a := gfPow x.1
      let b := gfPow x.2
      (List.range 2).all (fun k => s (k + 2) == gfMul (a ^^^ b) (s (k + 1)) ^^^ gfMul (gfMul a b) (s k)))
    |>.map (fun x =>
      let v := gfMul (s 1 ^^^ gfMul (gfPow x.1) (s 0)) (gfInv (gfPow x.1 ^^^ gfPow x.2))
      [(x.1, s 0 ^^^ v), (x.2, v)])

/-- The error that a decoding mode corrects: at most 2 symbols in modes 0 and 3, 1 in mode 1, none in mode 2; where the stored word
lies as near another code word, that one's (R411). -/
def rsError (cm : BitVec 2) (e : BitVec 32) : Option (List (Nat × Byte)) :=
  let s := syndrome e
  if cm = 2#2 then none
  else match oneError s with
    | some x => some x
    | none => if cm = 1#2 then none else twoErrors s

/-! ### HBM bursts (R410 to R417) -/

/-- How a burst reads under the decoding mode (R411, R412). -/
inductive BurstSt where
  | clean | corrected (err : List (Nat × Byte)) | uncorrectable | poisoned
deriving DecidableEq, Repr

/-- How burst b reads, by the syndrome of what is stored (R411, R412). -/
def burstSt (s : State) (b : Nat) : BurstSt :=
  let e := s.hbmEcc.get b
  if e = 0#32 then .clean
  else if e = poisonPattern then .poisoned
  else match rsError s.hbm.cm e with
    | some err => .corrected err
    | none => .uncorrectable

/-- The difference that errors make in word i of a burst: the symbol of degree d is byte 35 - d (R410). -/
def errWord (err : List (Nat × Byte)) (i : Nat) : W16 :=
  err.foldl (fun w x =>
    if 35 - x.1 = 2 * i then w ^^^ ((x.2.setWidth 16 : W16) <<< 8)
    else if 35 - x.1 = 2 * i + 1 then w ^^^ (x.2.setWidth 16 : W16) else w) 0#16

/-- A word of the HBM as it is delivered: corrected where its burst is, else as stored (R413). -/
def wordAsRead (s : State) (a : Nat) : W16 :=
  match burstSt s (a / 16) with
  | .corrected err => s.phys.get a ^^^ errWord err (a % 16)
  | _ => s.phys.get a

/-- Words at an address as they are delivered (R413). -/
def State.seen (s : State) (pa n : Nat) : List W16 :=
  if regionOf s.part pa = .hbm then (List.range n).map (fun i => wordAsRead s (pa + i)) else s.phys.read pa n

/-- Saturating increment of an event counter (R417). -/
def satInc (v : W16) : W16 := if v = 0xFFFF#16 then v else v + 1#16

/-- Changes HC_EC of a pseudo-channel. -/
def modEc (s : State) (p : Fin 16) (f : HcEc → HcEc) : State :=
  { s with hbm := { s.hbm with ec := s.hbm.ec.set p (f s.hbm.ec[p]) } }

/-- A corrected read is counted, and source 46 is raised when CE reaches THR (R413, R417). -/
def countCorrected (s : State) (b : Nat) : State :=
  let p := pcOf b
  let e := s.hbm.ec[p]
  let ce := satInc e.ce
  let hit := s.hbm.thr != 0#16 && decide (s.hbm.thr.toNat ≤ ce.toNat) && !e.raised
  let s1 := modEc s p (fun e => { e with ce := ce, raised := e.raised || hit })
  if hit then raiseAll s1 46 none else s1

/-- Records an error in HC_ELOG while it holds none (R417). -/
def elogPut (s : State) (b : Nat) (ue scr : Bool) : State :=
  if s.hbm.logV then s
  else { s with hbm := { s.hbm with
    logAddr := BitVec.ofNat 36 (16 * b), logPc := BitVec.ofNat 4 (pcOf b).val, logUe := ue, logScr := scr, logV := true } }

/-- An uncorrectable read is counted, logged and reported (R413, R415). -/
def countUncorrectable (s : State) (b : Nat) (ue scr : Bool) : State :=
  reportUncorrectable (elogPut (modEc s (pcOf b) (fun e => { e with ue := satInc e.ue })) b ue scr)

/-- What an armed HC_INJ does to a burst: the bytes that it inverts in word 0, and whether it stores the burst poisoned (R417). -/
def injection (m : BitVec 2) : W16 × Bool :=
  if m = 1#2 then (0xFF00#16, false) else if m = 2#2 then (0xFFFF#16, false) else (0#16, m == 3#2)

/-- Stores burst b, whose words stand in memory, with a new code, clean or poisoned; an armed HC_INJ is applied to it, and what
it inverts is a real error in the burst (R412, R417). -/
def hbmStored (s : State) (b : Nat) (poisoned : Bool) : State :=
  let code := fun (p : Bool) => if p then poisonPattern else 0#32
  if s.hbm.injArm && s.hbm.injAddr.toNat / 16 == b then
    let x := injection s.hbm.injMode
    { s with
      hbm := { s.hbm with injArm := false }
      phys := s.phys.set (16 * b) (s.phys.get (16 * b) ^^^ x.1)
      hbmEcc := s.hbmEcc.set b (code (poisoned || x.2) ^^^ packChecks (rsCheck (burstBytes (x.1 :: List.replicate 15 0#16)))) }
  else { s with hbmEcc := s.hbmEcc.set b (code poisoned) }

/-- The words of a corrected burst are put right in place, as a write-back does (R414, R415). -/
def fixBurst (s : State) (b : Nat) : State :=
  match burstSt s b with
  | .corrected _ => { s with phys := s.phys.write (16 * b) ((List.range 16).map (fun i => wordAsRead s (16 * b + i))) }
  | _ => s

/-- A command goes to the stack for burst b: a parity error makes the controller issue it again once, and a second one is taken
as an uncorrectable read of the burst. Answers how the burst reads, and whether that is the code's finding (R406). -/
def hbmCommand (s : State) (b : Nat) : State × BurstSt × Bool :=
  if s.hbm.parErr = 0#2 then (s, burstSt s b, true)
  else
    let s1 := { s with hbm := { s.hbm with parErr := 0, parc := s.hbm.parc + 1#16 } }
    if s.hbm.parErr = 1#2 then (s1, burstSt s b, true) else (s1, .uncorrectable, false)

/-- A demand read of a burst as it is counted: whether the data are poisoned, and whether the burst is to be rewritten so
(R413). -/
def hbmLook (s : State) (b : Nat) : State × Bool × Bool :=
  match hbmCommand s b with
  | (s, .clean, _) => (s, false, false)
  | (s, .corrected _, _) => (countCorrected s b, false, false)
  | (s, .uncorrectable, ue) => (countUncorrectable s b ue false, true, true)
  | (s, .poisoned, _) => (modEc s (pcOf b) (fun e => { e with pr := satInc e.pr }), true, false)

/-- A demand read of a burst: what it does to the stack and the counters, and whether the data are poisoned; an uncorrectable burst
is rewritten poisoned with its data as read, before any later request (R413). -/
def hbmRead (s : State) (b : Nat) : State × Bool :=
  let (s1, bad, rewrite) := hbmLook s b
  (if rewrite then hbmStored s1 b true else s1, bad)

/-- A write of part of a burst, as one read-modify-write: the new words are merged into the data as read, and poison stays or comes
with the words (R414). Answers whether the read was poisoned. -/
def hbmMerge (s : State) (pa : Nat) (ws : List W16) (poison : Bool := false) : State × Bool :=
  let (s1, bad, _) := hbmLook s (pa / 16)
  let s2 := fixBurst s1 (pa / 16)
  (hbmStored { s2 with phys := s2.phys.write pa ws } (pa / 16) (bad || poison), bad)

/-- A write of a whole burst clears poison, or brings it with poisoned data (R300, R414). Where its command fails twice, the burst
keeps its data, poisoned (R406). -/
def hbmWrite (s : State) (b : Nat) (ws : List W16) (poison : Bool := false) : State :=
  match hbmCommand s b with
  | (s1, .uncorrectable, false) => hbmStored (countUncorrectable s1 b false false) b true
  | (s1, _, _) => hbmStored { s1 with phys := s1.phys.write (16 * b) ws } b poison

/-- A write of words of one burst (R414). -/
def hbmPut (s : State) (pa : Nat) (ws : List W16) (whole : Bool) (poison : Bool := false) : State × Bool :=
  if whole then (hbmWrite s (pa / 16) ws poison, false) else hbmMerge s pa ws poison

/-! ### Vat lines (R213, R214, R220) -/

/-- A unit checks a Vat line that it reads: it counts, and reports an uncorrectable line to the Steward and to the bank, which
marks it poisoned: at once where the bank found it itself, else when the report has come (R214). Answers whether the data cannot
be trusted. -/
def vatCheck (s : State) (u : Nat) (line : Nat) : State × Bool :=
  match (s.vatMark.get line).toNat with
  | 0 => (s, false)
  | 1 => (countCe s u, false)
  | 2 =>
    let s1 := countUe s u
    (reportUncorrectable (if 128 ≤ u then { s1 with vatMark := s1.vatMark.set line 3#2 }
      else { s1 with reports := s1.reports ++ [(BitVec.ofNat 19 line, s1.stamp)] }), true)
  | _ => (s, true)

/-! ### Lines of any unit -/

/-- What a read of words within one line gives: the state after, the words, and the 4-word groups of the line that are
uncorrectable or poisoned (R219, R220). -/
structure LineRead where
  s : State
  ws : List W16
  bad : List Nat

/-- Reads n words at an address, within one line, for a unit. -/
def readWords (s : State) (u : Nat) (pa n : Nat) : LineRead :=
  match regionOf s.part pa with
  | .hbm =>
    let b0 := pa / 16
    let b1 := (pa + n - 1) / 16
    let (s1, bad0) := hbmRead s b0
    let (s2, bad1) := if b1 = b0 then (s1, false) else hbmRead s1 b1
    let groups := fun (b : Nat) (bad : Bool) => if bad then (List.range 4).map (fun i => b % 2 * 4 + i) else []
    ⟨s2, s.seen pa n, groups b0 bad0 ++ groups b1 bad1⟩
  | .vat =>
    let (s1, bad) := vatCheck s u (vatLine pa)
    ⟨s1, s1.phys.read pa n, if bad then List.range 8 else []⟩
  | _ =>
    let ws := s.phys.read pa n
    let bad := (List.range 8).filter (fun g =>
      s.jnlMark.get ((lineOf pa * 32 + 4 * g - jnlBase) / 4) != 0#1 && decide (lineOf pa * 32 + 4 * g < pa + n)
        && decide (pa < lineOf pa * 32 + 4 * g + 4))
    ⟨s, ws, bad⟩

/-- Writes part of a line: the bank or the controller merges it; a line that is uncorrectable or poisoned stays poisoned
(R214, R220, R414). Answers whether it does. -/
def mergeWords (s : State) (pa : Nat) (ws : List W16) : State × Bool :=
  match regionOf s.part pa with
  | .hbm =>
    let n0 := 16 - pa % 16
    if ws.length ≤ n0 then hbmPut s pa ws (ws.length == 16)
    else
      let (s1, b0) := hbmPut s pa (ws.take n0) (n0 == 16)
      let (s2, b1) := hbmPut s1 (pa + n0) (ws.drop n0) (ws.length - n0 == 16)
      (s2, b0 || b1)
  | .vat =>
    let line := vatLine pa
    let m := (s.vatMark.get line).toNat
    let (s1, bad) := vatCheck s (unitBank line) line
    let s2 := if m = 3 then countUe s1 (unitBank line) else s1
    ({ s2 with phys := s2.phys.write pa ws, vatMark := s2.vatMark.set line (if bad then 3#2 else 0#2) }, bad)
  | _ => ({ s with phys := s.phys.write pa ws }, false)

/-- Writes a whole line with a new code and no poison (R219, R220, R414); poisoned data are stored poisoned (R300). -/
def storeLine (s : State) (pa : Nat) (ws : List W16) (poisoned : Bool := false) : State :=
  match regionOf s.part pa with
  | .hbm =>
    hbmWrite (hbmWrite s (pa / 16) (ws.take 16) poisoned) (pa / 16 + 1) (ws.drop 16) poisoned
  | .vat =>
    { s with phys := s.phys.write pa ws, vatMark := s.vatMark.set (vatLine pa) (if poisoned then 3#2 else 0#2) }
  | _ => { s with phys := s.phys.write pa ws }

/-- Writes part of a line with data that a stream could not trust: the line, or each burst that such a word falls in, is stored
poisoned (R300). Each unit is a word and whether it is written whole, and whether it carries poison. -/
def mergeUnits (s : State) (pa : Nat) (us : List (W16 × Bool × Bool)) : State :=
  let put := fun (s : State) (pa : Nat) (us : List (W16 × Bool × Bool)) =>
    if us.isEmpty then s
    else (hbmPut s pa (us.map (·.1)) (us.length == 16 && us.all (·.2.1)) (us.any (·.2.2))).1
  match regionOf s.part pa with
  | .hbm =>
    let n0 := 16 - pa % 16
    put (put s pa (us.take n0)) (pa + n0) (us.drop n0)
  | .vat =>
    if us.length = 32 && us.all (·.2.1) then storeLine s pa (us.map (·.1)) (us.any (·.2.2))
    else
      let s1 := (mergeWords s pa (us.map (·.1))).1
      if us.any (·.2.2) then { s1 with vatMark := s1.vatMark.set (vatLine pa) 3#2 } else s1
  | _ => { s with phys := s.phys.write pa (us.map (·.1)) }

/-! ### Frame tags (R329 to R333) -/

/-- A frame has a storage key (R311). -/
def keyedFrame (p : Part) (f : Nat) : Bool :=
  match regionOf p (f * 4096) with
  | .hbm => true | .vat => true | .jnl => true | _ => false
/-- The key of a frame tag. -/
def tagKey (t : BitVec 8) : BitVec 4 := t.extractLsb' 0 4
/-- The guard mode of a frame tag. -/
def tagGrd (t : BitVec 8) : BitVec 2 := t.extractLsb' 4 2
/-- The use state of a frame tag. -/
def tagUse (t : BitVec 8) : BitVec 2 := t.extractLsb' 6 2
/-- A frame tag from its fields. -/
def mkTag (key : BitVec 4) (grd use : BitVec 2) : BitVec 8 := use ++ grd ++ key

/-- An uncorrectable key-array read is counted and logged (R333). -/
def keyError (s : State) : State := reportUncorrectable (countUe s unitKeys)

/-- The key-array read of a frame cannot be corrected (R333). -/
def keyBad (s : State) (f : Nat) : Bool := s.keyMark.get (f / 8) != 0#1

/-- An access that was performed updates USE of its frame (R330). -/
def touchUse (s : State) (pa : Nat) (write : Bool) : State :=
  let f := pa / 4096
  if !keyedFrame s.part f then s
  else
    let t := s.keys.get f
    let u := if write then 2#2 else if tagUse t = 0#2 then 1#2 else tagUse t
    { s with keys := s.keys.set f (mkTag (tagKey t) (tagGrd t) u) }

/-! ### The walk (R318, R319) -/

/-- What a walk comes to. -/
inductive WalkRes where
  | leaf (e : TlbEntry)
  | trans (lvl : BitVec 2)
  | place (lvl : BitVec 2)
  | mc (lvl : BitVec 2)
  /-- the read of a table's line waits (R17, R246) -/
  | held (ln : Nat)
deriving DecidableEq, Repr

/-- A walk's outcome with the state and the walk cache it leaves. -/
structure WalkOut where
  s : State
  wc : List WalkEntry
  r : WalkRes

/-- One table read: untranslated and unkeyed (R318). -/
def tableRead (s : State) (u : Nat) (frame : BitVec 24) (idx : Nat) : LineRead :=
  readWords s u (frame.toNat * 4096 + 4 * idx) 4

/-- A frame may hold page tables (R311). -/
def tableFrame (p : Part) (f : BitVec 24) : Bool :=
  match regionOf p (f.toNat * 4096) with
  | .hbm => true | .vat => true | _ => false

/-- The leaf of a walk: its checks and the frame's key, read from the key array (R318, R333). -/
def walkLeaf (s : State) (wc : List WalkEntry) (tag : BitVec 12) (vpn : BitVec 28) (e : W64) : WalkOut :=
  let cont := fieldN e 9 4
  let frame : BitVec 24 := e.extractLsb' 16 24
  let mt : BitVec 2 := e.extractLsb' 7 2
  if !e.getLsbD 0 || !e.getLsbD 1 then ⟨s, wc, .trans 3⟩
  else if 9 < cont || regionOf s.part (frame.toNat * 4096) != regionOfMt mt then ⟨s, wc, .trans 3⟩
  else if keyedFrame s.part frame.toNat && keyBad s frame.toNat then
    ⟨keyError s, wc, .mc 3⟩
  else
    let t := s.keys.get frame.toNat
    let ent : TlbEntry :=
      { vpn := vpn, cont := cont, frame := frame, r := e.getLsbD 2, w := e.getLsbD 3, x := e.getLsbD 4, u := e.getLsbD 5
        g := e.getLsbD 6, mt := mt, tag := tag, key := tagKey t, grd := tagGrd t, locked := false, fill := s.stamp }
    ⟨s.stamped, wc, .leaf ent⟩

/-- Place a table entry in the walk cache of 16, the most recently used first (R320). -/
def wcachePut (wc : List WalkEntry) (e : WalkEntry) : List WalkEntry :=
  (e :: wc.filter (fun x => !(x.tag == e.tag && x.lvl == e.lvl && x.idx == e.idx))).take 16

/-- The levels of a walk from level lvl with the table t: one more level for each unit of fuel (R318). -/
def walkFrom (s : State) (u : Nat) (wc : List WalkEntry) (tag : BitVec 12) (vpn : BitVec 28) (t : BitVec 24) :
    (fuel : Nat) → WalkOut
  | 0 =>
    if !tableFrame s.part t then ⟨s, wc, .place 3⟩
    else if s.mustWait u (t.toNat * 4096 + 4 * fieldN vpn 0 10) then
      ⟨s, wc, .held (lineOf (t.toNat * 4096 + 4 * fieldN vpn 0 10))⟩
    else
      let rd := tableRead s u t (fieldN vpn 0 10)
      if rd.bad.isEmpty then walkLeaf rd.s wc tag vpn (quadOf rd.ws) else ⟨rd.s, wc, .mc 3⟩
  | f + 1 =>
    let lvl := 2 - f
    let lv : BitVec 2 := BitVec.ofNat 2 lvl
    let pre := if lvl = 1 then fieldN vpn 20 8 else fieldN vpn 10 18
    match wc.find? (fun x => x.tag == tag && x.lvl == lvl && x.idx == pre) with
    | some x => walkFrom s u (wcachePut wc x) tag vpn x.frame f
    | none =>
      if !tableFrame s.part t then ⟨s, wc, .place lv⟩
      else
        let idx := if lvl = 1 then fieldN vpn 20 8 else fieldN vpn 10 10
        let rd := tableRead s u t idx
        let e := quadOf rd.ws
        if s.mustWait u (t.toNat * 4096 + 4 * idx) then ⟨s, wc, .held (lineOf (t.toNat * 4096 + 4 * idx))⟩
        else if !rd.bad.isEmpty then ⟨rd.s, wc, .mc lv⟩
        else if !e.getLsbD 0 || e.getLsbD 1 then ⟨rd.s, wc, .trans lv⟩
        else
          let fr : BitVec 24 := e.extractLsb' 16 24
          walkFrom rd.s u (wcachePut wc ⟨tag, lvl, pre, fr⟩) tag vpn fr f

/-- The walk of a virtual address under a context (R318). -/
def walk (s : State) (u : Nat) (ctx : Ctx) (wc : List WalkEntry) (va : BitVec 40) : WalkOut :=
  if !ctx.v then ⟨s, wc, .trans 1⟩ else walkFrom s u wc ctx.tag (vpnOf va) ctx.root 2

end Sys2Proof.Machine
end

