-- ==== Sys2Proof/Machine/JournalOps.lean ====
section
/-!
DEFINITION. What the journal shows and does for the rest of the device (09_journal_durability.md): stops, held entries,
appends, reading an entry back, acknowledgement levels (R263), and replication coming into and out of effect (R264, R265).
-/
namespace Sys2Proof.Machine

/-! ### Status (R256, R259, R262) -/

/-- Postings are stopped (R262). -/
def Journal.stop (j : Journal) : Bool := !j.pen || j.pf || j.frz || j.jerr
/-- Fallback (R262). -/
def Journal.fb (j : Journal) : Bool := j.rpe && !j.rep
/-- The sequence number of the last entry appended, or 0. -/
def Journal.last (j : Journal) : Nat := (j.next - 1#64).toNat
/-- The count B of R256. -/
def Journal.safe (j : Journal) : Nat := if j.rep then min j.hbm.toNat j.repl.toNat else j.hbm.toNat
/-- HELD (R256). -/
def Journal.held (j : Journal) : Nat := min 65536 (j.last - j.safe)

/-- The HBM journal region is well configured (R259). -/
def jnlRegionOk (s : State) : Bool :=
  let j := s.jnl
  let n := 16 * 2 ^ j.logh.toNat
  decide (12 ≤ j.logh.toNat) && decide (j.logh.toNat ≤ 26) && decide (j.hbase.toNat % n = 0)
    && decide (j.hbase.toNat + n ≤ hbmWords s.part)
/-- CFGE (R259). -/
def jnlCfge (s : State) : Bool := !jnlRegionOk s && decide (s.jnl.hbm.toNat < s.jnl.last)
/-- The entry after those copied to HBM waits for JNL_DUR: HFUL (R259, R262). -/
def jnlHful (s : State) : Bool :=
  jnlRegionOk s && decide (s.jnl.hbm.toNat < s.jnl.last)
    && decide (s.jnl.dur.toNat + 2 ^ s.jnl.logh.toNat < s.jnl.hbm.toNat + 1)
/-- The host ring is configured (R262). -/
def Journal.drainOk (j : Journal) : Bool := decide (8 ≤ j.logq.toNat) && decide (j.logq.toNat ≤ 24)
/-- QFUL (R260, R262). -/
def jnlQful (s : State) : Bool :=
  let j := s.jnl
  j.hde && j.drainOk && jnlRegionOk s && decide (j.host.toNat < j.hbm.toNat)
    && decide (j.dur.toNat + 2 ^ j.logq.toNat < j.host.toNat + 1)

/-- A posting holds its lo line. -/
def Posting.locked (p : Posting) : Bool :=
  match p.phase with
  | .issued => false
  | .released => false
  | _ => true
/-- A posting that locked lo has completed and its result is not yet delivered to its core. -/
def LongOp.postDone (o : LongOp) : Bool :=
  match o.op, o.res with
  | .post _, some (.l v _) => fieldN v 0 4 != 7
  | _, _ => false
/-- INFL (R262). -/
def jnlInfl (s : State) : Bool :=
  s.posts.any Posting.locked || s.cores.toList.any (fun k => k.longs.any LongOp.postDone)

/-- JNL_STAT (R262). -/
def jnlStat (s : State) : W64 :=
  let j := s.jnl
  bit64 j.stop 0 ||| bit64 j.rep 1 ||| bit64 j.fb 2 ||| bit64 j.pf 3 ||| bit64 j.frz 4 ||| bit64 j.jerr 5
    ||| bit64 (jnlHful s) 6 ||| bit64 (jnlQful s) 7 ||| bit64 (jnlCfge s) 8 ||| bit64 (jnlInfl s) 9 ||| at64 j.held 16

/-! ### Entries (R251, R255, R272) -/

/-- The own-tail slot of a sequence number. -/
def tailSlot (q : Nat) : Nat := jnlBase + q % 65536 * 16
/-- The mirror slot of a sequence number. -/
def mirrorSlot (q : Nat) : Nat := jnlBase + 0x100000 + q % 65536 * 16
/-- The HBM-region slot of a sequence number (R259). -/
def regionSlot (j : Journal) (q : Nat) : Nat := j.hbase.toNat + q % 2 ^ j.logh.toNat * 16

/-- JNL_STAT.JERR is set at an entry: postings stop, the Steward takes it as a fatal fault, and the cores are told
(R272, R353, R362, R374). -/
def journalError (s : State) (q : Nat) : State :=
  if s.jnl.jerr then s
  else
    let s1 := { s with jnl := { s.jnl with jerr := true, jerrSeq := BitVec.ofNat 64 q } }
    detectFatal (raiseAll s1 42 (some (stwMsg 0x08 0))) .jerr

/-- Replication and copying have halted at or before this entry (R272). -/
def Journal.halted (j : Journal) (q : Nat) : Bool := j.jerr && decide (j.jerrSeq.toNat ≤ q)

/-- Writes an entry into a slot of the journal SRAM, with new check bits. -/
def putSlot (s : State) (pa : Nat) (ws : List W16) : State :=
  { s with phys := s.phys.write pa ws
           jnlMark := (List.range 4).foldl (fun m i => m.set ((pa - jnlBase) / 4 + i) 0#1) s.jnlMark }

/-- The own tail still holds an entry. -/
def Journal.inTail (j : Journal) (q : Nat) : Bool := decide (j.last < q + 65536)

/-- Reads an entry for a sheet or a copy: from the own tail while its slot still holds it, else from the HBM region, where its
burst can be read now. An uncorrectable word sets JERR (R17, R265, R272, R413, R421). -/
def readEntry (s : State) (q : Nat) : State × Option (List W16) :=
  let j := s.jnl
  if q = 0 ∨ j.last < q ∨ j.halted q then (s, none)
  else if j.inTail q then
    let pa := tailSlot q
    if (List.range 4).any (fun i => s.jnlMark.get ((pa - jnlBase) / 4 + i) != 0#1) then (journalError s q, none)
    else (s, some (s.phys.read pa 16))
  else if !jnlRegionOk s || decide (j.hbm.toNat < q) || decide (2 ^ j.logh.toNat ≤ j.hbm.toNat - q) then (s, none)
  else if s.mustWait srcJournal (regionSlot j q) then (s.await srcJournal .resend (lineOf (regionSlot j q)), none)
  else
    let (s1, bad) := hbmRead s (regionSlot j q / 16)
    if bad then (journalError s1 q, none) else (s1.gotTask srcJournal .resend, some (s.seen (regionSlot j q) 16))

/-- Appends an entry and takes the next sequence number (R254). -/
def appendEntry (s : State) (body : List W16) : State × W64 :=
  let j := s.jnl
  let q := j.next
  let s1 := putSlot s (tailSlot q.toNat) (wordsOf q ++ body)
  ({ s1 with jnl := { j with
      next := q + 1#64, appended := (s.now :: j.appended).take 3 } }, q)

/-! ### Levels and replication (R263 to R265) -/

/-- The condition of an acknowledgement level for a sequence number; level 3 acts as 2 (R263, R459). -/
def levelMet (j : Journal) (ack : BitVec 2) (q : W64) : Bool :=
  q == 0#64 ||
    (match ack.toNat with
     | 0 => decide (q.toNat ≤ j.last)
     | 1 => if j.rep then decide (q.toNat ≤ j.repl.toNat) else decide (q.toNat ≤ j.dur.toNat)
     | _ => decide (q.toNat ≤ j.dur.toNat))

/-- Port A is joined and the successor has accepted this device (R264, R449). -/
def linkReplicates (s : State) : Bool :=
  s.ring.acc && s.ring.pa.up && s.ring.st == .joined && !s.ring.byp

/-- Sending begins again from an entry (R264, R265, R439). -/
def Journal.sendFrom (j : Journal) (q : W64) (now : Nat) : Journal :=
  { j with sendPos := q, restart := now, replSince := now }

/-- Brings JNL_STAT.REP in line with RPE and the link: the events of a fallback and of its end, JNL_REPL := JNL_DUR at
each rise and while FB is 1, and sending from there; a fallback is logged (R264, R265, R491). -/
def updateRep (s : State) : State :=
  let j := s.jnl
  let rep := j.rpe && linkReplicates s
  let fell := j.rep && !rep && j.rpe
  let rose := rep && !j.rep
  let j1 := { j with
    rep := rep
    repl := if rose || (j.rpe && !rep) then j.dur else j.repl
    fbSig := if fell then true else if rose then false else j.fbSig }
  let s1 := { s with jnl := if rose then j1.sendFrom (j.dur + 1#64) s.now else j1 }
  if fell then raiseAll (hostEvent (logEvent s1 .fallback noSource) evFbon) 42 (some (stwMsg 0x03 0))
  else if rose && j.fbSig then raiseAll (hostEvent s1 evFboff) 42 (some (stwMsg 0x04 0))
  else s1

/-- JNL_DUR takes a value written: bounded, never lower (R261); JNL_REPL follows while FB is 1 (R265). -/
def writeDur (s : State) (v : W64) : State :=
  let j := s.jnl
  let b := if j.hde then j.host else j.hbm
  let m := if v.toNat < b.toNat then v else b
  let d := if j.dur.toNat < m.toNat then m else j.dur
  { s with jnl := { j with dur := d, repl := if j.fb then d else j.repl } }

/-- JNL_NEXT takes a value written (R262). -/
def writeNext (s : State) (v : W64) : State :=
  let j := s.jnl
  if j.pen || jnlInfl s || j.held != 0 then s
  else
    let n := if v = 0#64 then 1#64 else v
    let p := n - 1#64
    { s with jnl := { (j.sendFrom n s.now) with next := n, repl := p, hbm := p, host := p, dur := p, appended := [] } }

/-- The mirror slot of an entry is free: empty, or freed by the source's JNL_DUR (R258). -/
def Journal.slotFree (j : Journal) (q : Nat) : Bool := j.mslots.get (q % 65536) == 0#64
/-- The source's JNL_DUR frees the slots of the entries up to it (R258, R440). -/
def Journal.freeTo (j : Journal) (d : W64) : Journal :=
  { j with mslots := j.mslots.filter (fun e => decide (d.toNat < e.2.toNat)) }
/-- JNL_MLO (R262). -/
def Journal.mlo (j : Journal) : W64 :=
  j.mslots.foldl (fun acc e => if acc = 0#64 ∨ e.2.toNat < acc.toNat then e.2 else acc) 0#64

end Sys2Proof.Machine
end

