-- ==== Sys2Proof/Machine/CamOps.lean ====
section
/-! DEFINITION. Completions that cores write to queue pairs, and the device region (R461, R462, R467, R468). -/
namespace Sys2Proof.Machine

/-- Changes a queue pair. -/
def State.modQp (s : State) (n : QpId) (f : QueuePair → QueuePair) : State := s.setQp n (f (s.qp n))

/-- Work of a queue pair that an engine has not started is taken back (R460, R468). -/
def Engine.dropWork (x : Engine) (n : QpId) : Engine := { x with work := x.work.filter (fun w => w.qp != n) }

/-- The next descriptor boundary: register changes that waited take effect (R284). -/
def Engine.boundary (x : Engine) : Engine :=
  { x with
    cur := none, abort := false
    rbase := x.rbaseNew.getD x.rbase, rcfg := x.rcfgNew.getD x.rcfg, xctx := x.xctxNew.getD x.xctx
    rbaseNew := none, rcfgNew := none, xctxNew := none
    ahead := if x.rbaseNew.isSome || x.rcfgNew.isSome then [] else x.ahead }

/-- A slot of a window is free again. -/
def State.freeSlot (s : State) (c : CoreId) (w : WinId) (i : BitVec 4) : State :=
  if i = 0xF#4 then s
  else s.modCore c (fun k => { k with win := k.win.set w { k.win[w] with inUse := k.win[w].inUse.filter (fun j => j != i) } })

/-- A descriptor of a queue pair that stops delivers nothing more: it ends where it stands, with or without its slot, and so does
one whose record waits; the slot is free (R468; DEDUCED, notes/assumptions/196.md). One that is already decided to fail ends by
itself, for its completion, and delivers no record. -/
def dropRunning (s : State) (n : QpId) (e : EngId) : State :=
  match (s.eng e).cur with
  | some r =>
    match r.cam with
    | some w =>
      if w.qp = n ∧ (r.ended.isNone || r.record.isSome) then
        (s.setEng e (s.eng e).boundary).freeSlot w.core (s.qp n).act.win r.slot
      else s
    | none => s
  | none => s

/-- A queue pair stops, for the first reason that stops it: it fetches nothing and delivers nothing more (R468, R470). -/
def stopQp (s : State) (n : QpId) (why : BitVec 4) : State :=
  if (s.qp n).stop then s
  else
    let s1 := { s with engines := s.engines.map (fun (x : Engine) => x.dropWork n) }
    let s2 := (List.finRange 16).foldl (fun s e => dropRunning s n e) s1
    hostEvent (s2.modQp n (fun x => { x with stop := true, why := why, fetched := none })) evQstp

/-- A completion is dropped and sets CQ_STAT.OVF (R461, R462). -/
def dropCmpl (s : State) (n : QpId) : State := hostEvent (s.modQp n (fun x => { x with ovf := true })) evCovf

/-- The full sequence number of a completion: the largest at or below the last one appended with these low 48 bits
(R461). -/
def fullSeq (j : Journal) (low : BitVec 48) : Option W64 :=
  let last := j.last
  let cand := last / 2 ^ 48 * 2 ^ 48 + low.toNat
  if cand ≤ last then some (BitVec.ofNat 64 cand)
  else if 2 ^ 48 ≤ cand then some (BitVec.ofNat 64 (cand - 2 ^ 48))
  else none

/-- A core writes CQ_CMPL of a queue pair (R461, R462, R464). -/
def cqCmplWrite (s : State) (n : QpId) (v : W64) : State :=
  let x := s.qp n
  let rc : BitVec 4 := v.extractLsb' 0 4
  let sqi : BitVec 12 := v.extractLsb' 52 12
  let q := if rc = 0#4 then fullSeq s.jnl (v.extractLsb' 4 48) else some 0#64
  if !x.en then (if x.flr then s else dropCmpl s n)
  else
    let mine := fun (u : Sub) => u.sqi == sqi && u.delivered
    match q, x.subs.any mine with
    | some sq, true =>
      s.setQp n { x with subs := x.subs.eraseP mine, staged := x.staged ++ [⟨sq, sqi, rc, 0, false⟩] }
    | _, _ => dropCmpl s n

/-- CQ_DBV (R459). -/
def QueuePair.dbv (x : QueuePair) : W64 := at64 x.sqt.toNat 0 ||| at64 x.cqh.toNat 16

/-- The queue pair of an address of the device region, with the offset in its page. -/
def devQp (off : Nat) : Option QpId := if h : off / 4096 < 256 then some ⟨off / 4096, h⟩ else none
/-- The core of an address of the mailbox pages of the device region. -/
def devMbx (off : Nat) : Option CoreId :=
  if h : 0x100000 ≤ off ∧ (off - 0x100000) / 4096 < 64 then some ⟨(off - 0x100000) / 4096, h.2⟩ else none

/-- A quad read of the device region (R467). -/
def devRegionRead (s : State) (pa : Nat) : W64 :=
  let off := pa - devBase
  match devQp off with
  | some n => if off % 4096 = 0 then (s.qp n).dbv else 0#64
  | none => 0#64

/-- A core's quad write to the device region (R467). -/
def devRegionWrite (s : State) (c : CoreId) (pa : Nat) (v : W64) : State :=
  let off := pa - devBase
  match devQp off, devMbx off with
  | some n, _ => if off % 4096 = 4 then cqCmplWrite s n v else s
  | none, some k =>
    if off % 4096 ≠ 0 then s
    else portCommand s false (some (coreQuire k)) (fun s => mailboxPut s k (BitVec.ofNat 8 c.val) (v.setWidth 56))
  | none, none => s

end Sys2Proof.Machine
end

