-- ==== Sys2Proof/Machine/Pipe.lean ====
section
/-!
DEFINITION. How a core issues an instruction: the boundary before it (R359, R364), the fetch of its words (R33, R41, R98,
R323, R324) and what they spell (R100 to R102), its own effect, and what its completion does: results in flight (R69), the delay slot (R113), the loop end
(R117), or the exception or machine check that it raises (R344, R345, R367).
-/
namespace Sys2Proof.Machine

/-! ### Fetch -/

/-- What the fetch of one word gives. -/
inductive FetchRes where
  | ok (w : W16) (k : Core)
  | walk (va : BitVec 40)
  | line
  | exc (cause : BitVec 8)
  | bad
deriving DecidableEq, Repr

/-- A cached line becomes the most recently used. -/
def icTouch (l : List ICLine) (e : ICLine) : List ICLine := e :: l.erase e

/-- The set of the instruction cache for an I-space address (R98). -/
def icSet (a : BitVec 32) : Nat := a.toNat / 32 % 192

/-- The look-up and the checks of a fetch: X, U, the read rule, and normal memory (R33, R324). -/
def fetchWant : Want := { r := false, w := false, x := true, keyed := true, mts := [0#2] }

/-- A word that the core fetched before an invalidation and that executes as fetched (R73, R335). -/
def Core.aheadAt (k : Core) (a : BitVec 32) : Option W16 := (k.ahead.find? (fun f => f.addr == a)).map (·.w)

/-- Fetches the word at an I-space address, past the words that were fetched before an invalidation. -/
def fetchFresh (k : Core) (a : BitVec 32) : FetchRes :=
  if a.toNat < 0x2000 then
    if !k.sys.mode && decide (min k.sys.tib.toNat 0x2000 ≤ a.toNat) then .exc 0x04
    else if k.iramBad.get (a.toNat / 4) != 0#1 then .bad
    else .ok (k.iram.get a.toNat) k
  else
    let va : BitVec 40 := a.setWidth 40
    match translate k.itlb k.cxt.tag k.sys.mode k.sys.krr va fetchWant with
    | .miss => .walk va
    | .prot => .exc 0x0C
    | .key => .exc 0x0E
    | .mt => .exc 0x10
    | .ok pa e =>
      match k.icache.find? (fun x => x.set == icSet a && x.line == pa / 32) with
      | none => .line
      | some ln =>
        if ln.bad.contains (pa % 32 / 4) then .bad
        else .ok (ln.ws.getD (pa % 32) 0) { k with itlb := tlbTouch k.itlb e, icache := icTouch k.icache ln }

/-- Fetches the word at an I-space address. -/
def fetchWord (k : Core) (a : BitVec 32) : FetchRes :=
  match k.aheadAt a with
  | some w => .ok w k
  | none => fetchFresh k a

/-- What the fetch of several words gives: all of them, or the first that fails and why. -/
inductive FetchRun where
  | ok (ws : List W16) (k : Core)
  | stop (a : BitVec 32) (r : FetchRes)
deriving DecidableEq, Repr

/-- Fetches n words from an I-space address up; past the end it wraps (R33). -/
def fetchRun (k : Core) (a : BitVec 32) : Nat → FetchRun
  | 0 => .ok [] k
  | n + 1 =>
    match fetchWord k a with
    | .ok w k1 =>
      match fetchRun k1 (a + 1#32) n with
      | .ok ws k2 => .ok (w :: ws) k2
      | .stop b r => .stop b r
    | r => .stop a r

/-- Fetches the instruction at an I-space address: word 0, then the words that its major opcode adds (R101). -/
def fetchInstr (g : Image) (k : Core) (a : BitVec 32) : FetchRun :=
  match fetchWord k a with
  | .ok w k1 =>
    match fetchRun k1 (a + 1#32) (majorLen g w - 1) with
    | .ok ws k2 => .ok (w :: ws) k2
    | .stop b r => .stop b r
  | r => .stop a r

/-- Up to n words from an address up that the core can fetch now: those that stand in F1, F2 and D (R73, R335). -/
def fetchedAhead (k : Core) (a : BitVec 32) : Nat → List Prefetched
  | 0 => []
  | n + 1 =>
    match fetchWord k a with
    | .ok w k1 => ⟨a, w⟩ :: fetchedAhead k1 (a + 1#32) n
    | _ => []

/-- The words from an address up that have been fetched before something new is to be seen: those that an earlier event left
fetched, and as many more as a free value says (R35, R73, R335). -/
def Core.aheadFrom (k : Core) (a : BitVec 32) (free : W64) : List Prefetched :=
  fetchedAhead k a (max (k.ahead.dropWhile (fun f => f.addr != a)).length (free.toNat % 4))

/-- The device with nothing that makes a table read wait: no locked line, no request but this, the HBM controller serving. -/
def State.unheld (s : State) : State :=
  { s with
    locks := [], reports := [], posts := [], waits := [], host := { s.host with reads := [] }
    cores := s.cores.map (fun (k : Core) => { k with longs := [], pushq := [], sbuf := [] })
    pwr := { s.pwr with st := .run }, pins := { s.pins with phase := .running }
    hbm := { s.hbm with rdy := true, sr := false, cal := false } }

/-- Reads a word of I-space without the checks of a fetch, as far as it can be translated; a table read that would only
wait is made as if nothing held it. -/
def peekWord (s : State) (c : CoreId) (k : Core) (a : BitVec 32) : Option W16 :=
  match k.aheadAt a with
  | some w => some w
  | none =>
    if a.toNat < 0x2000 then some (k.iram.get a.toNat)
    else
      let va : BitVec 40 := a.setWidth 40
      let e? := match tlbFind k.itlb k.cxt.tag (vpnOf va) with
        | some e => some e
        | none =>
          match (walk s.unheld (unitCore c) k.cxt k.wcache va).r with
          | .leaf e => some e
          | _ => none
      e?.map (fun e =>
        let pa := e.pa va
        match k.icache.find? (fun x => x.set == icSet a && x.line == pa / 32) with
        | some ln => ln.ws.getD (pa % 32) 0
        | none => (s.seen pa 1).headD 0)

/-- The length of the instruction at an address (R101). Where its word 0 cannot be translated, the length is a free value:
notes/assumptions/27.md says when that can matter. -/
def slotLen (s : State) (c : CoreId) (k : Core) (a : BitVec 32) : Nat :=
  match peekWord s c k a with
  | some w => majorLen (s.quire (coreQuire c)).image w
  | none => 1 + s.free.toNat % 3

/-! ### What the fetched words spell (R100 to R102) -/

/-- The instruction that fetched words spell. -/
def decodeWords (c : CoreId) (ws : List W16) : Option Instr := decodeInstr c (ws.getD 0 0) (ws.getD 1 0) (ws.getD 2 0)

/-- A G register as this instruction reads it (R69). -/
def Core.gr (k : Core) (r : GReg) : W64 := k.g[r]

/-- The port of an IN or OUT (R119). -/
def portOf (k : Core) : PortForm → BitVec 24
  | .imm p => p
  | .reg a => (k.gr a).setWidth 24
/-- Whether the port is immediate or in a register. -/
def formOf : PortForm → IoForm
  | .imm _ => .imm
  | .reg _ => .reg

/-- The words spell an OUT of register r, in form f, to port p. -/
def spellsOut (c : CoreId) (k : Core) (ws : List W16) (f : IoForm) (p : BitVec 24) (r : GReg) : Bool :=
  match decodeWords c ws with
  | some (.outp _ q r') => r' == r && portOf k q == p && formOf q == f
  | _ => false
/-- The words spell an IN from port p to register r, in form f. -/
def spellsIn (c : CoreId) (k : Core) (ws : List W16) (f : IoForm) (p : BitVec 24) (r : GReg) : Bool :=
  match decodeWords c ws with
  | some (.inp _ q r') => r' == r && portOf k q == p && formOf q == f
  | _ => false

/-- A command is the instruction that the fetched words spell. The rows of IN and OUT whose port the row fixes are the IN or
OUT of that port; a customer instruction is its own words (R119, R377). -/
def spells (c : CoreId) (k : Core) (ws : List W16) : Instr → Bool
  | .outRsp _ f r => spellsOut c k ws f 0x000002 r
  | .outRsd _ f r => spellsOut c k ws f 0x000003 r
  | .outBpctl _ f r => spellsOut c k ws f 0x000024 r
  | .icinv _ f r => spellsOut c k ws f 0x000060 r
  | .iclaim _ f d => spellsIn c k ws f 0x000202 d
  | .mbxData _ f d => spellsIn c k ws f 0x000220 d
  | .customerInstruction _ w0 w1 w2 => ws == [w0, w1, w2].take ws.length
  | i => decodeWords c ws == some i

/-! ### What an instruction does -/

/-- How the pc goes on from an instruction that completes. -/
inductive Next where
  /-- to the instruction after it, to the target of the branch whose slot it is, or around a loop -/
  | seq
  /-- to an address that the instruction sets itself (R117) -/
  | jump (a : BitVec 32)
  /-- to the delay slot of a branch (R113) -/
  | slot (b : Branch)
  /-- past an annulled delay slot (R87) -/
  | annul (a : BitVec 32)
  /-- to an instruction that executes as a delay slot (R352) -/
  | slotAt (a : BitVec 32) (b : Branch)
deriving DecidableEq, Repr

/-- What the own effect of an instruction comes to. -/
inductive Res where
  /-- it completes: the device, the core with what it writes at once, its results by distance, and the pc -/
  | done (s : State) (k : Core) (own : List Flight) (nx : Next)
  /-- it waits (R78, R99); a walk may be what it waits for -/
  | wait (need : Option (WalkKind × BitVec 40))
  /-- it is stalled on a long op, or is an LWAIT or VFENCE that waits (R75, R79, R513) -/
  | hold
  /-- a precise exception (R343) -/
  | exc (cause : BitVec 8) (xad : BitVec 40) (lvl : BitVec 2)
  /-- a precise exception after a part of the effect that stands (R63, R385) -/
  | excAfter (s : State) (k : Core) (cause : BitVec 8) (xad : BitVec 40) (lvl : BitVec 2)
  /-- a synchronous machine check (R365) -/
  | mcheck (cause : MCause) (lvl : BitVec 2)
  /-- the core as the effect leaves it, with no completion: an entry that its rule defines (R182), or a wait of its own
  kind (R359) -/
  | left (s : State) (k : Core)
  /-- the core is changed already in a way that stands, whatever the instruction comes to (R84, R177) -/
  | from (k : Core) (r : Res)

/-- What an effect comes to, and the core that it starts from, with what stands already taken in. -/
def Res.bare : Res → Res
  | .from _ r => r.bare
  | r => r
def Res.origin (k : Core) : Res → Core
  | .from k1 r => r.origin k1
  | _ => k

/-- Illegal instruction at an address (R102, R343). -/
def Res.illegal (a : BitVec 32) : Res := .exc 0x01 (a.setWidth 40) 0
/-- Privileged operation (R31, R343). -/
def Res.privileged (xad : BitVec 40) : Res := .exc 0x02 xad 0

/-- The loop end of an instruction at address p, or the step past it (R117). -/
def Core.stepPast (k : Core) (p : BitVec 32) (len : Nat) : Core :=
  let after := p + BitVec.ofNat 32 len
  if p == k.loop.le && k.loop.lc != 0#32 then
    let lc := k.loop.lcNew.getD k.loop.lc
    let ls := k.loop.lsNew.getD k.loop.ls
    let le := k.loop.leNew.getD k.loop.le
    if lc = 0#32 then { k with pc := after, loop := ⟨lc, ls, le, none, none, none⟩ }
    else
      { k with
        pc := if lc - 1#32 = 0#32 then after else ls
        loop := ⟨lc - 1#32, ls, le, none, none, none⟩ }
  else { k with pc := after }

/-- The words fetched ahead of the pc and no others. -/
def Core.keepAhead (k : Core) : Core := { k with ahead := k.ahead.dropWhile (fun f => f.addr != k.pc) }

/-- The pc goes on from an instruction of len words at the pc (R113, R117). -/
def Core.goOn (k : Core) (len : Nat) (nx : Next) : Core :=
  let p := k.pc
  match nx with
  | .jump a => { k with pc := a, branch := none }
  | .slot b => { k with pc := p + BitVec.ofNat 32 len, branch := some b }
  | .annul a => { k.retire [] with pc := a }
  | .slotAt a b => { k with pc := a, branch := some b }
  | .seq =>
    match k.branch with
    | some b => { k with pc := b.target, branch := none }
    | none => k.stepPast p len

/-- The words fetched behind an instruction of len words that makes later fetches see something new: how many of them stand
in F1, F2 and D is open (R73, R335). -/
def Core.lookAhead (k : Core) (len : Nat) (free : W64) : Core :=
  { k with ahead := k.aheadFrom (k.goOn len .seq).pc free }

/-- An instruction completes (R69, R113, R117). An OUT at LE that raises LC from 0 has written LC when the loop end is tested
(DESIGN CHOICE, notes/assumptions/163.md). -/
def Core.finish (k : Core) (len : Nat) (own : List Flight) (nx : Next) : Core :=
  ({ k.retire own with icount := k.icount + 1, ctl := k.ctl.proceed }.goOn len nx).keepAhead

/-- The core waits at its next instruction, for a long op or for something else (R75, R513). -/
def Core.stall (k : Core) (now : Nat) (need : Option (WalkKind × BitVec 40)) (op : Bool) : Core :=
  { k with ctl := { k.ctl with
      stallSince := some (if k.ctl.opStall == op then k.ctl.stallSince.getD now else now), opStall := op, need := need } }

/-- No event of R364, and no quiesce, is taken before the core's next act: none is due, or none can be taken, since the core
stands between a branch and its slot, waits in FBAR, or is inside a customer instruction (R359, R386, R400). -/
def State.atBoundary (s : State) (c : CoreId) : Bool :=
  let k := s.core c
  k.branch.isSome || k.ctl.fbWait || k.micro.isSome ||
    (k.ctl.asyncMc.isEmpty && k.ovf.isNone && k.fpDue.isEmpty && !(s.quire (coreQuire c)).quiesced)

/-- The core can issue its next instruction. -/
def State.canIssue (s : State) (c : CoreId) : Bool := s.runs c && s.atBoundary c && (s.core c).micro.isNone

/-- What an instruction's effect does to the device. -/
def settleRes (s : State) (c : CoreId) (k : Core) (len : Nat) : Res → State
  | .from k1 r => settleRes s c k1 len r
  | .done s1 k1 own nx => s1.setCore c (k1.finish len own nx)
  | .wait need => s.setCore c (k.stall s.now need false)
  | .hold => s.setCore c (k.stall s.now none true)
  | .exc cause xad lvl => s.setCore c (k.enterPrecise cause xad lvl)
  | .excAfter s1 k1 cause xad lvl => s1.setCore c (k1.enterPrecise cause xad lvl)
  | .mcheck cause lvl => machineCheckAt (s.setCore c k) c cause lvl true
  | .left s1 k1 => s1.setCore c k1

/-- What a failed fetch comes to (R343, R365). -/
def fetchStop (a : BitVec 32) : FetchRes → Res
  | .walk va => .wait (some (.fetch, va))
  | .exc cause => .exc cause (a.setWidth 40) 0
  | .bad => .mcheck .instr 0
  | _ => .wait none

/-- How an instruction stands towards delay slots and modes: illegal in a slot (R88, R114), privileged (R31). -/
structure IKind where
  noSlot : Bool
  priv : Bool
deriving DecidableEq, Repr

/-- A plain instruction. -/
def plain : IKind := ⟨false, false⟩
/-- An instruction that is illegal in a delay slot. -/
def ctlKind : IKind := ⟨true, false⟩
/-- A privileged instruction. -/
def privKind : IKind := ⟨false, true⟩

/-- The checks of R344 before an instruction's own effect: illegal instruction in a slot, then privilege. -/
def checked (kind : IKind) (body : State → Core → Res) (s : State) (k : Core) : Res :=
  if kind.noSlot && k.branch.isSome then .illegal k.pc
  else if kind.priv && !k.sys.mode then .privileged 0
  else body s k

/-- The dispatch entry of an instruction's major opcode, which the core reads in D, has wrong parity: the core stops for a reload
(R369, R377, R392). -/
def dispatched (g : Image) (ws : List W16) (body : State → Core → Res) (s : State) (k : Core) : Res :=
  if g.parityOk 1 ((ws.getD 0 0).extractLsb' 8 8).toNat then body s k else .left s k.awaitReload

/-- Core c issues the instruction at its pc, which the command names: fetch causes first, then the dispatch entry, the checks and
the own effect (R344). A core that cannot issue is left as it is, and so is one whose fetched words spell another
instruction. -/
def issue (s : State) (c : CoreId) (i : Instr) (kind : IKind) (body : State → Core → Res) : Out :=
  if s.canIssue c then
    let k0 := s.core c
    let g := (s.quire (coreQuire c)).image
    match fetchInstr g k0 k0.pc with
    | .stop a r => .next (settleRes s c k0 0 (fetchStop a r))
    | .ok ws k => .next (if spells c k ws i then settleRes s c k ws.length (dispatched g ws (checked kind body) s k) else s)
  else .next s

/-- The own effect of an instruction that only changes its core. -/
def simple (f : Core → Core × List Flight) (s : State) (k : Core) : Res :=
  let (k1, own) := f k
  .done s k1 own .seq

end Sys2Proof.Machine
end

