-- ==== Sys2Proof/Machine/Flags.lean ====
section
/-! DEFINITION. The flags and results of the binary ALU operations (R104 to R108) and the branch conditions (R103). -/
namespace Sys2Proof.Machine

/-- N and Z of a result, with C and V as given (R106). -/
def Flags.ofResult (f : Flags) (r : W64) (c v : Bool) : Flags := { f with c := c, v := v, n := r.msb, z := r == 0#64 }

/-- x + y + carry: the carry out of bit 63 and signed overflow (R106). -/
def addCarry (x y : W64) (cin : Bool) : W64 × Bool × Bool :=
  let r := x + y + (BitVec.ofBool cin).setWidth 64
  (r, decide (2 ^ 64 ≤ x.toNat + y.toNat + cin.toNat), x.msb == y.msb && r.msb != x.msb)

/-- x − y − (1 − carry): no borrow, and signed overflow (R106). -/
def subBorrow (x y : W64) (cin : Bool) : W64 × Bool × Bool :=
  let r := x - y - (BitVec.ofBool (!cin)).setWidth 64
  (r, decide (y.toNat + (!cin).toNat ≤ x.toNat), x.msb != y.msb && r.msb != x.msb)

/-- ADD (R104, R106). -/
def aluAdd (f : Flags) (x y : W64) : W64 × Flags :=
  let (r, c, v) := addCarry x y false
  (r, f.ofResult r c v)
/-- SUB and CMP. -/
def aluSub (f : Flags) (x y : W64) : W64 × Flags :=
  let (r, c, v) := subBorrow x y true
  (r, f.ofResult r c v)
/-- ADDC: Z chains (R106). -/
def aluAddc (f : Flags) (x y : W64) : W64 × Flags :=
  let (r, c, v) := addCarry x y f.c
  (r, { f.ofResult r c v with z := f.z && r == 0#64 })
/-- SUBC: Z chains (R106). -/
def aluSubc (f : Flags) (x y : W64) : W64 × Flags :=
  let (r, c, v) := subBorrow x y f.c
  (r, { f.ofResult r c v with z := f.z && r == 0#64 })
/-- A logic result: V 0, C unchanged (R106). -/
def aluLogic (f : Flags) (r : W64) : W64 × Flags := (r, f.ofResult r f.c false)

/-- The flags of a shift: C is the last bit out, or unchanged for a count of 0 (R106). -/
def aluShift (f : Flags) (r : W64) (count : Nat) (out : Bool) : W64 × Flags :=
  (r, f.ofResult r (if count = 0 then f.c else out) false)
/-- A shift count: bits [5:0] (R104, R105). -/
def shiftCount (y : W64) : Nat := fieldN y 0 6
/-- SHL. -/
def aluShl (f : Flags) (x : W64) (n : Nat) : W64 × Flags := aluShift f (x <<< n) n (x.getLsbD (64 - n))
/-- SHR. -/
def aluShr (f : Flags) (x : W64) (n : Nat) : W64 × Flags := aluShift f (x >>> n) n (x.getLsbD (n - 1))
/-- SAR. -/
def aluSar (f : Flags) (x : W64) (n : Nat) : W64 × Flags := aluShift f (x.sshiftRight n) n (x.getLsbD (n - 1))
/-- ROL: C is result[0]. -/
def aluRol (f : Flags) (x : W64) (n : Nat) : W64 × Flags :=
  let r := x.rotateLeft n
  aluShift f r n (r.getLsbD 0)

/-- Signed 128-bit product (R107). -/
def mulSigned (x y : W64) : BitVec 128 := BitVec.ofInt 128 (x.toInt * y.toInt)
/-- Unsigned 128-bit product (R107). -/
def mulUnsigned (x y : W64) : BitVec 128 := BitVec.ofNat 128 (x.toNat * y.toNat)

/-- DIV: quotient, remainder, V (R108). -/
def divSigned (x y : W64) : W64 × W64 × Bool :=
  if y = 0#64 then (BitVec.allOnes 64, x, true)
  else if x = 0x8000000000000000#64 ∧ y = BitVec.allOnes 64 then (x, 0#64, true)
  else (BitVec.ofInt 64 (x.toInt.tdiv y.toInt), BitVec.ofInt 64 (x.toInt.tmod y.toInt), false)
/-- DIVU: quotient, remainder, V (R108). -/
def divUnsigned (x y : W64) : W64 × W64 × Bool :=
  if y = 0#64 then (BitVec.allOnes 64, x, true)
  else (BitVec.ofNat 64 (x.toNat / y.toNat), BitVec.ofNat 64 (x.toNat % y.toNat), false)

/-- The conditions of R103. -/
def testCond (c : BitVec 4) (f : Flags) : Bool :=
  match c.toNat with
  | 0x0 => f.z
  | 0x1 => !f.z
  | 0x2 => f.c
  | 0x3 => !f.c
  | 0x4 => f.n
  | 0x5 => !f.n
  | 0x6 => f.v
  | 0x7 => !f.v
  | 0x8 => f.c && !f.z
  | 0x9 => !f.c || f.z
  | 0xA => f.n == f.v
  | 0xB => f.n != f.v
  | 0xC => !f.z && f.n == f.v
  | 0xD => f.z || f.n != f.v
  | 0xE => f.dc
  | _ => !f.dc

end Sys2Proof.Machine
end

