-- ==== Sys2Proof/Machine/Operands.lean ====
section
/-! DEFINITION. The operand forms of the core's instructions (R100, R104, R105, R109) and their D-space accesses. -/
namespace Sys2Proof.Machine

/-- An S-form register as a G register. -/
def sreg (r : SReg) : GReg := ⟨r.val, by omega⟩
/-- G register d + 1 of a pair (R107). -/
def nextReg (d : GReg) : GReg := ⟨(d.val + 1) % 32, by omega⟩
/-- An odd register number names no pair (R102). -/
def oddReg (d : GReg) : Bool := d.val % 2 == 1
/-- Accumulator d + 1 of a pair. -/
def nextAcc (d : AReg) : AReg := ⟨(d.val + 1) % 8, by omega⟩
/-- The L register that the low 3 bits of a destination field number (R59, R77). -/
def lowL (d : Nat) : LRegId := ⟨d % 8, by omega⟩

/-- An accumulator as this instruction reads it. -/
def Core.ac (k : Core) (r : AReg) : Acc := k.a[r]

/-- Destination, operands and length of a two-operand ALU form (R104, R105). -/
def rformDst : RForm → GReg
  | .s d _ => sreg d
  | .w d _ _ => d
def rformX (k : Core) : RForm → W64
  | .s d _ => k.gr (sreg d)
  | .w _ a _ => k.gr a
def rformY (k : Core) : RForm → W64
  | .s _ s => k.gr (sreg s)
  | .w _ _ b => k.gr b
def rformLen : RForm → Nat
  | .s _ _ => 1
  | .w _ _ _ => 2

/-- An ALU instruction with a result: op gives the result and the flags. -/
def aluRR (s : State) (c : CoreId) (i : Instr) (f : RForm) (op : Flags → W64 → W64 → W64 × Flags) : Out :=
  issue s c i plain (simple (fun k =>
    let (r, fl) := op k.fl (rformX k f) (rformY k f)
    ({ k with fl := fl }, wrG (rformDst f) r)))

/-- An ALU instruction with one register and an immediate or count. -/
def aluRI (s : State) (c : CoreId) (i : Instr) (d a : GReg) (op : Flags → W64 → W64 × Flags) : Out :=
  issue s c i plain (simple (fun k =>
    let (r, fl) := op k.fl (k.gr a)
    ({ k with fl := fl }, wrG d r)))

/-- An instruction that only sets flags from two operands. -/
def aluCmp (s : State) (c : CoreId) (i : Instr) (x y : Core → W64) : Out :=
  issue s c i plain (simple (fun k => ({ k with fl := (aluSub k.fl (x k) (y k)).2 }, [])))

/-! ### D-space -/

/-- The effective address of LD and ST, modulo 2^40 (R109). -/
def addrOf (k : Core) : AddrForm → BitVec 40
  | .reg a => (k.gr (sreg a)).setWidth 40
  | .idx a b => (k.gr a + k.gr b).setWidth 40
  | .disp a i => (k.gr a + i.signExtend 64).setWidth 40
/-- The length of LD and ST by their address form (R109). -/
def addrLen : AddrForm → Nat
  | .reg _ => 1
  | .idx _ _ => 2
  | .disp _ _ => 3

/-- Words of a load kind (R109). -/
def ldWords : LdKind → Nat
  | .w => 1 | .ws => 1 | .d => 2 | .ds => 2 | .q => 4
/-- The value of a load (R109). -/
def ldValue (kd : LdKind) (ws : List W16) : W64 :=
  match kd with
  | .ws => ((quadOf ws).setWidth 16).signExtend 64
  | .ds => ((quadOf ws).setWidth 32).signExtend 64
  | _ => quadOf ws
/-- Words of a store kind (R109). -/
def stWords (kd : StKind) (v : W64) : List W16 :=
  match kd with
  | .w => [v.setWidth 16]
  | .d => [v.extractLsb' 16 16, v.setWidth 16]
  | .q => wordsOf v

/-- The checks of a local access in order: placement (R110), then the Tenant bound (R41). -/
def localCheck (k : Core) (ea : BitVec 40) (n : Nat) : Option Res :=
  if !inLocal ea n then some (.exc 0x03 ea 0)
  else (k.outOfBound ea.toNat n).map (fun a => .exc 0x04 a 0)

/-- An effect on local words that have passed their checks. -/
def withLocal (k : Core) (ea : BitVec 40) (n : Nat) (f : Res) : Res := (localCheck k ea n).getD f

/-- Reads local words, then goes on; an uncorrectable word is a machine check (R365). What the read drained and counted stands,
whatever the instruction comes to (R84, R177). -/
def readThen (k : Core) (a n : Nat) (f : List W16 → Core → Res) : Res :=
  match k.readLoc a n with
  | .bad k1 => .from k1 (.mcheck .localData 0)
  | .ok ws k1 => .from k1 (f ws k1)

/-- Reads checked local words, then goes on. -/
def loadThen (k : Core) (ea : BitVec 40) (n : Nat) (f : List W16 → Core → Res) : Res :=
  withLocal k ea n (readThen k ea.toNat n f)

/-- What an access asks by its kind, with the memory types of R218 (R324). -/
def wantRead (mts : List (BitVec 2)) : Want := ⟨true, false, false, true, mts⟩
def wantWrite (mts : List (BitVec 2)) : Want := ⟨false, true, false, true, mts⟩
def wantBoth (mts : List (BitVec 2)) : Want := ⟨true, true, false, true, mts⟩

/-- Translates a D-space access of the core's next instruction, or gives the wait or the exception (R325, R343). -/
def dAccess (k : Core) (va : BitVec 40) (q : Want) (f : Nat → TlbEntry → Core → Res) : Res :=
  match translate k.dtlb k.cxt.tag k.sys.mode k.sys.krr va q with
  | .miss => .wait (some (.data, va))
  | .prot => .exc 0x0D va 0
  | .key => .exc 0x0F va 0
  | .mt => .exc 0x11 va 0
  | .ok pa e => f pa e { k with dtlb := tlbTouch k.dtlb e }

/-- Waits while an L register is busy (R75). -/
def whenL (k : Core) (l : LRegId) (f : Res) : Res := if k.lBusy l then .hold else f

/-- A long op starts with the next age stamp; its request enters the mesh now, unless one that the core issued earlier is still
to enter or to be written before it (R17, R74, R83, R223, R224). -/
def Core.startLong (k : Core) (s : State) (d : LDest) (op : LOp) (res : Option LRes) : Core :=
  let o : LongOp := ⟨d, op, s.stamp, none, res, none⟩
  k.addLong (if k.mayEnter s.part o then { o with entry := some s.entryNow } else o)

/-- Issues a long op. -/
def issueLong (s : State) (k : Core) (d : LDest) (op : LOp) (res : Option LRes) : Res :=
  .done s.stamped (k.startLong s d op res) [] .seq

end Sys2Proof.Machine
end

