-- ==== Sys2Proof/Machine/Translation.lean ====
section
/-!
DEFINITION. TLB invalidation and locking, SKEY, the walk and the instruction-cache fill as events, and the broadcast
invalidation of the wardens (11_translation_storage_keys.md, R309 to R341; R98, R323).
-/
namespace Sys2Proof.Machine

/-! ### Invalidation (R335) -/

/-- An entry that an invalidation of operation op leaves (R335): op 0 is TLBIV, 1 TLBIT, 2 TLBIA, 3 TLBIA.F. -/
def keepEntry (op : BitVec 2) (vpn : BitVec 28) (tag : BitVec 12) (e : TlbEntry) : Bool :=
  match op.toNat with
  | 0 => e.locked || !(e.covers vpn && (e.tag == tag || e.g))
  | 1 => e.locked || !(e.tag == tag && !e.g)
  | 2 => e.locked
  | _ => false

/-- An invalidation of both TLBs of a core, which empties its walk cache. -/
def Core.invalidate (k : Core) (op : BitVec 2) (vpn : BitVec 28) (tag : BitVec 12) : Core :=
  { k with itlb := k.itlb.filter (keepEntry op vpn tag), dtlb := k.dtlb.filter (keepEntry op vpn tag), wcache := [] }

/-- A privileged invalidation instruction; the up to 3 words after it that were fetched execute as fetched. A walk left in progress
installs its fill first: the instruction waits for it (R335, R359). -/
def tlbInval (s : State) (c : CoreId) (i : Instr) (op : BitVec 2) (va : Core → W64) (tag : Core → W64) : Out :=
  issue s c i privKind (fun s k =>
    if k.ctl.walkBg.isSome then .wait none
    else .done s.drawn ((k.lookAhead 2 s.free).invalidate op (vpnOf ((va k).setWidth 40)) ((tag k).setWidth 12)) [] .seq)

/-- TLBIV. -/
def execTlbiv (c : CoreId) (a b : GReg) (s : State) : Out := tlbInval s c (.tlbiv c a b) 0 (fun k => k.gr a) (fun k => k.gr b)
/-- TLBIT. -/
def execTlbit (c : CoreId) (b : GReg) (s : State) : Out := tlbInval s c (.tlbit c b) 1 (fun _ => 0) (fun k => k.gr b)
/-- TLBIA. -/
def execTlbia (c : CoreId) (s : State) : Out := tlbInval s c (.tlbia c) 2 (fun _ => 0) (fun _ => 0)
/-- TLBIA.F. -/
def execTlbiaF (c : CoreId) (s : State) : Out := tlbInval s c (.tlbiaF c) 3 (fun _ => 0) (fun _ => 0)

/-! ### Locking (R336) -/

/-- Locks an entry in a TLB with a number of lockable slots: the TLB after, and the Z flag. -/
def tlbLock (l : List TlbEntry) (e : TlbEntry) (slots : Nat) : List TlbEntry × Bool :=
  if e.locked then (l, true)
  else if slots ≤ (l.filter (fun x => x.locked)).length then (tlbTouch l e, false)
  else ({ e with locked := true } :: l.erase e, true)
/-- Unlocks every entry that covers a page, whatever its tag (R336). -/
def tlbUnlock (l : List TlbEntry) (vpn : BitVec 28) : List TlbEntry :=
  l.map (fun e => if e.covers vpn then { e with locked := false } else e)

/-- Sets Z. -/
def Core.setZ (k : Core) (z : Bool) : Core := { k with fl := { k.fl with z := z } }

/-- TLBLK: no permission, key or memory-type check (R336). -/
def execTlblk (c : CoreId) (a : GReg) (s : State) : Out :=
  issue s c (.tlblk c a) privKind (fun s k =>
    let va : BitVec 40 := (k.gr a).setWidth 40
    if va.toNat < localEnd then .exc 0x03 va 0
    else
      match tlbFind k.dtlb k.cxt.tag (vpnOf va) with
      | none => .wait (some (.data, va))
      | some e => let (l, z) := tlbLock k.dtlb e 8; .done s ({ k with dtlb := l }.setZ z) [] .seq)
/-- TLBLK.I: a fault of its walk gives the I-space address, a placement fault Ga itself (R336). -/
def execTlblkI (c : CoreId) (a : GReg) (s : State) : Out :=
  issue s c (.tlblkI c a) privKind (fun s k =>
    let ia : BitVec 32 := (k.gr a).setWidth 32
    let va : BitVec 40 := ia.setWidth 40
    if ia.toNat < 0x2000 then .exc 0x03 ((k.gr a).setWidth 40) 0
    else
      match tlbFind k.itlb k.cxt.tag (vpnOf va) with
      | none => .wait (some (.lockI, va))
      | some e => let (l, z) := tlbLock k.itlb e 4; .done s ({ k with itlb := l }.setZ z) [] .seq)
/-- TLBUL leaves Z as it was: the rule gives it no value (R336; DESIGN CHOICE, notes/assumptions/204.md). -/
def execTlbul (c : CoreId) (a : GReg) (s : State) : Out :=
  issue s c (.tlbul c a) privKind (simple (fun k => ({ k with dtlb := tlbUnlock k.dtlb (vpnOf ((k.gr a).setWidth 40)) }, [])))
/-- TLBUL.I, and Z as TLBUL leaves it (R336; DESIGN CHOICE, notes/assumptions/204.md). -/
def execTlbulI (c : CoreId) (a : GReg) (s : State) : Out :=
  issue s c (.tlbulI c a) privKind (simple (fun k =>
    ({ k with itlb := tlbUnlock k.itlb (vpnOf (((k.gr a).setWidth 32 : BitVec 32).setWidth 40)) }, [])))

/-! ### SKEY (R331 to R333) -/

/-- The own effect of SKEY. -/
def bodySkey (l : LRegId) (a b : GReg) (s : State) (k : Core) : Res :=
    whenL k l (issueLong s k (.l l) (.skey ((k.gr a).extractLsb' 12 24) (k.gr b)) none)
/-- SKEY. -/
def execSkey (c : CoreId) (l : LRegId) (a b : GReg) (s : State) : Out := issue s c (.skey c l a b) privKind (bodySkey l a b)

/-- The read and the write of SKEY at the key array: the state after, and the value delivered (R331, R333). -/
def skeyAct (s : State) (frame : BitVec 24) (v : W64) : State × W64 :=
  let f := frame.toNat
  if !keyedFrame s.part f then (s, 0x8000000000000000#64)
  else
    let t := s.keys.get f
    let bad := keyBad s f
    let wk := v.getLsbD 8
    let wu := v.getLsbD 9
    let t' := mkTag (if wk then v.extractLsb' 0 4 else tagKey t) (if wk then v.extractLsb' 4 2 else tagGrd t)
      (if wu then v.extractLsb' 6 2 else tagUse t)
    let s1 := { s with keys := s.keys.set f t', keyMark := if wk || wu then s.keyMark.set (f / 8) 0#1 else s.keyMark }
    (if bad then keyError s1 else s1, t.setWidth 64 ||| bit64 bad 62)

/-- Records what a served long op will deliver. -/
def Core.served (k : Core) (d : LDest) (r : LRes) : Core := k.modLong d (fun o => { o with res := some r })

/-- An older SKEY waits at the key array (R17). -/
def olderSkey (s : State) (a : Age) : Bool :=
  (List.finRange 64).any (fun c => (s.core c).longs.any (fun o =>
    match o.op, o.res, o.entry with
    | .skey _ _, none, some e => (e.age (srcCore c) o.stamp).before a
    | _, _, _ => false))

/-- SKEY_SERVE: the key array serves the oldest of the SKEYs that wait (R17, R332). -/
def execSkeyServe (c : CoreId) (l : LRegId) (s : State) : Out :=
  match (s.core c).long? (.l l) with
  | some { op := .skey frame v, res := none, stamp := st, entry := some e, .. } =>
    if !s.spineRuns || olderSkey s (e.age (srcCore c) st) then .next s else
    let (s1, r) := skeyAct s frame v
    .next (s1.modCore c (fun k => k.served (.l l) (.l r false)))
  | _ => .next s

/-! ### Walks (R318 to R322) -/

/-- The core can take an exception or a machine check of the instruction at its pc. -/
def State.canTake (s : State) (c : CoreId) : Bool := s.runs c && s.atBoundary c

/-- Installs a leaf in the TLB that the walk serves (R320). -/
def Core.install (k : Core) (kind : WalkKind) (e : TlbEntry) : Core :=
  match kind with
  | .data => { k with dtlb := tlbFill 64 k.dtlb e }
  | _ => { k with itlb := tlbFill 32 k.itlb e }
/-- The TLB that a walk serves. -/
def Core.tlbOf (k : Core) : WalkKind → List TlbEntry
  | .data => k.dtlb
  | _ => k.itlb

/-- The cause of a failed walk: fetch causes for a fetch, data causes otherwise (R319, R336). -/
def walkCause (kind : WalkKind) (place : Bool) : BitVec 8 :=
  match kind, place with
  | .fetch, false => 0x08
  | .fetch, true => 0x0A
  | _, false => 0x09
  | _, true => 0x0B

/-- The walk of an address is no longer waited for. -/
def Ctl.walked (t : Ctl) (w : WalkKind × BitVec 40) : Ctl :=
  { t with need := if t.need = some w then none else t.need, walkBg := if t.walkBg = some w then none else t.walkBg }

/-- TLB_WALK: a walk on a TLB miss of a core. The next instruction waits for it, an interrupt has left it in progress, or a
fetch on a path that is not executed asks for it, which fills no walk-cache entry and drops every failure (R93, R94, R318,
R319, R359). -/
def execTlbWalk (c : CoreId) (kind : WalkKind) (va : BitVec 40) (s : State) : Out :=
  let k := s.core c
  let wanted := decide (k.ctl.need = some (kind, va))
  let onPath := wanted || decide (k.ctl.walkBg = some (kind, va))
  let asked := onPath
    || (decide (kind = .fetch) && decide (0x2000 ≤ va.toNat) && decide (va.toNat < 2 ^ 32))
  if !s.runs c || !asked || (tlbFind (k.tlbOf kind) k.cxt.tag (vpnOf va)).isSome then
    .next (s.setCore c { k with ctl := k.ctl.walked (kind, va) })
  else
    let w := walk s (unitCore c) k.cxt k.wcache va
    let s1 := (w.s.gotTask (srcCore c) (.walk kind)).modCore c (fun k => { k with wcache := if onPath then w.wc else k.wcache })
    let walked := s1.modCore c (fun k => { k with ctl := k.ctl.walked (kind, va) })
    let fail := fun (f : State → State) =>
      if !wanted then walked else if s.canTake c then f s1 else s1
    match w.r with
    | .leaf e => .next (walked.modCore c (fun k => k.install kind e))
    | .trans lvl => .next (fail (fun s => s.modCore c (fun k => k.enterPrecise (walkCause kind false) va lvl)))
    | .place lvl => .next (fail (fun s => s.modCore c (fun k => k.enterPrecise (walkCause kind true) va lvl)))
    | .mc lvl => .next (fail (fun s => machineCheckAt s c .walkData lvl true))
    | .held ln => .next (if onPath then s.await (srcCore c) (.walk kind) ln else s)

/-! ### Instruction-cache fill (R98, R246, R323, R330) -/

/-- Adds a line to the instruction cache of 192 sets of 4 ways, LRU within a set. -/
def icPut (l : List ICLine) (e : ICLine) : List ICLine :=
  let same := l.filter (fun x => x.set == e.set && x.line != e.line)
  e :: (same.take 3 ++ l.filter (fun x => x.set != e.set))

/-- ICACHE_FILL: a fetch at an address that hits the I-TLB and passes its checks, on the executed path or not, misses the
instruction cache (R94, R98). -/
def execIcacheFill (c : CoreId) (addr : BitVec 32) (s : State) : Out :=
  let k := s.core c
  if !s.runs c || decide (addr.toNat < 0x2000) then .next s
  else
    match translate k.itlb k.cxt.tag k.sys.mode k.sys.krr (addr.setWidth 40) fetchWant with
    | .ok pa _ =>
      if k.icache.any (fun x => x.set == icSet addr && x.line == pa / 32) then .next s
      else if s.mustWait (srcCore c) pa then
        .next (if k.ctl.stallSince.isSome then s.await (srcCore c) .fill (lineOf pa) else s)
      else
        let rd := readWords s (unitCore c) (lineOf pa * 32) 32
        .next (((touchUse rd.s pa false).gotTask (srcCore c) .fill).modCore c (fun k =>
          { k with icache := icPut k.icache ⟨icSet addr, lineOf pa, rd.ws, rd.bad⟩ }))
    | _ => .next s

/-! ### Broadcast invalidation (R337, R338) -/

/-- A core that neither waits for a warden nor is stopped takes part in a broadcast (R338). -/
def Ctl.hears (t : Ctl) : Bool := !t.cks && !t.iso

/-- Records a broadcast for a gated core (R338). -/
def Ctl.recordShoot (t : Ctl) (op : BitVec 2) : Ctl :=
  { t with recShoot := true, recShootF := t.recShootF || op == 3#2 }

/-- The write of TLB_SHOOT of warden q: accepted while DONE is 1 (R337). -/
def shootWrite (s : State) (q : QuireId) (v : W64) : State :=
  let x := s.quire q
  if !x.shoot.waiting.isEmpty then s.setQuire q { x with shoot := { x.shoot with ovr := true } }
  else
    let op : BitVec 2 := v.extractLsb' 40 2
    let live := (List.finRange 64).filter (fun c => (s.core c).ctl.hears && !(s.core c).ctl.gated)
    let caches := (List.finRange 8).filter (fun i => !(s.quire i).failed)
    let sh : Shoot :=
      { vpn := v.extractLsb' 0 28, tag := v.extractLsb' 28 12, op := op, ovr := false
        waiting := live.map ShootTarget.core ++ caches.map ShootTarget.quire }
    let s1 := { s with cores := s.cores.map (fun (k : Core) =>
      if k.ctl.hears && k.ctl.gated then { k with ctl := k.ctl.recordShoot op } else k) }
    s1.setQuire q { x with shoot := sh }

/-- TLB_SHOOT (R337). -/
def execTlbShoot (q : QuireId) (v : W64) (s : State) : Out := .next (anyCommand s (some q) (fun s => shootWrite s q v))

/-- TLB_SHOOT as it reads (R337). -/
def Shoot.bits (x : Shoot) : W64 :=
  at64 x.vpn.toNat 0 ||| at64 x.tag.toNat 28 ||| at64 x.op.toNat 40 ||| bit64 x.ovr 62 ||| bit64 x.waiting.isEmpty 63

/-- A walk that the core has left in progress installs its fill before the core applies a request (R338). -/
def State.walkFirst (s : State) : ShootTarget → Bool
  | .core c => let t := (s.core c).ctl; t.walkBg.isSome && t.hears && !t.gated
  | .quire _ => false

/-- SHOOT_APPLY: a core, at a boundary or during a wait, or the translation cache of a quire applies the accepted request
of warden q; the words that the core has fetched execute as fetched (R335, R338). -/
def execShootApply (q : QuireId) (t : ShootTarget) (s : State) : Out :=
  let sh := (s.quire q).shoot
  if !sh.waiting.contains t || !s.spineRuns || s.walkFirst t then .next s
  else
    let s1 := match t with
      | .core c =>
        let k := s.core c
        if k.ctl.gated then s.setCore c { k with ctl := k.ctl.recordShoot sh.op }
        else s.drawn.setCore c ({ k with ahead := k.aheadFrom k.pc s.free }.invalidate sh.op sh.vpn sh.tag)
      | .quire i => s.setQuire i { s.quire i with qtc := (s.quire i).qtc.filter (keepEntry sh.op sh.vpn sh.tag) }
    let x := s1.quire q
    .next (s1.setQuire q { x with shoot := { x.shoot with waiting := x.shoot.waiting.filter (fun u => u != t) } })

/-- The broadcasts recorded while a core was gated apply before its first instruction after ungating; a walk that the gating found
in progress has installed its fill first, which they remove (R338). -/
def Core.ungate (k : Core) : Core :=
  let k1 := if k.ctl.recShoot then
      let k2 := k.invalidate (if k.ctl.recShootF then 3 else 2) 0 0
      { k2 with ctl := { k2.ctl with walkBg := none } }
    else k
  { k1 with ctl := { k1.ctl with gated := false, recShoot := false, recShootF := false } }

end Sys2Proof.Machine
end

