-- ==== Sys2Proof/Machine/Access.lean ====
section
/-!
DEFINITION. The Vat access instructions, the units that serve them in age order, and the store buffer (08_vat_records_posting.md
R211 to R228; R17, R59, R78, R83, R330).
-/
namespace Sys2Proof.Machine

/-! ### What waits at a unit (R17, R86, R212, R222 to R224, R246) -/

/-- A unit serves the request of a core's long op or PUSH at an address, or the request waits. An address of the region map that
holds nothing stops the model. A store that is now written may let later requests of the core enter (R223, R224). -/
def serveAt (s : State) (c : CoreId) (e : Entry) (st pa : Nat) (f : State → State) : Out :=
  if s.blocked (e.age (srcCore c) st) (lineOf pa) then .next s
  else if regionOf s.part pa = .absent then .fault (.noMemory pa)
  else .next ((f s).letIn c)

/-- Records a result for the long op of core c with L destination l. -/
def State.serveL (s : State) (c : CoreId) (l : LRegId) (r : LRes) : State := s.modCore c (fun k => k.served (.l l) r)

/-- A burst holds a word of one of some runs of words. -/
def burstIn (runs : List (Nat × List W16)) (b : Nat) : Bool :=
  runs.any (fun r => decide (r.1 / 16 ≤ b) && decide (b ≤ (r.1 + r.2.length - 1) / 16))

/-- Writes runs of words of one line, which its unit has just read correctable, as one write: the line, or each burst that they
touch, is re-encoded once (R219, R240). -/
def writeCleans (s : State) (ln : Nat) (runs : List (Nat × List W16)) : State :=
  let w := fun (s : State) => { s with phys := runs.foldl (fun m r => m.write r.1 r.2) s.phys }
  match regionOf s.part (ln * 32) with
  | .hbm =>
    let bs := [2 * ln, 2 * ln + 1].filter (burstIn runs)
    bs.foldl (fun s b => hbmStored s b false) (w (bs.foldl fixBurst s))
  | .vat => { w s with vatMark := s.vatMark.set (vatLine (ln * 32)) 0#2 }
  | _ => w s
/-- Writes one run of words so. -/
def writeClean (s : State) (pa : Nat) (ws : List W16) : State := writeCleans s (lineOf pa) [(pa, ws)]

/-! ### Issue (R216 to R218) -/

/-- The memory types that R218 permits: HBM 0, Vat 1, journal 2, device 3. -/
def mtRead : List (BitVec 2) := [0, 1, 2, 3]
def mtStore : List (BitVec 2) := [0, 1, 3]
def mtGet : List (BitVec 2) := [0, 1, 2]
def mtPut : List (BitVec 2) := [0, 1]

/-- Checks 1 and 2 of R217 for an access aligned to 2^n words. -/
def vatChecks (ga : BitVec 40) (n : Nat) (f : Res) : Res :=
  if ga.toNat < localEnd then .exc 0x03 ga 0
  else if ga.toNat % n != 0 then .exc 0x07 ga 0
  else f

/-- The own effect of VLD. -/
def bodyVld (l : LRegId) (a : GReg) (s : State) (k : Core) : Res :=
    let ga : BitVec 40 := (k.gr a).setWidth 40
    whenL k l (vatChecks ga 4 (dAccess k ga (wantRead mtRead) (fun pa _ k1 => issueLong s k1 (.l l) (.vld pa) none)))
/-- VLD. -/
def execVld (c : CoreId) (l : LRegId) (a : GReg) (s : State) : Out := issue s c (.vld c l a) plain (bodyVld l a)
/-- The own effect of VST. -/
def bodyVst (l : LRegId) (a b : GReg) (s : State) (k : Core) : Res :=
    let ga : BitVec 40 := (k.gr a).setWidth 40
    whenL k l (vatChecks ga 4 (dAccess k ga (wantWrite mtStore) (fun pa _ k1 =>
      issueLong s { k1 with sbuf := k1.sbuf ++ [.vst l] } (.l l) (.vst pa (k1.gr b)) none)))
/-- VST: the data retire into the store buffer, and the request leaves with its entry (R82, R83, R216). -/
def execVst (c : CoreId) (l : LRegId) (a b : GReg) (s : State) : Out := issue s c (.vst c l a b) plain (bodyVst l a b)
/-- The own effect of VGET. -/
def bodyVget (l : LRegId) (a b : GReg) (s : State) (k : Core) : Res :=
    let ga : BitVec 40 := (k.gr a).setWidth 40
    let gb : BitVec 40 := (k.gr b).setWidth 40
    whenL k l (vatChecks ga 32 (withLocal k gb 32 (dAccess k ga (wantRead mtGet) (fun pa _ k1 =>
      issueLong s k1 (.l l) (.vget pa gb.toNat) none))))
/-- VGET. -/
def execVget (c : CoreId) (l : LRegId) (a b : GReg) (s : State) : Out := issue s c (.vget c l a b) plain (bodyVget l a b)
/-- The own effect of VPUT. -/
def bodyVput (l : LRegId) (a b : GReg) (s : State) (k : Core) : Res :=
    let ga : BitVec 40 := (k.gr a).setWidth 40
    let gb : BitVec 40 := (k.gr b).setWidth 40
    whenL k l (vatChecks ga 32 (withLocal k gb 32 (dAccess k ga (wantWrite mtPut) (fun pa _ k1 =>
      readThen k1 gb.toNat 32 (fun ws k2 => issueLong s k2 (.l l) (.vput pa ws) none)))))
/-- VPUT: the 32 words are read at issue through the store buffer (R81, R84). -/
def execVput (c : CoreId) (l : LRegId) (a b : GReg) (s : State) : Out := issue s c (.vput c l a b) plain (bodyVput l a b)
/-- The own effect of VCAS. -/
def bodyVcas (l : LRegId) (a b : GReg) (s : State) (k : Core) : Res :=
    let ga : BitVec 40 := (k.gr a).setWidth 40
    if oddReg b then .illegal k.pc
    else
      whenL k l (vatChecks ga 4 (dAccess k ga (wantBoth mtPut) (fun pa _ k1 =>
        issueLong s k1 (.l l) (.vcas pa (k1.gr b) (k1.gr (nextReg b))) none)))
/-- VCAS: an odd b is illegal (R102, R216). -/
def execVcas (c : CoreId) (l : LRegId) (a b : GReg) (s : State) : Out := issue s c (.vcas c l a b) plain (bodyVcas l a b)

/-! ### Service (R219, R220, R467, R59) -/

/-- Reads n words for a core: the words and whether they cannot be trusted. The device region answers with a quad. -/
def coreRead (s : State) (c : CoreId) (pa n : Nat) : LineRead :=
  if regionOf s.part pa = .dev then ⟨s, wordsOf (devRegionRead s pa), []⟩
  else
    let rd := readWords s (unitCore c) pa n
    ⟨touchUse rd.s pa false, rd.ws, rd.bad⟩
/-- Stores words for a core: the state after, and whether the line stays poisoned. -/
def coreStore (s : State) (c : CoreId) (pa : Nat) (ws : List W16) : State × Bool :=
  if regionOf s.part pa = .dev then (devRegionWrite s c pa (quadOf ws), false)
  else
    let (s1, bad) := mergeWords s pa ws
    (touchUse s1 pa true, bad)

/-- A status: complete, or complete on a poisoned line (R216). -/
def statusOf (bad : Bool) : W64 := if bad then 1#64 else 0#64

/-- One part of a translated POP: both parts make the quad (R59). -/
def Core.popPart (k : Core) (l : LRegId) (i : Fin 2) (ws : List W16) (bad : Bool) : Core :=
  k.modLong (.l l) (fun o => match o.op with
    | .pop pa0 n0 pa1 n1 w0 w1 b =>
      let v0 := if i = 0 then some ws else w0
      let v1 := if i = 1 then some ws else w1
      let bb := b || bad
      let res := match v0, v1 with
        | some x, some y => some (LRes.l (quadOf (x ++ y)) bb)
        | some x, none => if n1 = 0 then some (LRes.l (quadOf x) bb) else none
        | _, _ => none
      { o with op := .pop pa0 n0 pa1 n1 v0 v1 bb, res := res }
    | _ => o)

/-- VLD_SERVE: the unit reads the quad of a VLD, or one part of a POP. -/
def execVldServe (c : CoreId) (r : ReadReq) (s : State) : Out :=
  match (s.core c).long? (.l r.l) with
  | some { op := .vld pa, res := none, stamp := st, entry := some e, .. } =>
    if r.part != 0 then .next s
    else serveAt s c e st pa (fun s =>
      let rd := coreRead s c pa 4
      rd.s.serveL c r.l (.l (quadOf rd.ws) (!rd.bad.isEmpty)))
  | some { op := .pop pa0 n0 pa1 n1 w0 w1 _, res := none, stamp := st, entry := some e, .. } =>
    if r.part = 0 then
      (if w0.isSome then .next s
       else serveAt s c e st pa0 (fun s =>
        let rd := coreRead s c pa0 n0
        rd.s.modCore c (fun k => k.popPart r.l 0 rd.ws (!rd.bad.isEmpty))))
    else
      (if w1.isSome || n1 == 0 then .next s
       else serveAt s c e st pa1 (fun s =>
        let rd := coreRead s c pa1 n1
        rd.s.modCore c (fun k => k.popPart r.l 1 rd.ws (!rd.bad.isEmpty))))
  | _ => .next s

/-- VST_SERVE: the bank merges the quad of a VST, or the oldest part of a translated PUSH. -/
def execVstServe (c : CoreId) (r : StoreReq) (s : State) : Out :=
  match r with
  | .vst l =>
    match (s.core c).long? (.l l) with
    | some { op := .vst pa v, res := none, stamp := st, entry := some e, .. } =>
      serveAt s c e st pa (fun s =>
        let (s1, bad) := coreStore s c pa (wordsOf v)
        s1.serveL c l (.l (statusOf bad) false))
    | _ => .next s
  | .push =>
    match (s.core c).pushq with
    | ⟨pa, ws, st, some e⟩ :: rest => serveAt s c e st pa (fun s =>
        let (s1, _) := coreStore s c pa ws
        s1.modCore c (fun k => { k with pushq := rest }))
    | _ => .next s

/-- VGET_SERVE: the unit reads the line. -/
def execVgetServe (c : CoreId) (l : LRegId) (s : State) : Out :=
  match (s.core c).long? (.l l) with
  | some { op := .vget pa _, res := none, stamp := st, entry := some e, .. } =>
    serveAt s c e st pa (fun s =>
      let rd := coreRead s c pa 32
      rd.s.serveL c l (.line (statusOf (!rd.bad.isEmpty)) rd.ws rd.bad))
  | _ => .next s

/-- VPUT_SERVE: the unit stores the line, whatever it held. -/
def execVputServe (c : CoreId) (l : LRegId) (s : State) : Out :=
  match (s.core c).long? (.l l) with
  | some { op := .vput pa ws, res := none, stamp := st, entry := some e, .. } =>
    serveAt s c e st pa (fun s => (touchUse (storeLine s pa ws) pa true).serveL c l (.l 0#64 false))
  | _ => .next s

/-- VCAS_SERVE: compare and write are one act (R219, R220, R330). -/
def execVcasServe (c : CoreId) (l : LRegId) (s : State) : Out :=
  match (s.core c).long? (.l l) with
  | some { op := .vcas pa expect new, res := none, stamp := st, entry := some e, .. } =>
    serveAt s c e st pa (fun s =>
      let rd := readWords s (unitBank (lineOf pa)) pa 4
      let old := quadOf rd.ws
      let bad := !rd.bad.isEmpty
      let hit := !bad && old == expect
      let s1 := if hit then writeClean rd.s pa (wordsOf new) else rd.s
      (touchUse s1 pa hit).serveL c l (.l old bad))
  | _ => .next s

/-- VAT_POISON_MARK: the bank marks a reported line, leaving its data (R214). A line written whole since then has new
data and takes no mark. -/
def execVatPoisonMark (line : BitVec 19) (s : State) : Out :=
  if s.spineRuns && s.reports.any (fun r => r.1 == line) then
    .next { s with
      reports := s.reports.filter (fun r => r.1 != line)
      vatMark := if s.vatMark.get line.toNat = 2#2 then s.vatMark.set line.toNat 3#2 else s.vatMark }
  else .next s

/-! ### The store buffer (R83) -/

/-- The oldest entry for translated D-space leaves for the mesh queue (R83). -/
def Core.sendStore (k : Core) : Core :=
  let rest := k.sbuf.eraseP (fun e => !e.isLoc)
  match k.sbuf.find? (fun e => !e.isLoc) with
  | some (.push pa ws st) => { k with sbuf := rest, pushq := k.pushq ++ [⟨pa, ws, st, none⟩] }
  | some (.vst _) => { k with sbuf := rest }
  | _ => k

/-- STORE_BUFFER_DRAIN: an entry for translated D-space leaves in the cycle after it retires, whatever local entries are older, and
its request enters the mesh (R17); local entries drain oldest first. A core whose clock is off has none left (R19; DESIGN CHOICE,
notes/assumptions/200.md). -/
def execStoreBufferDrain (c : CoreId) (s : State) : Out :=
  let k := s.core c
  .next (if !s.spineRuns then s
    else if k.sbuf.any (fun e => !e.isLoc) then (s.setCore c k.sendStore).letIn c
    else s.setCore c k.drainOldest)

end Sys2Proof.Machine
end

