-- ==== Sys2Proof/Machine/Clock.lean ====
section
/-! DEFINITION. The passing of one mesh cycle, which the table has no row for (R361, R504). -/
namespace Sys2Proof.Machine

/-- One mesh cycle passes; TMR_NOW counts while the mesh spine is clocked (R361). -/
def tick (s : State) : State :=
  { s with now := s.now + 1, tmr := if s.spineRuns then s.tmr + 1#64 else s.tmr }

end Sys2Proof.Machine
end

