-- ==== Sys2Proof/Machine/CorePorts.lean ====
section
/-!
DEFINITION. The core-local ports (R36 to R66, R356 to R362) and the instructions IN and OUT (R77, R119).
-/
namespace Sys2Proof.Machine

/-! ### What the ports show -/

/-- Accumulator bits [159:0] (R44). -/
def Acc.bits (a : Acc) : BitVec 160 := BitVec.ofBool a.sign ++ a.tag ++ a.exp ++ a.dig
/-- An accumulator from its bits (R44). -/
def Acc.ofBits (v : BitVec 160) : Acc :=
  { sign := v.getLsbD 159, tag := v.extractLsb' 152 7, exp := v.extractLsb' 136 16, dig := v.extractLsb' 0 136 }
/-- Part k of an accumulator (R44). -/
def Acc.part (a : Acc) (k : Nat) : W64 :=
  match k with
  | 0 => (a.bits.extractLsb' 128 32).setWidth 64
  | 1 => a.bits.extractLsb' 64 64
  | _ => a.bits.extractLsb' 0 64
/-- An accumulator with part k replaced (R44, R45). -/
def Acc.setPart (a : Acc) (k : Nat) (v : W64) : Acc :=
  let p0 : BitVec 32 := a.bits.extractLsb' 128 32
  let p1 : W64 := a.bits.extractLsb' 64 64
  let p2 : W64 := a.bits.extractLsb' 0 64
  Acc.ofBits (match k with
    | 0 => v.setWidth 32 ++ p1 ++ p2
    | 1 => p0 ++ v ++ p2
    | _ => p0 ++ p1 ++ v)

/-- DKTL (R160). -/
def Tally.bits (t : Tally) : W64 :=
  t.ia ++ (0#8 ++ t.fc ++ BitVec.ofBool t.md ++ BitVec.ofBool t.lo ++ BitVec.ofBool t.z ++ BitVec.ofBool t.neg ++
    BitVec.ofBool t.ps ++ BitVec.ofBool t.sig ++ t.nib ++ t.op ++ t.st : BitVec 32)
/-- DKTL from the bits of its port (R160). -/
def Tally.ofBits (v : W64) : Tally :=
  { st := v.extractLsb' 0 4, op := v.extractLsb' 4 4, nib := v.extractLsb' 8 2, sig := v.getLsbD 10, ps := v.getLsbD 11
    neg := v.getLsbD 12, z := v.getLsbD 13, lo := v.getLsbD 14, md := v.getLsbD 15, fc := v.extractLsb' 16 8
    ia := v.extractLsb' 32 32 }
/-- DKFL (R163). -/
def Deckle.flBits (d : Deckle) : W64 := d.cset ++ BitVec.ofBool d.mv ++ d.mark ++ d.cb ++ d.fill
/-- Writes DKFL (R163). -/
def Deckle.setFl (d : Deckle) (v : W64) : Deckle :=
  { d with fill := v.extractLsb' 0 16, cb := v.extractLsb' 16 16, mark := v.extractLsb' 32 15, mv := v.getLsbD 47
           cset := v.extractLsb' 48 16 }

/-- FPC (R50). -/
def Sys.fpc (y : Sys) : W64 :=
  (0#16 ++ y.fop ++ (0#11 ++ y.fpsf ++ 0#3 ++ y.fpen ++ 0#1 ++ y.drm ++ 0#1 ++ y.brm : BitVec 32) : BitVec 64)
/-- Writes FPC (R50). -/
def Sys.setFpc (y : Sys) (v : W64) : Sys :=
  { y with brm := v.extractLsb' 0 3, drm := v.extractLsb' 4 3, fpen := v.extractLsb' 8 5, fpsf := v.extractLsb' 16 5
           fop := v.extractLsb' 32 16 }
/-- DCTL (R52). -/
def Sys.dctl (y : Sys) : W64 := bit64 y.ote 0 ||| bit64 y.psf 1 ||| bit64 y.zsk 2
/-- LRB (R40). -/
def Sys.lrb (y : Sys) : W64 := at64 y.txb.toNat 0 ||| at64 y.tyb.toNat 16 ||| at64 y.tib.toNat 32
/-- XCS (R56). -/
def XSet.xcs (x : XSet) : W64 :=
  at64 x.cause.toNat 0 ||| bit64 x.xds 8 ||| bit64 x.xsh 9 ||| bit64 x.xlp 10 ||| bit64 x.xrs 11 ||| at64 x.lvl.toNat 12
/-- MCS (R57). -/
def MSet.mcs (m : MSet) : W64 := at64 m.cause.toNat 0 ||| at64 m.lvl.toNat 12 ||| bit64 m.mcip 15

/-- A customer opcode is loaded (R398). -/
def Image.loaded (g : Image) (n : Nat) : Bool := (g.entry (0xE0 + n)).extractLsb' 12 2 != 0#2
/-- FEAT0 to FEAT3 (R65). -/
def feat (s : State) (c : CoreId) (n : Nat) : W64 :=
  let g := (s.quire (coreQuire c)).image
  match n with
  | 0 =>
    let cops := (List.range 16).foldl (fun (v : W64) i => v ||| bit64 (g.loaded i) (8 + i)) 0#64
    0x3F#64 ||| bit64 (cops != 0#64) 6 ||| cops ||| at64 2 24 ||| at64 2 28 ||| bit64 true 30
  | 1 => at64 16 0 ||| at64 16 8 ||| at64 8 16 ||| at64 24 24 ||| at64 4 32 ||| at64 16 36 ||| at64 8 44
  | 2 => at64 32 0 ||| at64 64 8 ||| at64 4 16 ||| at64 8 20 ||| at64 16 24 ||| at64 256 32 ||| at64 12 48
  | _ =>
    at64 c.val 0 ||| at64 (coreQuire c).val 6 ||| at64 (match s.part with | .a16c => 8 | _ => 12) 16 ||| at64 16 32
      ||| at64 0xB0 40
/-- MCVER (R66, R398). -/
def mcver (s : State) (c : CoreId) (n : Nat) : W64 :=
  let g := (s.quire (coreQuire c)).image
  match n with
  | 0 => g.custVer ++ g.custId ++ g.patch ++ g.base
  | _ => g.digest.extractLsb' 0 64

/-! ### Interrupt sources of a core (R356, R357, R361, R362) -/

/-- A pending source: its number and level. -/
structure Src where
  n : Nat
  lvl : BitVec 3
deriving DecidableEq, Repr

/-- The sources pending at a core: quire sources at their routed level, the timer, the mailbox (R356 to R358). -/
def pendingSrcs (s : State) (c : CoreId) : List Src :=
  let k := s.core c
  let q := s.quire (coreQuire c)
  ((List.finRange 64).filter (fun i => k.irq.ipnd.getLsbD i.val)).map (fun i => ⟨i.val, q.routes[i].lvl⟩)
    ++ (if k.irq.tpnd then [⟨64, k.irq.tlvl⟩] else [])
    ++ (if k.irq.men && !k.irq.mbx.isEmpty then [⟨65, k.irq.mlvl⟩] else [])

/-- The highest level, ties to the lowest source (R357). -/
def topSrc : List Src → Option Src
  | [] => none
  | x :: xs =>
    match topSrc xs with
    | none => some x
    | some y => if x.lvl.toNat < y.lvl.toNat then some y else some x

/-- The timer's condition after a write or a count: PND rises with it (R361). -/
def Irq.timerCheck (i : Irq) (now : W64) : Irq :=
  let cond := i.ten && decide (i.tcmp.toNat ≤ now.toNat)
  { i with tpnd := i.tpnd || (cond && !i.tcond), tcond := cond }

/-! ### Access to the ports (R36 to R39) -/

/-- Tenant mode may not read the port. -/
def tenantNoRead (p : Nat) : Bool :=
  p == 0x25 || (decide (0x30 ≤ p) && decide (p ≤ 0x39)) || (decide (0x40 ≤ p) && decide (p ≤ 0x46))
    || (decide (0x48 ≤ p) && decide (p ≤ 0x4A)) || p == 0x60 || (decide (0x200 ≤ p) && decide (p ≤ 0x2FF))
/-- Tenant mode may not write the port (R37). -/
def tenantNoWrite (p : Nat) : Bool := tenantNoRead p || p == 2 || p == 3 || p == 0x24

/-- A port of the deckle group. -/
def deckPort (p : Nat) : Bool := decide (0x10 ≤ p) && decide (p ≤ 0x16)
/-- The L register of a port. -/
def lPort (p : Nat) : Option LRegId := if 0x80 ≤ p ∧ p ≤ 0x87 then some (lowL (p - 0x80)) else none
/-- The accumulator and part of a port (R36). -/
def aPort (p : Nat) : Option (AReg × Nat) :=
  if 0x100 ≤ p ∧ p < 0x120 ∧ p % 4 ≠ 3 then some (⟨(p - 0x100) / 4 % 8, by omega⟩, p % 4) else none

/-- A long op still owns what the port names (R38). -/
def Core.portBusy (k : Core) (p : Nat) : Bool :=
  (deckPort p && k.dsuBusy) || (match lPort p with | some l => k.lBusy l | none => false)
    || (match aPort p with | some (a, _) => k.aBusy a | none => false)

/-- The value of a core-local port; an unlisted port reads 0 (R37). -/
def corePortVal (s : State) (c : CoreId) (k : Core) (p : Nat) : W64 :=
  let y := k.sys
  match lPort p, aPort p with
  | some l, _ => k.l[l].val
  | _, some (a, i) => (k.ac a).part i
  | none, none =>
    match p with
    | 0x00 => k.fl.bits.setWidth 64
    | 0x01 => k.dsp.setWidth 64
    | 0x02 => k.rsp.setWidth 64
    | 0x03 => at64 k.rs.length 0
    | 0x04 => k.loop.lc.setWidth 64
    | 0x05 => k.loop.ls.setWidth 64
    | 0x06 => k.loop.le.setWidth 64
    | 0x08 => k.lbsy
    | 0x10 => k.dk.sa.setWidth 64
    | 0x11 => k.dk.sc.setWidth 64
    | 0x12 => k.dk.da.setWidth 64
    | 0x13 => k.dk.dc.setWidth 64
    | 0x14 => k.dk.ep.setWidth 64
    | 0x15 => k.dk.tl.bits
    | 0x16 => k.dk.flBits
    | 0x20 => y.ms.setWidth 64
    | 0x21 => y.krr.setWidth 64
    | 0x22 => y.fpc
    | 0x23 => y.dctl
    | 0x24 => y.bpctl.setWidth 64
    | 0x25 => y.lrb
    | 0x38 => y.spc.setWidth 64
    | 0x39 => y.sflFl.bits.setWidth 64 ||| at64 y.sflMs.toNat 32
    | 0x40 => y.x.xvb.setWidth 64
    | 0x41 => y.x.xpc.setWidth 64
    | 0x42 => y.x.xfl.bits.setWidth 64
    | 0x43 => y.x.xms.setWidth 64
    | 0x44 => y.x.xtgt.setWidth 64
    | 0x45 => y.x.xcs
    | 0x46 => y.x.xad.setWidth 64
    | 0x48 => y.m.mpc.setWidth 64
    | 0x49 => y.m.mms.setWidth 64
    | 0x4A => y.m.mcs
    | 0x50 => feat s c 0
    | 0x51 => feat s c 1
    | 0x52 => feat s c 2
    | 0x53 => feat s c 3
    | 0x58 => mcver s c 0
    | 0x59 => mcver s c 1
    | 0x200 => k.irq.ipl.setWidth 64
    | 0x201 => k.irq.ipnd
    | 0x202 => match topSrc (pendingSrcs s c) with
      | some x => at64 x.n 0 ||| at64 x.lvl.toNat 8 ||| bit64 true 15
      | none => 0#64
    | 0x210 => s.tmr
    | 0x211 => k.irq.tcmp
    | 0x212 => bit64 k.irq.ten 0 ||| at64 k.irq.tlvl.toNat 1 ||| bit64 k.irq.tpnd 4
    | 0x220 => k.irq.mbx.headD 0xFF00000000000000#64
    | 0x221 =>
      at64 k.irq.mbx.length 0 ||| bit64 k.irq.movf 5 ||| at64 k.irq.mlvl.toNat 6 ||| bit64 k.irq.men 9
    | _ => if 0x30 ≤ p ∧ p ≤ 0x37 then (y.sve[p % 8]'(by omega)).setWidth 64 else 0#64

/-- What a read of a port does to the core: ICLAIM claims, MBX_DATA removes (R357, R362). -/
def corePortTake (s : State) (c : CoreId) (k : Core) (p : Nat) : Core :=
  match p with
  | 0x202 =>
    match topSrc (pendingSrcs s c) with
    | some x =>
      if x.n = 64 then { k with irq := { k.irq with tpnd := false } }
      else if x.n < 64 then { k with irq := { k.irq with ipnd := k.irq.ipnd &&& ~~~(1#64 <<< x.n) } }
      else k
    | none => k
  | 0x220 => { k with irq := { k.irq with mbx := k.irq.mbx.tail } }
  | _ => k

/-- An OUT inside a REPB body, from LS on to LE, past the end of I-space too: it takes effect at the loop end (R33, R39). -/
def Core.inBody (k : Core) : Bool :=
  k.loop.lc != 0#32 && decide ((k.pc - k.loop.ls).toNat ≤ (k.loop.le - k.loop.ls).toNat)

/-- RSP takes an address made even and limited to the spill area (R60). All 64 bits of the value count: one with a bit of [63:40]
set lies above the area (DESIGN CHOICE, notes/assumptions/160.md). -/
def rspOf (v : W64) : BitVec 16 :=
  let a := v.toNat / 2 * 2
  BitVec.ofNat 16 (if a < 0x7C00 then 0x7C00 else if 0x8000 < a then 0x8000 else a)

/-- Spills up to n entries; answers whether the spill area filled (R63). -/
def Core.spillAll (k : Core) : Nat → Core × Bool
  | 0 => (k, false)
  | n + 1 =>
    if k.rs.isEmpty then (k, false)
    else
      match k.rsSpill with
      | none => (k, true)
      | some k1 => k1.spillAll n

/-- A write of a core-local port whose effect is only on the core's registers. RO and unlisted ports ignore it (R9,
R37). Bits that the layouts of the save sets do not list are not kept and read 0 (R55 to R57; DESIGN CHOICE,
notes/assumptions/161.md). -/
def corePortSet (s : State) (k : Core) (p : Nat) (v : W64) : Core :=
  let y := k.sys
  let inb := k.inBody
  let lo32 : BitVec 32 := v.setWidth 32
  match p with
  | 0x00 => { k with fl := Flags.ofBits (v.setWidth 5) }
  | 0x01 => { k with dsp := v.setWidth 40 }
  | 0x02 => { k with rsp := rspOf v }
  | 0x04 => { k with loop := if inb then { k.loop with lcNew := some lo32 } else { k.loop with lc := lo32 } }
  | 0x05 => { k with loop := if inb then { k.loop with lsNew := some lo32 } else { k.loop with ls := lo32 } }
  | 0x06 => { k with loop := if inb then { k.loop with leNew := some lo32 } else { k.loop with le := lo32 } }
  | 0x10 => { k with dk := { k.dk with sa := v.setWidth 15 } }
  | 0x11 => { k with dk := { k.dk with sc := lo32 } }
  | 0x12 => { k with dk := { k.dk with da := v.setWidth 15 } }
  | 0x13 => { k with dk := { k.dk with dc := lo32 } }
  | 0x14 => { k with dk := { k.dk with ep := v.setWidth 15 } }
  | 0x15 => { k with dk := { k.dk with tl := Tally.ofBits v } }
  | 0x16 => { k with dk := k.dk.setFl v }
  | 0x22 => { k with sys := y.setFpc v }
  | 0x23 => { k with sys := { y with ote := v.getLsbD 0, psf := v.getLsbD 1, zsk := v.getLsbD 2 } }
  | 0x24 => { k with jtab := [], jhist := [0, 0, 0, 0] }
  | 0x25 => { k with sys := { y with
      txb := v.extractLsb' 0 15, tyb := v.extractLsb' 16 15, tib := v.extractLsb' 32 14 } }
  | 0x38 => { k with sys := { y with spc := lo32 } }
  | 0x39 => { k with sys := { y with sflFl := Flags.ofBits (v.setWidth 5), sflMs := v.extractLsb' 32 3 } }
  | 0x40 => { k with sys := { y with x := { y.x with xvb := lo32 &&& 0xFFFFFFF0#32 } } }
  | 0x41 => { k with sys := { y with x := { y.x with xpc := lo32 } } }
  | 0x42 => { k with sys := { y with x := { y.x with xfl := Flags.ofBits (v.setWidth 5) } } }
  | 0x43 => { k with sys := { y with x := { y.x with xms := v.setWidth 3 } } }
  | 0x44 => { k with sys := { y with x := { y.x with xtgt := lo32 } } }
  | 0x45 => { k with sys := { y with x := { y.x with
      cause := v.setWidth 8, xds := v.getLsbD 8, xsh := v.getLsbD 9, xlp := v.getLsbD 10, xrs := v.getLsbD 11
      lvl := v.extractLsb' 12 2 } } }
  | 0x46 => { k with sys := { y with x := { y.x with xad := v.setWidth 40 } } }
  | 0x48 => { k with sys := { y with m := { y.m with mpc := lo32 } } }
  | 0x49 => { k with sys := { y with m := { y.m with mms := v.setWidth 3 } } }
  | 0x4A => { k with sys := { y with m := { y.m with
      cause := v.setWidth 8, lvl := v.extractLsb' 12 2, mcip := y.m.mcip && !v.getLsbD 15 } } }
  | 0x60 => { k with icache := [] }
  | 0x200 => { k with irq := { k.irq with ipl := v.setWidth 3 } }
  | 0x201 => { k with irq := { k.irq with ipnd := k.irq.ipnd &&& ~~~v } }
  | 0x211 => { k with irq := { k.irq with tcmp := v }.timerCheck s.tmr }
  | 0x212 => { k with irq := { k.irq with
      ten := v.getLsbD 0, tlvl := v.extractLsb' 1 3, tpnd := k.irq.tpnd && !v.getLsbD 4 }.timerCheck s.tmr }
  | 0x221 => { k with irq := { k.irq with
      movf := k.irq.movf && !v.getLsbD 5, mlvl := v.extractLsb' 6 3, men := v.getLsbD 9 } }
  | _ =>
    match lPort p with
    | some l => k.setL l v
    | none =>
      if h : 0x30 ≤ p ∧ p ≤ 0x37 then { k with sys := { y with sve := y.sve.set (p % 8) lo32 (by omega) } } else k

/-- The results that a port write puts in flight: an accumulator part (R45), BPCTL (R54). -/
def corePortOwn (k : Core) (p : Nat) (v : W64) : List Flight :=
  match aPort p with
  | some (a, i) => wrA a ((k.ac a).setPart i v) 0
  | none => if p = 0x24 then [⟨.bpctl (v.setWidth 4), 2⟩] else []

/-! ### IN and OUT (R77, R119) -/

/-- IN from a port into Gd, or into L(d[2:0]) from a device port (R38, R77, R221). -/
def portIn (c : CoreId) (s : State) (k : Core) (p : BitVec 24) (d : GReg) : Res :=
  let n := p.toNat
  if n < 0x10000 then
    if !k.sys.mode && tenantNoRead n then .privileged (p.setWidth 40)
    else if k.portBusy n then .hold
    else
      match lPort n with
      | some l =>
        if k.l[l].poisoned then .mcheck .poisonedData 0
        else .done s k (wrG d k.l[l].val 1) .seq
      | none => .done s (corePortTake s c k n) (wrG d (corePortVal s c k n) 1) .seq
  else if !k.sys.mode then .privileged (p.setWidth 40)
  else
    let l := lowL d.val
    whenL k l (issueLong s k (.l l) (.devIn p) none)

/-- OUT of a value to a port (R37, R38, R63, R77, R78). -/
def portOut (s : State) (k : Core) (p : BitVec 24) (v : W64) : Res :=
  let n := p.toNat
  if n < 0x10000 then
    if !k.sys.mode && tenantNoWrite n then .privileged (p.setWidth 40)
    else if k.portBusy n then .hold
    else if n = 3 then
      let (k1, full) := k.spillAll 16
      if full then .excAfter s k1 0x05 0 0 else .done s k1 [] .seq
    else .done s (corePortSet s k n v) (corePortOwn k n v) .seq
  else if !k.sys.mode then .privileged (p.setWidth 40)
  else if 8 ≤ k.outq.length then .wait none
  else .done s.stamped { k with outq := k.outq ++ [⟨p, v, s.stamp, s.entryNow⟩] } [] .seq

/-- The length of an IN or OUT (R119). -/
def portLen : PortForm → Nat
  | .imm _ => 3
  | .reg _ => 2
/-- The length of a form whose port is fixed. -/
def ioLen : IoForm → Nat
  | .imm => 3
  | .reg => 2

/-- OUT by an instruction of len words: behind an OUT to ICINV, the words fetched already execute as fetched (R73). -/
def outInstr (len : Nat) (s : State) (k : Core) (p : BitVec 24) (v : W64) : Res :=
  if p = 0x000060#24 && k.sys.mode then portOut s.drawn (k.lookAhead len s.free) p v else portOut s k p v

/-- IN (R119). -/
def execInp (c : CoreId) (p : PortForm) (d : GReg) (s : State) : Out :=
  issue s c (.inp c p d) plain (fun s k => portIn c s k (portOf k p) d)
/-- OUT (R119). -/
def execOutp (c : CoreId) (p : PortForm) (r : GReg) (s : State) : Out :=
  issue s c (.outp c p r) plain (fun s k => outInstr (portLen p) s k (portOf k p) (k.gr r))
/-- OUT to RSD spills the hardware top of the return stack (R63). -/
def execOutRsd (c : CoreId) (f : IoForm) (r : GReg) (s : State) : Out :=
  issue s c (.outRsd c f r) plain (fun s k => portOut s k 0x000003 (k.gr r))
/-- OUT to RSP (R60). -/
def execOutRsp (c : CoreId) (f : IoForm) (r : GReg) (s : State) : Out :=
  issue s c (.outRsp c f r) plain (fun s k => portOut s k 0x000002 (k.gr r))
/-- OUT to ICINV (R34, R36, R73). -/
def execIcinv (c : CoreId) (f : IoForm) (r : GReg) (s : State) : Out :=
  issue s c (.icinv c f r) plain (fun s k => outInstr (ioLen f) s k 0x000060 (k.gr r))
/-- OUT to BPCTL (R53, R54, R91). -/
def execOutBpctl (c : CoreId) (f : IoForm) (r : GReg) (s : State) : Out :=
  issue s c (.outBpctl c f r) plain (fun s k => portOut s k 0x000024 (k.gr r))
/-- IN from ICLAIM (R357). -/
def execIclaim (c : CoreId) (f : IoForm) (d : GReg) (s : State) : Out :=
  issue s c (.iclaim c f d) plain (fun s k => portIn c s k 0x000202 d)
/-- IN from MBX_DATA (R362). -/
def execMbxData (c : CoreId) (f : IoForm) (d : GReg) (s : State) : Out :=
  issue s c (.mbxData c f d) plain (fun s k => portIn c s k 0x000220 d)

end Sys2Proof.Machine
end

