-- ==== Sys2Proof/Machine/Decimal.lean ====
section
/-!
DEFINITION. Decimal arithmetic (05_decimal_arithmetic.md): packed fields, fixed-decimal accumulators, and the instructions
of majors 0x40 to 0x44.
-/
namespace Sys2Proof.Machine

/-! ### Digits -/

/-- The value of the low n BCD digits of a number's nibbles. -/
def bcdVal : Nat → Nat → Nat
  | 0, _ => 0
  | n + 1, v => bcdVal n (v / 16) * 10 + v % 16
/-- The low n nibbles are digits. -/
def bcdOk : Nat → Nat → Bool
  | 0, _ => true
  | n + 1, v => decide (v % 16 ≤ 9) && bcdOk n (v / 16)
/-- The low n decimal digits of a number as nibbles. -/
def bcdEnc : Nat → Nat → Nat
  | 0, _ => 0
  | n + 1, v => bcdEnc n (v / 10) * 16 + v % 10

/-- 10^34: the magnitudes of 34 digits lie below it (R44). -/
def ten34 : Nat := 10000000000000000000000000000000000

/-- A decimal value: its sign, true for minus, and its magnitude. -/
structure SDec where
  neg : Bool
  mag : Nat
deriving DecidableEq, Repr

/-- The fixed-decimal value of an accumulator; none is a data exception (R45, R126). -/
def Acc.fixed (a : Acc) : Option SDec :=
  if a.tag = 0#7 ∧ bcdOk 34 a.dig.toNat then some ⟨a.sign, bcdVal 34 a.dig.toNat⟩ else none
/-- A fixed-decimal result: the low 34 digits, TAG 0, EXP 0 (R126). -/
def SDec.acc (d : SDec) : Acc := ⟨d.neg, 0, 0, BitVec.ofNat 136 (bcdEnc 34 d.mag)⟩
/-- A zero result is plus while ZSK is 0 (R127). -/
def SDec.zeroSign (d : SDec) (zsk : Bool) : SDec := if d.mag = 0 ∧ !zsk then ⟨false, 0⟩ else d
/-- The low 34 digits. -/
def SDec.low34 (d : SDec) : SDec := { d with mag := d.mag % ten34 }
/-- The signed value. -/
def SDec.toInt (d : SDec) : Int := if d.neg then -(d.mag : Int) else d.mag

/-! ### Packed fields (R123 to R125) -/

/-- The nibbles of a word, the most significant first. -/
def nibbles (w : W16) : List Nat := [fieldN w 12 4, fieldN w 8 4, fieldN w 4 4, fieldN w 0 4]

/-- A word of a field is valid: digits, and in the last word a sign nibble last (R124). -/
def fieldWordOk (w : W16) (last : Bool) : Bool :=
  (nibbles w).take 3 |>.all (fun d => decide (d ≤ 9)) |>.and
    (if last then decide (9 < fieldN w 0 4) else decide (fieldN w 0 4 ≤ 9))

/-- The first word of a field that holds an invalid nibble. -/
def fieldBad : List W16 → Option Nat
  | [] => none
  | [w] => if fieldWordOk w true then none else some 0
  | w :: rest => if fieldWordOk w false then (fieldBad rest).map (· + 1) else some 0

/-- Words as one number, the first the most significant. -/
def wordsNat (ws : List W16) : Nat := ws.foldl (fun acc w => acc * 65536 + w.toNat) 0
/-- The low n words of a number, the most significant first. -/
def natWords : Nat → Nat → List W16
  | 0, _ => []
  | n + 1, v => natWords n (v / 65536) ++ [BitVec.ofNat 16 v]

/-- A sign nibble is minus (R124). -/
def signMinus (n : Nat) : Bool := n == 0xB || n == 0xD
/-- The value of a valid field (R123, R124). -/
def fieldVal (ws : List W16) : SDec :=
  let v := wordsNat ws
  ⟨signMinus (v % 16), bcdVal (4 * ws.length - 1) (v / 16)⟩
/-- The sign nibble that the device writes (R125). -/
def signNibble (neg psf : Bool) : Nat := if neg then 0xD else if psf then 0xF else 0xC
/-- The field of n words of a value, its high digits lost, with the zero rule of R132. -/
def fieldOf (n : Nat) (d : SDec) (psf zsk : Bool) : List W16 :=
  let m := d.mag % 10 ^ (4 * n - 1)
  natWords n (bcdEnc (4 * n - 1) m * 16 + signNibble (d.neg && !(decide (m = 0) && !zsk)) psf)

/-! ### Arithmetic (R127, R133 to R146) -/

/-- A signed sum before it is cut to 34 digits (R133). -/
def decAdd (a b : SDec) : SDec :=
  if a.neg = b.neg then ⟨a.neg, a.mag + b.mag⟩
  else if b.mag ≤ a.mag then ⟨a.neg, a.mag - b.mag⟩
  else ⟨b.neg, b.mag - a.mag⟩

/-- N and Z of a decimal result. -/
def Flags.decNZ (f : Flags) (d : SDec) : Flags := { f with n := d.neg && decide (d.mag ≠ 0), z := decide (d.mag = 0) }

/-- DADD and DSUB: result and flags (R133). -/
def decSum (f : Flags) (a b : SDec) (zsk : Bool) : SDec × Flags :=
  let t := decAdd a b
  let v := decide (ten34 ≤ t.mag)
  let r := t.low34.zeroSign zsk
  (r, { f.decNZ r with v := v, dc := v })

/-- DCMP (R134). -/
def decCompare (f : Flags) (a b : SDec) : Flags :=
  { f with z := decide (a.toInt = b.toInt), n := decide (a.toInt < b.toInt), c := decide (b.toInt ≤ a.toInt), v := false }

/-- DADDC and DSUBC: magnitudes with the carry or borrow in DC (R136). -/
def decChain (f : Flags) (first sub : Bool) (a b : SDec) : SDec × Flags :=
  let cin := if first then 0 else f.dc.toNat
  let (m, dc) :=
    if sub then
      (if b.mag + cin ≤ a.mag then (a.mag - b.mag - cin, false) else (a.mag + ten34 - b.mag - cin, true))
    else ((a.mag + b.mag + cin) % ten34, decide (ten34 ≤ a.mag + b.mag + cin))
  (⟨false, m⟩, { f with n := false, v := false, dc := dc, z := (first || f.z) && decide (m = 0) })

/-- DMUL: the two parts of the product (R137). -/
def decMul (a b : SDec) (zsk : Bool) : SDec × SDec :=
  let p := (SDec.mk (a.neg != b.neg) (a.mag * b.mag)).zeroSign zsk
  (⟨p.neg, p.mag / ten34⟩, ⟨p.neg, p.mag % ten34⟩)

/-- DDIV by a non-zero divisor: quotient and remainder (R138). -/
def decDiv (a b : SDec) (zsk : Bool) : SDec × SDec :=
  ((SDec.mk (a.neg != b.neg) (a.mag / b.mag)).zeroSign zsk, (SDec.mk a.neg (a.mag % b.mag)).zeroSign zsk)

/-- DSHL by k digits (R141). -/
def decShl (f : Flags) (a : SDec) (k : Nat) (zsk : Bool) : SDec × Flags :=
  let t := a.mag * 10 ^ k
  let v := decide (ten34 ≤ t)
  let r := (SDec.mk a.neg (t % ten34)).zeroSign zsk
  (r, { f.decNZ r with v := v, dc := v })

/-- The rounding table of DSHR (R143): quotient q, remainder r, half h. -/
def decRound (rm : BitVec 3) (q r h : Nat) (neg : Bool) : Nat :=
  let up := match rm.toNat with
    | 0 => false
    | 1 => decide (h ≤ r)
    | 2 => decide (h < r) || (decide (r = h) && decide (q % 2 = 1))
    | 3 => decide (h < r)
    | 4 => decide (r ≠ 0)
    | 5 => decide (r ≠ 0) && !neg
    | _ => decide (r ≠ 0) && neg
  if up then 1 else 0

/-- DSHR by k digits (R142). -/
def decShr (f : Flags) (rm : BitVec 3) (a : SDec) (k : Nat) (zsk : Bool) : SDec × Flags :=
  let q := a.mag / 10 ^ k
  let r := a.mag % 10 ^ k
  let m := if k = 0 then q else q + decRound rm q r (5 * 10 ^ (k - 1)) a.neg
  let d := (SDec.mk a.neg m).zeroSign zsk
  (d, { f.decNZ d with c := decide (r ≠ 0), v := false, dc := false })

/-- DCVB: the integer and its flags (R145). -/
def decToBin (f : Flags) (u : Bool) (a : SDec) : W64 × Flags :=
  let i := a.toInt
  let r := BitVec.ofInt 64 i
  let fits := if u then decide (0 ≤ i) && decide (i < 2 ^ 64) else decide (-(2 ^ 63) ≤ i) && decide (i < 2 ^ 63)
  (r, { f with v := !fits, n := r.msb, z := r == 0#64 })

/-- DCVD (R146). -/
def binToDec (u : Bool) (v : W64) : SDec :=
  if u then ⟨false, v.toNat⟩ else ⟨v.msb, v.toInt.natAbs⟩

/-! ### The instructions -/

/-- Waits while any of some accumulators is busy (R75, R153). -/
def whenA (k : Core) (accs : List AReg) (f : Res) : Res := if accs.any k.aBusy then .hold else f

/-- A data exception of an accumulator (R126, R149). -/
def accData : Res := .exc 0x13 0 0

/-- Reads an accumulator as a fixed-decimal source (R126). -/
def withFixed (k : Core) (a : AReg) (f : SDec → Res) : Res :=
  match (k.ac a).fixed with
  | some d => f d
  | none => accData

/-- The decimal-overflow trap that follows an instruction which sets V while OTE is 1 (R151). -/
def Core.overflowAt (k : Core) (v : Bool) : Core := if v && k.sys.ote then { k with ovf := some k.pc } else k

/-- A result with flags of a two-source instruction at distance 1; a set V may trap (R133, R136). -/
def decRes (s : State) (k : Core) (d : AReg) (r : SDec × Flags) (traps : Bool) : Res :=
  .done s ({ k with fl := r.2 }.overflowAt (traps && r.2.v)) (wrA d r.1.acc 1) .seq

/-- Loads a field of n + 1 words into an accumulator: XAD is EA for placement and bound, the first bad word for a data
exception (R128, R131). -/
def dldAt (d : AReg) (ea : BitVec 40) (n : Fin 8) (s : State) (k : Core) : Res :=
    whenA k [d] (
      let len := n.val + 1
      match localCheck k ea len with
      | some (.exc cause _ lvl) => .exc cause ea lvl
      | some r => r
      | none =>
        readThen k ea.toNat len (fun ws k1 =>
          match fieldBad ws with
          | some j => .exc 0x13 (ea + BitVec.ofNat 40 j) 0
          | none => .done s k1 (wrA d (fieldVal ws).acc 1) .seq))
/-- The own effect of DLD. -/
def bodyDld (d : AReg) (a : GReg) (i : BitVec 16) (n : Fin 8) (s : State) (k : Core) : Res :=
  dldAt d ((k.gr a + i.signExtend 64).setWidth 40) n s k
/-- DLD (R128, R131): XAD is EA for placement and bound, the first bad word for a data exception. -/
def execDld (c : CoreId) (d : AReg) (a : GReg) (i : BitVec 16) (n : Fin 8) (s : State) : Out := issue s c (.dld c d a i n) plain (bodyDld d a i n)

/-- A store of up to 8 words takes one or two store-buffer entries (R82). -/
def Core.storeField (k : Core) (a : Nat) (ws : List W16) : Core :=
  if ws.length ≤ 4 then k.storeLoc a ws else (k.storeLoc a (ws.take 4)).storeLoc (a + 4) (ws.drop 4)

/-- Stores an accumulator as a field of n + 1 words (R128, R132). -/
def dstAt (d : AReg) (ea : BitVec 40) (n : Fin 8) (s : State) (k : Core) : Res :=
    whenA k [d] (
      let len := n.val + 1
      withLocal k ea len (withFixed k d (fun x =>
        let v := decide (10 ^ (4 * len - 1) ≤ x.mag)
        let k1 := k.storeField ea.toNat (fieldOf len x k.sys.psf k.sys.zsk)
        .done s ({ k1 with fl := { k.fl with v := v } }.overflowAt v) [] .seq)))
/-- The own effect of DST. -/
def bodyDst (d : AReg) (a : GReg) (i : BitVec 16) (n : Fin 8) (s : State) (k : Core) : Res :=
  dstAt d ((k.gr a + i.signExtend 64).setWidth 40) n s k
/-- DST (R128, R132). -/
def execDst (c : CoreId) (d : AReg) (a : GReg) (i : BitVec 16) (n : Fin 8) (s : State) : Out := issue s c (.dst c d a i n) plain (bodyDst d a i n)

/-- An instruction with two accumulator sources and one accumulator result at distance 1. -/
def decTwo (d a b : AReg) (traps : Bool) (op : Core → SDec → SDec → SDec × Flags) (s : State) (k : Core) : Res :=
  whenA k [a, b, d] (withFixed k a (fun x => withFixed k b (fun y => decRes s k d (op k x y) traps)))

/-- The own effect of DADD. -/
def bodyDadd (d a b : AReg) (s : State) (k : Core) : Res :=
  decTwo d a b true (fun k x y => decSum k.fl x y k.sys.zsk) s k
/-- DADD (R133). -/
def execDadd (c : CoreId) (d a b : AReg) (s : State) : Out := issue s c (.dadd c d a b) plain (bodyDadd d a b)
/-- The own effect of DSUB. -/
def bodyDsub (d a b : AReg) (s : State) (k : Core) : Res :=
  decTwo d a b true (fun k x y => decSum k.fl x { y with neg := !y.neg } k.sys.zsk) s k
/-- DSUB (R133). -/
def execDsub (c : CoreId) (d a b : AReg) (s : State) : Out := issue s c (.dsub c d a b) plain (bodyDsub d a b)
/-- The own effect of DCMP. -/
def bodyDcmp (a b : AReg) (s : State) (k : Core) : Res :=
    whenA k [a, b] (withFixed k a (fun x => withFixed k b (fun y =>
      .done s { k with fl := decCompare k.fl x y } [] .seq)))
/-- DCMP (R134). -/
def execDcmp (c : CoreId) (a b : AReg) (s : State) : Out := issue s c (.dcmp c a b) plain (bodyDcmp a b)
/-- The own effect of DADDC. -/
def bodyDaddc (first : Bool) (d a b : AReg) (s : State) (k : Core) : Res :=
  decTwo d a b false (fun k x y => decChain k.fl first false x y) s k
/-- DADDC and DADDC.F (R136). -/
def execDaddc (c : CoreId) (first : Bool) (d a b : AReg) (s : State) : Out := issue s c (.daddc c first d a b) plain (bodyDaddc first d a b)
/-- The own effect of DSUBC. -/
def bodyDsubc (first : Bool) (d a b : AReg) (s : State) (k : Core) : Res :=
  decTwo d a b false (fun k x y => decChain k.fl first true x y) s k
/-- DSUBC and DSUBC.F (R136). -/
def execDsubc (c : CoreId) (first : Bool) (d a b : AReg) (s : State) : Out := issue s c (.dsubc c first d a b) plain (bodyDsubc first d a b)

/-- A long op into an accumulator pair: it stalls first, and an odd d is illegal when the stall ends (R102, R130, R153). -/
def decPair (d a b : AReg) (op : Core → SDec → SDec → Option (SDec × SDec)) (s : State) (k : Core) : Res :=
    if d.val % 2 = 1 then whenA k [a, b, d] (.illegal k.pc)
    else
      whenA k [a, b, d, nextAcc d] (withFixed k a (fun x => withFixed k b (fun y =>
        match op k x y with
        | none => .exc 0x14 0 0
        | some (hi, lo) => issueLong s k (.a d) .calc (some (.a2 hi.acc lo.acc)))))
/-- The own effect of DMUL. -/
def bodyDmul (d a b : AReg) (s : State) (k : Core) : Res :=
  decPair d a b (fun k x y => some (decMul x y k.sys.zsk)) s k
/-- DMUL (R137). -/
def execDmul (c : CoreId) (d a b : AReg) (s : State) : Out := issue s c (.dmul c d a b) plain (bodyDmul d a b)
/-- The own effect of DDIV. -/
def bodyDdiv (d a b : AReg) (s : State) (k : Core) : Res :=
  decPair d a b (fun k x y => if y.mag = 0 then none else some (decDiv x y k.sys.zsk)) s k
/-- DDIV (R138). -/
def execDdiv (c : CoreId) (d a b : AReg) (s : State) : Out := issue s c (.ddiv c d a b) plain (bodyDdiv d a b)

/-- The own effect of DSHL. -/
def bodyDshl (d a : AReg) (b : GReg) (s : State) (k : Core) : Res :=
    whenA k [a, d] (withFixed k a (fun x => decRes s k d (decShl k.fl x (fieldN (k.gr b) 0 8) k.sys.zsk) true))
/-- DSHL (R141). -/
def execDshl (c : CoreId) (d a : AReg) (b : GReg) (s : State) : Out := issue s c (.dshl c d a b) plain (bodyDshl d a b)
/-- The own effect of DSHR. -/
def bodyDshr (rm : BitVec 3) (d a : AReg) (b : GReg) (s : State) (k : Core) : Res :=
    if rm = 7#3 then .illegal k.pc
    else
      whenA k [a, d] (withFixed k a (fun x =>
        decRes s k d (decShr k.fl rm x (fieldN (k.gr b) 0 8) k.sys.zsk) false))
/-- DSHR; rounding code 7 is illegal (R142, R143). -/
def execDshr (c : CoreId) (rm : BitVec 3) (d a : AReg) (b : GReg) (s : State) : Out := issue s c (.dshr c rm d a b) plain (bodyDshr rm d a b)

/-- The own effect of DCVB. -/
def bodyDcvb (u : Bool) (d : GReg) (a : AReg) (s : State) (k : Core) : Res :=
    whenA k [a] (withFixed k a (fun x =>
      let (r, fl) := decToBin k.fl u x
      .done s ({ k with fl := fl }.overflowAt fl.v) (wrG d r 3) .seq))
/-- DCVB: distance 3, the flags at once (R145). -/
def execDcvb (c : CoreId) (u : Bool) (d : GReg) (a : AReg) (s : State) : Out := issue s c (.dcvb c u d a) plain (bodyDcvb u d a)
/-- The own effect of DCVD. -/
def bodyDcvd (u : Bool) (d : AReg) (a : GReg) (s : State) (k : Core) : Res :=
  whenA k [d] (.done s k (wrA d (binToDec u (k.gr a)).acc 3) .seq)
/-- DCVD: distance 3 (R146). -/
def execDcvd (c : CoreId) (u : Bool) (d : AReg) (a : GReg) (s : State) : Out := issue s c (.dcvd c u d a) plain (bodyDcvd u d a)

/-- The first of 4 words from va that lies outside a bank (R147, R149). -/
def outOfBank (va : BitVec 40) (lo hi : Nat) : Option (BitVec 40) :=
  ((List.range 4).map (fun i => va + BitVec.ofNat 40 i)).find? (fun x => decide (x.toNat < lo) || decide (hi ≤ x.toNat))

/-- The first exception of a DMAC's operand addresses: placement of X, of Y, then the bounds (R147, R149, R153). -/
def dmacCheck (k : Core) (x y : BitVec 40) : Option Res :=
  match outOfBank x 0 0x4000, outOfBank y 0x4000 0x8000, k.outOfBound x.toNat 4, k.outOfBound y.toNat 4 with
  | some e, _, _, _ => some (.exc 0x03 e 0)
  | none, some e, _, _ => some (.exc 0x03 e 0)
  | none, none, some e, _ => some (.exc 0x04 e 0)
  | none, none, none, some e => some (.exc 0x04 e 0)
  | none, none, none, none => none

/-- The own effect of DMAC. Bits [63:40] of Ga and Gb do not count (R147; DESIGN CHOICE, notes/assumptions/164.md). -/
def bodyDmac (ia ib n : Bool) (d : AReg) (a b : GReg) (s : State) (k : Core) : Res :=
    whenA k [d] (
      let x : BitVec 40 := (k.gr a).setWidth 40
      let y : BitVec 40 := (k.gr b).setWidth 40
      match dmacCheck k x y with
      | some r => r
      | none =>
        readThen k x.toNat 4 (fun wx k2 => readThen k2 y.toNat 4 (fun wy k1 =>
          match fieldBad wx, fieldBad wy with
          | some j, _ => .exc 0x13 (x + BitVec.ofNat 40 j) 0
          | none, some j => .exc 0x13 (y + BitVec.ofNat 40 j) 0
          | none, none => withFixed k d (fun acc =>
            let fx := fieldVal wx
            let fy := fieldVal wy
            let p : SDec := ⟨(fx.neg != fy.neg) != n, fx.mag * fy.mag⟩
            let r := (decAdd acc p).low34.zeroSign k.sys.zsk
            .done s k1 (wrA d r.acc 3
              ++ (if ia then wrG a (k.gr a + 4#64) else [])
              ++ (if ib then wrG b (k.gr b + 4#64) else [])) .seq))))
/-- DMAC (R147 to R149). -/
def execDmac (c : CoreId) (ia ib n : Bool) (d : AReg) (a b : GReg) (s : State) : Out := issue s c (.dmac c ia ib n d a b) plain (bodyDmac ia ib n d a b)

end Sys2Proof.Machine
end

