-- ==== Sys2Proof/Machine/Binary64.lean ====
section
/-!
DEFINITION. Rounding, the flags and trap requests of floating operations, and the binary64 operations of major 0x60
(07_floating_point.md).
-/
namespace Sys2Proof.Machine

/-! ### Rounding (R50, R197) and flags (R50, R205, R206) -/

/-- The rounding modes. -/
inductive RMode where
  | ne | na | tz | up | dn
deriving DecidableEq, Repr

/-- The mode of BRM: codes 1, 5, 6 and 7 round to nearest-even (R50). -/
def brmMode (v : BitVec 3) : RMode := match v.toNat with | 2 => .tz | 3 => .up | 4 => .dn | _ => .ne
/-- The mode of DRM: codes 5, 6 and 7 round to nearest-even (R50). -/
def drmMode (v : BitVec 3) : RMode := match v.toNat with | 1 => .na | 2 => .tz | 3 => .up | 4 => .dn | _ => .ne

/-- A magnitude q with the remainder r of modulus m rounds away from zero. -/
def roundsUp (rm : RMode) (neg : Bool) (q r m : Nat) : Bool :=
  match rm with
  | .ne => decide (m < 2 * r) || (decide (2 * r = m) && decide (q % 2 = 1))
  | .na => decide (m ≤ 2 * r)
  | .tz => false
  | .up => decide (r ≠ 0) && !neg
  | .dn => decide (r ≠ 0) && neg
/-- n / m rounded to an integer. -/
def roundDiv (rm : RMode) (neg : Bool) (n m : Nat) : Nat :=
  n / m + (if roundsUp rm neg (n / m) (n % m) m then 1 else 0)

/-- An overflow goes to infinity rather than to the largest finite value (R197). -/
def overflowsToInf (rm : RMode) (neg : Bool) : Bool :=
  match rm with
  | .ne => true | .na => true | .tz => false | .up => !neg | .dn => neg

/-- The flags in the order of FPC.EN and FPC.SF (R50). -/
def fpI : BitVec 5 := 1
def fpZ : BitVec 5 := 2
def fpO : BitVec 5 := 4
def fpU : BitVec 5 := 8
def fpX : BitVec 5 := 16
/-- The inexact flag, when it is raised. -/
def fpXif (b : Bool) : BitVec 5 := if b then fpX else 0

/-- What a floating operation raises: its flags and its trap request, with the enables at issue (R205, R206). -/
def fpRaise (k : Core) (w0 : W16) (flags : BitVec 5) : FpRaise :=
  let causes := flags &&& k.sys.fpen
  ⟨flags, if causes = 0#5 then none else some ⟨causes, k.pc, w0, k.icount⟩⟩
/-- The flags and the request of an in-pipe operation of distance d in flight. -/
def fpOwn (k : Core) (w0 : W16) (flags : BitVec 5) (d : Nat) : List Flight :=
  if flags = 0#5 then [] else let r := fpRaise k w0 flags; [⟨.fp r.flags r.req, d⟩]
/-- Issues a floating long op. -/
def issueFp (s : State) (k : Core) (d : LDest) (res : LRes) (w0 : W16) (flags : BitVec 5) : Res :=
  .done s.stamped (k.addLong ⟨d, .calc, s.stamp, some s.entryNow, some res, some (fpRaise k w0 flags)⟩) [] .seq

/-- Integer square root of a number below 4^b. -/
def isqrt (n : Nat) : Nat → Nat
  | 0 => 0
  | b + 1 =>
    let r := 2 * isqrt (n / 4) b
    if (r + 1) * (r + 1) ≤ n then r + 1 else r

/-- 2^i, or 1 for a negative i. -/
def pow2 (i : Int) : Nat := 2 ^ i.toNat
/-- A signed magnitude. -/
def signedOf (neg : Bool) (m : Nat) : Int := if neg then -(m : Int) else m

/-! ### binary64 values (R186) -/

/-- What a binary64 operand is. A finite one is ± m × 2^e. -/
inductive BVal where
  | snan | qnan
  | inf (neg : Bool)
  | fin (neg : Bool) (m : Nat) (e : Int)
deriving DecidableEq, Repr

/-- Reads a binary64 operand (R186). -/
def bvalOf (v : W64) : BVal :=
  let ex := fieldN v 52 11
  let fr := fieldN v 0 52
  if ex = 0x7FF then (if fr = 0 then .inf v.msb else if fr / 2 ^ 51 = 1 then .qnan else .snan)
  else if ex = 0 then .fin v.msb fr (-1074)
  else .fin v.msb (2 ^ 52 + fr) ((ex : Int) - 1075)

/-- A signed binary64 pattern. -/
def bsign (neg : Bool) (m : Nat) : W64 := BitVec.ofBool neg ++ BitVec.ofNat 63 m
/-- Infinity, the largest finite value and the canonical NaN (R195, R203). -/
def binf (neg : Bool) : W64 := bsign neg 0x7FF0000000000000
def bmax (neg : Bool) : W64 := bsign neg 0x7FEFFFFFFFFFFFFF
def bnan : W64 := 0x7FF8000000000000#64

/-- A result with its flags. -/
abbrev BRes := W64 × BitVec 5
/-- The canonical NaN with invalid. -/
def bInvalid : BRes := (bnan, fpI)

/-- Rounds ± m × 2^e, a non-zero exact value, to binary64 (R194, R197, R198). -/
def bround (rm : RMode) (neg : Bool) (m : Nat) (e : Int) : BRes :=
  let top := e + (Nat.log2 m : Int)
  let qu := top - 52
  let q := if qu < -1074 then -1074 else qu
  if q ≤ e ∧ top ≤ 1023 then (bsign neg ((q + 1074).toNat * 2 ^ 52 + m * pow2 (e - q)), 0)
  else
    let mant := if q ≤ e then m * pow2 (e - q) else roundDiv rm neg m (pow2 (q - e))
    let inexact := decide (e < q) && decide (m % pow2 (q - e) ≠ 0)
    let mantU := if qu ≤ e then 2 ^ 52 else roundDiv rm neg m (pow2 (qu - e))
    let tiny := decide (top + (if mantU = 2 ^ 53 then 1 else 0) < -1022)
    let bits := (q + 1074).toNat * 2 ^ 52 + mant
    if 0x7FF0000000000000 ≤ bits then (if overflowsToInf rm neg then binf neg else bmax neg, fpO ||| fpX)
    else (bsign neg bits, fpXif inexact ||| (if tiny && inexact then fpU else 0))

/-- A signed sum n × 2^e, where an exact zero takes the sign given. -/
def broundInt (rm : RMode) (n : Int) (e : Int) (zeroNeg : Bool) : BRes :=
  if n = 0 then (bsign zeroNeg 0, 0) else bround rm (decide (n < 0)) n.natAbs e

/-- The sign of an exact zero sum: the operands' common sign, else plus but minus when rounding down (R199). -/
def zeroSumNeg (rm : RMode) (a b : Bool) : Bool := if a = b then a else decide (rm = .dn)

/-- The sum of two finite values. -/
def baddFin (rm : RMode) (na : Bool) (ma : Nat) (ea : Int) (nb : Bool) (mb : Nat) (eb : Int) : BRes :=
  let e := if ea ≤ eb then ea else eb
  broundInt rm (signedOf na (ma * pow2 (ea - e)) + signedOf nb (mb * pow2 (eb - e))) e (zeroSumNeg rm na nb)

/-- FADD (R190, R199). -/
def badd (rm : RMode) (x y : BVal) : BRes :=
  match x, y with
  | .snan, _ => bInvalid
  | _, .snan => bInvalid
  | .qnan, _ => (bnan, 0)
  | _, .qnan => (bnan, 0)
  | .inf a, .inf b => if a = b then (binf a, 0) else bInvalid
  | .inf a, .fin _ _ _ => (binf a, 0)
  | .fin _ _ _, .inf b => (binf b, 0)
  | .fin na ma ea, .fin nb mb eb => baddFin rm na ma ea nb mb eb

/-- A value with its sign changed; a NaN stays itself. -/
def BVal.negate : BVal → BVal
  | .inf a => .inf (!a)
  | .fin a m e => .fin (!a) m e
  | v => v

/-- FMUL. -/
def bmul (rm : RMode) (x y : BVal) : BRes :=
  match x, y with
  | .snan, _ => bInvalid
  | _, .snan => bInvalid
  | .qnan, _ => (bnan, 0)
  | _, .qnan => (bnan, 0)
  | .inf a, .inf b => (binf (a != b), 0)
  | .inf a, .fin b m _ => if m = 0 then bInvalid else (binf (a != b), 0)
  | .fin a m _, .inf b => if m = 0 then bInvalid else (binf (a != b), 0)
  | .fin na ma ea, .fin nb mb eb =>
    if ma = 0 ∨ mb = 0 then (bsign (na != nb) 0, 0) else bround rm (na != nb) (ma * mb) (ea + eb)

/-- FMA: x × y + z with one rounding. -/
def bfma (rm : RMode) (x y z : BVal) : BRes :=
  let zeroInf := match x, y with
    | .fin _ 0 _, .inf _ => true
    | .inf _, .fin _ 0 _ => true
    | _, _ => false
  match x, y, z with
  | .snan, _, _ => bInvalid
  | _, .snan, _ => bInvalid
  | _, _, .snan => bInvalid
  | .qnan, _, _ => (bnan, 0)
  | _, .qnan, _ => (bnan, 0)
  | _, _, .qnan => (bnan, if zeroInf then fpI else 0)
  | .fin na ma ea, .fin nb mb eb, .fin nc mc ec => baddFin rm (na != nb) (ma * mb) (ea + eb) nc mc ec
  | .fin _ _ _, .fin _ _ _, .inf c => (binf c, 0)
  | .fin na _ _, .inf b, .fin _ _ _ => if zeroInf then bInvalid else (binf (na != b), 0)
  | .inf a, .fin nb _ _, .fin _ _ _ => if zeroInf then bInvalid else (binf (a != nb), 0)
  | .inf a, .inf b, .fin _ _ _ => (binf (a != b), 0)
  | .fin na _ _, .inf b, .inf c => if zeroInf || (na != b) != c then bInvalid else (binf c, 0)
  | .inf a, .fin nb _ _, .inf c => if zeroInf || (a != nb) != c then bInvalid else (binf c, 0)
  | .inf a, .inf b, .inf c => if (a != b) != c then bInvalid else (binf c, 0)

/-- FDIV. -/
def bdiv (rm : RMode) (x y : BVal) : BRes :=
  match x, y with
  | .snan, _ => bInvalid
  | _, .snan => bInvalid
  | .qnan, _ => (bnan, 0)
  | _, .qnan => (bnan, 0)
  | .inf _, .inf _ => bInvalid
  | .inf a, .fin b _ _ => (binf (a != b), 0)
  | .fin a _ _, .inf b => (bsign (a != b) 0, 0)
  | .fin na ma ea, .fin nb mb eb =>
    if mb = 0 then (if ma = 0 then bInvalid else (binf (na != nb), fpZ))
    else if ma = 0 then (bsign (na != nb) 0, 0)
    else
      let n := ma * 2 ^ 120
      bround rm (na != nb) (n / mb * 2 + (if n % mb = 0 then 0 else 1)) (ea - eb - 121)

/-- FSQRT. -/
def bsqrt (rm : RMode) (x : BVal) : BRes :=
  match x with
  | .snan => bInvalid
  | .qnan => (bnan, 0)
  | .inf a => if a then bInvalid else (binf false, 0)
  | .fin neg m e =>
    if m = 0 then (bsign neg 0, 0)
    else if neg then bInvalid
    else
      let sh : Nat := if e % 2 = 0 then 120 else 121
      let n := m * 2 ^ sh
      let r := isqrt n 96
      bround rm false (r * 2 + (if r * r = n then 0 else 1)) ((e - (sh : Int)) / 2 - 1)

/-- The order of two values: none where they are unordered. -/
def bcmp (x y : BVal) : Option Ordering :=
  match x, y with
  | .inf a, .inf b => some (if a = b then .eq else if a then .lt else .gt)
  | .inf a, .fin _ _ _ => some (if a then .lt else .gt)
  | .fin _ _ _, .inf b => some (if b then .gt else .lt)
  | .fin na ma ea, .fin nb mb eb =>
    let e := if ea ≤ eb then ea else eb
    some (compare (signedOf na (ma * pow2 (ea - e))) (signedOf nb (mb * pow2 (eb - e))))
  | _, _ => none

/-- FL after a floating comparison (R202). -/
def Flags.fpOrder (f : Flags) : Option Ordering → Flags
  | some .lt => { f with n := true, z := false, c := false, v := false }
  | some .eq => { f with n := false, z := true, c := true, v := false }
  | some .gt => { f with n := false, z := false, c := true, v := false }
  | none => { f with n := false, z := false, c := false, v := true }

/-- A value rounded to an integer magnitude, and whether it was not one. -/
def bint (rm : RMode) (neg : Bool) (m : Nat) (e : Int) : Nat × Bool :=
  if 0 ≤ e then (m * pow2 e, false) else (roundDiv rm neg m (pow2 (-e)), decide (m % pow2 (-e) ≠ 0))

/-- FCVTI saturated by sign with invalid (R199). -/
def cvtOut (neg : Bool) : BRes := (if neg then 0x8000000000000000#64 else 0x7FFFFFFFFFFFFFFF#64, fpI)

/-- FCVTI. -/
def bcvti (rm : RMode) (x : BVal) : BRes :=
  match x with
  | .snan => (0x8000000000000000#64, fpI)
  | .qnan => (0x8000000000000000#64, 0)
  | .inf neg => cvtOut neg
  | .fin neg m e =>
    let (i, inexact) := bint rm neg m e
    if (if neg then decide (2 ^ 63 < i) else decide (2 ^ 63 ≤ i)) then cvtOut neg
    else (BitVec.ofInt 64 (signedOf neg i), fpXif inexact)

/-- FCVTF. -/
def bcvtf (rm : RMode) (v : W64) : BRes := broundInt rm v.toInt 0 false

/-- FRINT. -/
def brint (rm : RMode) (x : BVal) : BRes :=
  match x with
  | .snan => bInvalid
  | .qnan => (bnan, 0)
  | .inf neg => (binf neg, 0)
  | .fin neg m e =>
    let (i, inexact) := bint rm neg m e
    (if i = 0 then bsign neg 0 else (bround rm neg i 0).1, fpXif inexact)

/-! ### The instructions (R190, R193) -/

/-- Word 0 of a binary64 operation. -/
def bWord (x : Nat) : W16 := BitVec.ofNat 16 (0x6000 + x)

/-- An in-pipe binary64 operation with a G result: distance 3. -/
def bop (x : Nat) (d : GReg) (f : RMode → Core → BRes) (s : State) (k : Core) : Res :=
  let (r, fl) := f (brmMode k.sys.brm) k
  .done s k (wrG d r 3 ++ fpOwn k (bWord x) fl 3) .seq
/-- A binary64 long op into an L register. -/
def blong (x : Nat) (l : LRegId) (f : RMode → Core → BRes) (s : State) (k : Core) : Res :=
  whenL k l (let (r, fl) := f (brmMode k.sys.brm) k
             issueFp s k (.l l) (.l r false) (bWord x) fl)

/-- The own effect of FADD. -/
def bodyFadd (d a b : GReg) (s : State) (k : Core) : Res :=
  bop 0 d (fun rm k => badd rm (bvalOf (k.gr a)) (bvalOf (k.gr b))) s k
/-- FADD. -/
def execFadd (c : CoreId) (d a b : GReg) (s : State) : Out := issue s c (.fadd c d a b) plain (bodyFadd d a b)
/-- The own effect of FSUB. -/
def bodyFsub (d a b : GReg) (s : State) (k : Core) : Res :=
  bop 1 d (fun rm k => badd rm (bvalOf (k.gr a)) (bvalOf (k.gr b)).negate) s k
/-- FSUB: a − b is a + (−b) (R203). -/
def execFsub (c : CoreId) (d a b : GReg) (s : State) : Out := issue s c (.fsub c d a b) plain (bodyFsub d a b)
/-- The own effect of FMUL. -/
def bodyFmul (d a b : GReg) (s : State) (k : Core) : Res :=
  bop 2 d (fun rm k => bmul rm (bvalOf (k.gr a)) (bvalOf (k.gr b))) s k
/-- FMUL. -/
def execFmul (c : CoreId) (d a b : GReg) (s : State) : Out := issue s c (.fmul c d a b) plain (bodyFmul d a b)
/-- The own effect of FMA. -/
def bodyFma (d a b : GReg) (s : State) (k : Core) : Res :=
  bop 3 d (fun rm k => bfma rm (bvalOf (k.gr a)) (bvalOf (k.gr b)) (bvalOf (k.gr d))) s k
/-- FMA. -/
def execFma (c : CoreId) (d a b : GReg) (s : State) : Out := issue s c (.fma c d a b) plain (bodyFma d a b)
/-- The own effect of FDIV. -/
def bodyFdiv (l : LRegId) (a b : GReg) (s : State) (k : Core) : Res :=
  blong 4 l (fun rm k => bdiv rm (bvalOf (k.gr a)) (bvalOf (k.gr b))) s k
/-- FDIV. -/
def execFdiv (c : CoreId) (l : LRegId) (a b : GReg) (s : State) : Out := issue s c (.fdiv c l a b) plain (bodyFdiv l a b)
/-- The own effect of FSQRT. -/
def bodyFsqrt (l : LRegId) (a : GReg) (s : State) (k : Core) : Res :=
  blong 5 l (fun rm k => bsqrt rm (bvalOf (k.gr a))) s k
/-- FSQRT. -/
def execFsqrt (c : CoreId) (l : LRegId) (a : GReg) (s : State) : Out := issue s c (.fsqrt c l a) plain (bodyFsqrt l a)
/-- The own effect of FCMP. -/
def bodyFcmp (a b : GReg) (s : State) (k : Core) : Res :=
  simple (fun k =>
    let x := bvalOf (k.gr a)
    let y := bvalOf (k.gr b)
    ({ k with fl := k.fl.fpOrder (bcmp x y) }, fpOwn k (bWord 6) (if x = .snan ∨ y = .snan then fpI else 0) 0)) s k
/-- FCMP: flags at once (R202). -/
def execFcmp (c : CoreId) (a b : GReg) (s : State) : Out := issue s c (.fcmp c a b) plain (bodyFcmp a b)
/-- The own effect of FCVTI. -/
def bodyFcvti (d a : GReg) (s : State) (k : Core) : Res :=
  bop 7 d (fun rm k => bcvti rm (bvalOf (k.gr a))) s k
/-- FCVTI. -/
def execFcvti (c : CoreId) (d a : GReg) (s : State) : Out := issue s c (.fcvti c d a) plain (bodyFcvti d a)
/-- The own effect of FCVTF. -/
def bodyFcvtf (d a : GReg) (s : State) (k : Core) : Res :=
  bop 8 d (fun rm k => bcvtf rm (k.gr a)) s k
/-- FCVTF. -/
def execFcvtf (c : CoreId) (d a : GReg) (s : State) : Out := issue s c (.fcvtf c d a) plain (bodyFcvtf d a)
/-- The own effect of FRINT. -/
def bodyFrint (d a : GReg) (s : State) (k : Core) : Res :=
  bop 9 d (fun rm k => brint rm (bvalOf (k.gr a))) s k
/-- FRINT. -/
def execFrint (c : CoreId) (d a : GReg) (s : State) : Out := issue s c (.frint c d a) plain (bodyFrint d a)

end Sys2Proof.Machine
end

