-- ==== Sys2Proof/Machine/Decimal128.lean ====
section
/-!
DEFINITION. The decimal128 operations of major 0x61 and the densely packed encoding (07_floating_point.md).
-/
namespace Sys2Proof.Machine

/-! ### Values (R187, R189, R195) -/

/-- What a decimal128 operand or result is. A finite one is ± c × 10^e. -/
inductive DVal where
  | snan | qnan
  | inf (neg : Bool)
  | fin (neg : Bool) (c : Nat) (e : Int)
  /-- a zero whose exponent the spec leaves open: finite ÷ infinity -/
  | zeroOpen (neg : Bool)
deriving DecidableEq, Repr

/-- An exponent is in the range of the format (R187). -/
def dqRange (e : Int) : Bool := decide (-6176 ≤ e) && decide (e ≤ 6111)

/-- Reads a source accumulator; none is a data exception (R45, R189). -/
def Acc.dval (a : Acc) : Option DVal :=
  if !bcdOk 34 a.dig.toNat then none
  else
    match a.tag.toNat with
    | 2 => some (.inf a.sign)
    | 3 => some .qnan
    | 0 => some (if dqRange a.exp.toInt then .fin a.sign (bcdVal 34 a.dig.toNat) a.exp.toInt else .snan)
    | 1 => some (if dqRange a.exp.toInt then .fin a.sign (bcdVal 34 a.dig.toNat) a.exp.toInt else .snan)
    | _ => some .snan

/-- The canonical quiet NaN (R195). -/
def dqNaN : Acc := ⟨false, 3, 0, 0⟩

/-- A result as an accumulator. The EXP of an infinity and the exponent of finite ÷ infinity are open: a free value. -/
def DVal.acc (v : DVal) (free : W64) : Acc :=
  match v with
  | .snan => dqNaN
  | .qnan => dqNaN
  | .inf neg => ⟨neg, 2, free.setWidth 16, 0⟩
  | .fin neg c e => ⟨neg, 1, BitVec.ofInt 16 e, BitVec.ofNat 136 (bcdEnc 34 c)⟩
  | .zeroOpen neg => ⟨neg, 1, BitVec.ofInt 16 ((free.toNat % 12288 : Nat) - 6176), 0⟩

/-- The value uses the free value. -/
def DVal.isOpen : DVal → Bool
  | .inf _ => true
  | .zeroOpen _ => true
  | _ => false

/-- A result with its flags. -/
abbrev DRes := DVal × BitVec 5
/-- The canonical NaN with invalid. -/
def dInvalid : DRes := (.qnan, fpI)

/-! ### Rounding (R196 to R198) -/

/-- The number of decimal digits of a number. -/
def decLen (n : Nat) : Nat :=
  if n = 0 then 0
  else
    let t := Nat.log2 n * 30103 / 100000
    if n < 10 ^ t then t else if n < 10 ^ (t + 1) then t + 1 else t + 2

/-- Limits an exponent to the range of the format. -/
def dqClamp (e : Int) : Int := if e < -6176 then -6176 else if 6111 < e then 6111 else e

/-- Removes trailing zeros, at most n of them. -/
def stripZeros (c : Nat) (e : Int) : Nat → Nat × Int
  | 0 => (c, e)
  | n + 1 => if c % 10 = 0 then stripZeros (c / 10) (e + 1) n else (c, e)

/-- 10^i, or 1 for a negative i. -/
def pow10 (i : Int) : Nat := 10 ^ i.toNat

/-- The overflowed result of a mode (R197). -/
def dqOverflow (rm : RMode) (neg : Bool) : DRes :=
  (if overflowsToInf rm neg then .inf neg else .fin neg (ten34 - 1) 6111, fpO ||| fpX)

/-- An exact non-zero coefficient of at most 34 digits takes the exponent nearest to the preferred one (R196). -/
def dqExact (rm : RMode) (neg : Bool) (c : Nat) (e pref : Int) : DRes :=
  if pref < e ∨ 6111 < e then
    let lowest := e - (34 - decLen c : Nat)
    let want := if 6111 < pref then 6111 else pref
    let t := if want < lowest then lowest else want
    let t := if t < -6176 then -6176 else t
    if 6111 < t then dqOverflow rm neg else (.fin neg (c * pow10 (e - t)) t, 0)
  else
    let most := if 6111 < pref then 6111 else pref
    let (c1, e1) := stripZeros c e (min (most - e).toNat 34)
    (.fin neg c1 e1, 0)

/-- Rounds ± c × 10^e to decimal128, with the preferred exponent of an exact result (R194, R196 to R198). -/
def dqRound (rm : RMode) (neg : Bool) (c : Nat) (e pref : Int) : DRes :=
  if c = 0 then (.fin neg 0 (dqClamp pref), 0)
  else
    let n : Int := decLen c
    let qu := e + n - 34
    let q := if qu < -6176 then -6176 else qu
    if q ≤ e then dqExact rm neg c e pref
    else
      let m := pow10 (q - e)
      if c % m = 0 then dqExact rm neg (c / m) q pref
      else
        let r := roundDiv rm neg c m
        let carryU := decide (e < qu) && roundDiv rm neg c (pow10 (qu - e)) == ten34
        let tiny := decide (e + n - 1 + (if carryU then 1 else 0) < -6143)
        let (r1, q1) := if r = ten34 then (r / 10, q + 1) else (r, q)
        if 6111 < q1 then dqOverflow rm neg else (.fin neg r1 q1, fpX ||| (if tiny then fpU else 0))

/-- A signed sum n × 10^e. -/
def dqRoundInt (rm : RMode) (n : Int) (e pref : Int) (zeroNeg : Bool) : DRes :=
  if n = 0 then (.fin zeroNeg 0 (dqClamp pref), 0) else dqRound rm (decide (n < 0)) n.natAbs e pref

/-! ### Operations (R191, R196, R199) -/

/-- DQADD. -/
def dqadd (rm : RMode) (x y : DVal) : DRes :=
  match x, y with
  | .snan, _ => dInvalid
  | _, .snan => dInvalid
  | .qnan, _ => (.qnan, 0)
  | _, .qnan => (.qnan, 0)
  | .inf a, .inf b => if a = b then (.inf a, 0) else dInvalid
  | .inf a, _ => (.inf a, 0)
  | _, .inf b => (.inf b, 0)
  | .fin na ca ea, .fin nb cb eb =>
    let e := if ea ≤ eb then ea else eb
    dqRoundInt rm (signedOf na (ca * pow10 (ea - e)) + signedOf nb (cb * pow10 (eb - e))) e e (zeroSumNeg rm na nb)
  | _, _ => (.qnan, 0)

/-- A value with its sign changed. -/
def DVal.negate : DVal → DVal
  | .inf a => .inf (!a)
  | .fin a c e => .fin (!a) c e
  | v => v

/-- DQMUL. -/
def dqmul (rm : RMode) (x y : DVal) : DRes :=
  match x, y with
  | .snan, _ => dInvalid
  | _, .snan => dInvalid
  | .qnan, _ => (.qnan, 0)
  | _, .qnan => (.qnan, 0)
  | .inf a, .inf b => (.inf (a != b), 0)
  | .inf a, .fin b c _ => if c = 0 then dInvalid else (.inf (a != b), 0)
  | .fin a c _, .inf b => if c = 0 then dInvalid else (.inf (a != b), 0)
  | .fin na ca ea, .fin nb cb eb => dqRound rm (na != nb) (ca * cb) (ea + eb) (ea + eb)
  | _, _ => (.qnan, 0)

/-- DQDIV. -/
def dqdiv (rm : RMode) (x y : DVal) : DRes :=
  match x, y with
  | .snan, _ => dInvalid
  | _, .snan => dInvalid
  | .qnan, _ => (.qnan, 0)
  | _, .qnan => (.qnan, 0)
  | .inf _, .inf _ => dInvalid
  | .inf a, .fin b _ _ => (.inf (a != b), 0)
  | .fin a _ _, .inf b => (.zeroOpen (a != b), 0)
  | .fin na ca ea, .fin nb cb eb =>
    if cb = 0 then (if ca = 0 then dInvalid else (.inf (na != nb), fpZ))
    else if ca = 0 then (.fin (na != nb) 0 (dqClamp (ea - eb)), 0)
    else
      let n := ca * 10 ^ 72
      if n % cb = 0 then dqRound rm (na != nb) (n / cb) (ea - eb - 72) (ea - eb)
      else dqRound rm (na != nb) (n / cb * 10 + 1) (ea - eb - 73) (ea - eb)
  | _, _ => (.qnan, 0)

/-- DQSQRT. -/
def dqsqrt (rm : RMode) (x : DVal) : DRes :=
  match x with
  | .snan => dInvalid
  | .qnan => (.qnan, 0)
  | .zeroOpen neg => (.zeroOpen neg, 0)
  | .inf neg => if neg then dInvalid else (.inf false, 0)
  | .fin neg c e =>
    let pref := e / 2
    if c = 0 then (.fin neg 0 pref, 0)
    else if neg then dInvalid
    else
      let sh : Nat := if e % 2 = 0 then 72 else 73
      let n := c * 10 ^ sh
      let r := isqrt n 192
      let h := (e - (sh : Int)) / 2
      if r * r = n then dqRound rm false r h pref else dqRound rm false (r * 10 + 1) (h - 1) pref

/-- The order of two values (R202). -/
def dqcmp (x y : DVal) : Option Ordering :=
  match x, y with
  | .inf a, .inf b => some (if a = b then .eq else if a then .lt else .gt)
  | .inf a, .fin _ _ _ => some (if a then .lt else .gt)
  | .fin _ _ _, .inf b => some (if b then .gt else .lt)
  | .fin na ca ea, .fin nb cb eb =>
    let e := if ea ≤ eb then ea else eb
    some (compare (signedOf na (ca * pow10 (ea - e))) (signedOf nb (cb * pow10 (eb - e))))
  | _, _ => none

/-- A value rounded to an integer magnitude, and whether it was not one. -/
def dqInt (rm : RMode) (neg : Bool) (c : Nat) (e : Int) : Nat × Bool :=
  if 0 ≤ e then (c * pow10 e, false) else (roundDiv rm neg c (pow10 (-e)), decide (c % pow10 (-e) ≠ 0))

/-- DQRINT (R196, R203). -/
def dqrint (rm : RMode) (x : DVal) : DRes :=
  match x with
  | .snan => dInvalid
  | .fin neg c e =>
    if 0 ≤ e then (x, 0)
    else
      let (i, inexact) := dqInt rm neg c e
      (.fin neg i 0, fpXif inexact)
  | _ => (x, 0)

/-- DQQUANT: the value of x with the exponent of y (R199, R203). -/
def dqquant (rm : RMode) (x y : DVal) : DRes :=
  match x, y with
  | .snan, _ => dInvalid
  | _, .snan => dInvalid
  | .qnan, _ => (.qnan, 0)
  | _, .qnan => (.qnan, 0)
  | .inf a, .inf _ => (.inf a, 0)
  | .fin na ca ea, .fin _ _ eb =>
    if eb ≤ ea then
      let c := ca * pow10 (ea - eb)
      if ten34 ≤ c then dInvalid else (.fin na c eb, 0)
    else (.fin na (roundDiv rm na ca (pow10 (eb - ea))) eb, fpXif (decide (ca % pow10 (eb - ea) ≠ 0)))
  | _, _ => dInvalid

/-- DQFIX: a fixed-decimal accumulator, or the canonical NaN (R199, R200). -/
def dqfix (rm : RMode) (x : DVal) : Acc × BitVec 5 :=
  match x with
  | .snan => (dqNaN, fpI)
  | .qnan => (dqNaN, 0)
  | .fin neg c e =>
    let (i, inexact) := dqInt rm neg c e
    if ten34 ≤ i then (dqNaN, fpI) else ((SDec.mk neg i).acc, fpXif inexact)
  | _ => (dqNaN, fpI)

/-- DQFLT: a finite source keeps its other fields, and an infinity all of them (R199; for the infinity DESIGN CHOICE,
notes/assumptions/206.md). -/
def dqflt (a : Acc) (x : DVal) : Acc × BitVec 5 :=
  match x with
  | .snan => (dqNaN, fpI)
  | .qnan => (dqNaN, 0)
  | .inf _ => (a, 0)
  | _ => ({ a with tag := 1 }, 0)

/-! ### Densely packed decimal (R188, R201) -/

/-- Bit i of a number as 0 or 1. -/
def nbit (v i : Nat) : Nat := v / 2 ^ i % 2

/-- The three digits of a declet. -/
def decletDec (v : Nat) : Nat × Nat × Nat :=
  let pqr := v / 128 % 8
  let stu := v / 16 % 8
  let wxy := v % 8
  let r := nbit v 7
  let u := nbit v 4
  let y := nbit v 0
  let pq := v / 256 % 4
  let st := v / 32 % 4
  if nbit v 3 = 0 then (pqr, stu, wxy)
  else
    match v / 2 % 4 with
    | 0 => (pqr, stu, 8 + y)
    | 1 => (pqr, 8 + u, st * 2 + y)
    | 2 => (8 + r, stu, pq * 2 + y)
    | _ =>
      match st with
      | 0 => (8 + r, 8 + u, pq * 2 + y)
      | 1 => (8 + r, pq * 2 + u, 8 + y)
      | 2 => (pqr, 8 + u, 8 + y)
      | _ => (8 + r, 8 + u, 8 + y)

/-- A declet from its bit groups. -/
def declet (pq r st u v wx y : Nat) : Nat := pq * 256 + r * 128 + st * 32 + u * 16 + v * 8 + wx * 2 + y

/-- The canonical declet of three digits. -/
def decletEnc (a b c : Nat) : Nat :=
  match decide (8 ≤ a), decide (8 ≤ b), decide (8 ≤ c) with
  | false, false, false => declet (a / 2) (a % 2) (b / 2) (b % 2) 0 (c / 2) (c % 2)
  | false, false, true => declet (a / 2) (a % 2) (b / 2) (b % 2) 1 0 (c % 2)
  | false, true, false => declet (a / 2) (a % 2) (c / 2) (b % 2) 1 1 (c % 2)
  | true, false, false => declet (c / 2) (a % 2) (b / 2) (b % 2) 1 2 (c % 2)
  | true, true, false => declet (c / 2) (a % 2) 0 (b % 2) 1 3 (c % 2)
  | true, false, true => declet (b / 2) (a % 2) 1 (b % 2) 1 3 (c % 2)
  | false, true, true => declet (a / 2) (a % 2) 2 (b % 2) 1 3 (c % 2)
  | true, true, true => declet 0 (a % 2) 3 (b % 2) 1 3 (c % 2)

/-- n declets, the least significant first, as BCD nibbles. -/
def decletsDec : Nat → Nat → Nat
  | 0, _ => 0
  | n + 1, v =>
    let (a, b, c) := decletDec (v % 1024)
    decletsDec n (v / 1024) * 4096 + a * 256 + b * 16 + c
/-- 3 n BCD nibbles as n declets. -/
def decletsEnc : Nat → Nat → Nat
  | 0, _ => 0
  | n + 1, v => decletsEnc n (v / 4096) * 1024 + decletEnc (v / 256 % 16) (v / 16 % 16) (v % 16)

/-- Decodes 8 words (R188, R201). The EXP of an infinity or a NaN is open: a free value. -/
def dpdDecode (ws : List W16) (free : W64) : Acc × Bool :=
  let v := wordsNat ws
  let sign := nbit v 127 = 1
  let g := v / 2 ^ 122 % 32
  let cont := v / 2 ^ 110 % 4096
  let low := decletsDec 11 (v % 2 ^ 110)
  if g = 31 then (⟨sign, if nbit v 121 = 1 then 4 else 3, free.setWidth 16, BitVec.ofNat 136 low⟩, true)
  else if g = 30 then (⟨sign, 2, free.setWidth 16, 0⟩, true)
  else
    let (hi, top) := if 24 ≤ g then (g / 2 % 4, 8 + g % 2) else (g / 8, g % 8)
    (⟨sign, 1, BitVec.ofInt 16 ((hi * 4096 + cont : Nat) - 6176), BitVec.ofNat 136 (top * 16 ^ 33 + low)⟩, false)

/-- Encodes an accumulator in 8 words, with whether it raises invalid (R201). -/
def dpdEncode (a : Acc) : List W16 × Bool :=
  let sgn := if a.sign then 2 ^ 127 else 0
  let dig := a.dig.toNat
  let low := decletsEnc 11 (dig % 16 ^ 33)
  let nan := fun (neg sig : Bool) (pay : Nat) =>
    natWords 8 ((if neg then 2 ^ 127 else 0) + 31 * 2 ^ 122 + (if sig then 2 ^ 121 else 0) + pay)
  match a.tag.toNat with
  | 2 => (natWords 8 (sgn + 30 * 2 ^ 122), false)
  | 3 => (nan a.sign false low, false)
  | 4 => (nan a.sign true low, false)
  | t =>
    if 4 < t || !dqRange a.exp.toInt then (nan false false 0, true)
    else
      let be := (a.exp.toInt + 6176).toNat
      let top := dig / 16 ^ 33 % 16
      let g := if 8 ≤ top then 24 + be / 4096 * 2 + (top - 8) else be / 4096 * 8 + top
      (natWords 8 (sgn + g * 2 ^ 122 + be % 4096 * 2 ^ 110 + low), false)

/-! ### The instructions (R191 to R193) -/

/-- Word 0 of a decimal128 operation. -/
def dqWord (x : Nat) : W16 := BitVec.ofNat 16 (0x6100 + x)

/-- Reads an accumulator as a decimal128 source (R189). -/
def withDval (k : Core) (a : AReg) (f : DVal → Res) : Res :=
  match (k.ac a).dval with
  | some v => f v
  | none => accData

/-- The state after a result that may use a free value. -/
def dqDrawn (s : State) (v : DVal) : State := if v.isOpen then s.drawn else s

/-- An in-pipe result: distance 2. -/
def dqDone (s : State) (k : Core) (x : Nat) (d : AReg) (r : DRes) : Res :=
  .done (dqDrawn s r.1) k (wrA d (r.1.acc s.free) 2 ++ fpOwn k (dqWord x) r.2 2) .seq
/-- A long result. -/
def dqLong (s : State) (k : Core) (x : Nat) (d : AReg) (r : DRes) : Res :=
  issueFp (dqDrawn s r.1) k (.a d) (.a1 (r.1.acc s.free)) (dqWord x) r.2

/-- An operation of two accumulators. -/
def dqTwo (d a b : AReg) (fin : State → Core → DRes → Res) (f : RMode → DVal → DVal → DRes) (s : State) (k : Core) : Res :=
  whenA k [a, b, d] (withDval k a (fun x => withDval k b (fun y => fin s k (f (drmMode k.sys.drm) x y))))
/-- An operation of one accumulator. -/
def dqOne (d a : AReg) (fin : State → Core → DRes → Res) (f : RMode → DVal → DRes) (s : State) (k : Core) : Res :=
  whenA k [a, d] (withDval k a (fun x => fin s k (f (drmMode k.sys.drm) x)))

/-- The own effect of DQADD. -/
def bodyDqadd (d a b : AReg) (s : State) (k : Core) : Res :=
  dqTwo d a b (fun s k => dqDone s k 0 d) dqadd s k
/-- DQADD. -/
def execDqadd (c : CoreId) (d a b : AReg) (s : State) : Out := issue s c (.dqadd c d a b) plain (bodyDqadd d a b)
/-- The own effect of DQSUB. -/
def bodyDqsub (d a b : AReg) (s : State) (k : Core) : Res :=
  dqTwo d a b (fun s k => dqDone s k 1 d) (fun rm x y => dqadd rm x y.negate) s k
/-- DQSUB: a − b is a + (−b) (R203). -/
def execDqsub (c : CoreId) (d a b : AReg) (s : State) : Out := issue s c (.dqsub c d a b) plain (bodyDqsub d a b)
/-- The own effect of DQMUL. -/
def bodyDqmul (d a b : AReg) (s : State) (k : Core) : Res :=
  dqTwo d a b (fun s k => dqLong s k 2 d) dqmul s k
/-- DQMUL. -/
def execDqmul (c : CoreId) (d a b : AReg) (s : State) : Out := issue s c (.dqmul c d a b) plain (bodyDqmul d a b)
/-- The own effect of DQDIV. -/
def bodyDqdiv (d a b : AReg) (s : State) (k : Core) : Res :=
  dqTwo d a b (fun s k => dqLong s k 3 d) dqdiv s k
/-- DQDIV. -/
def execDqdiv (c : CoreId) (d a b : AReg) (s : State) : Out := issue s c (.dqdiv c d a b) plain (bodyDqdiv d a b)
/-- The own effect of DQSQRT. -/
def bodyDqsqrt (d a : AReg) (s : State) (k : Core) : Res :=
  dqOne d a (fun s k => dqLong s k 4 d) dqsqrt s k
/-- DQSQRT. -/
def execDqsqrt (c : CoreId) (d a : AReg) (s : State) : Out := issue s c (.dqsqrt c d a) plain (bodyDqsqrt d a)
/-- The own effect of DQCMP. -/
def bodyDqcmp (a b : AReg) (s : State) (k : Core) : Res :=
    whenA k [a, b] (withDval k a (fun x => withDval k b (fun y =>
      .done s { k with fl := k.fl.fpOrder (dqcmp x y) }
        (fpOwn k (dqWord 5) (if x = .snan ∨ y = .snan then fpI else 0) 0) .seq)))
/-- DQCMP (R202). -/
def execDqcmp (c : CoreId) (a b : AReg) (s : State) : Out := issue s c (.dqcmp c a b) plain (bodyDqcmp a b)
/-- The own effect of DQFIX. -/
def bodyDqfix (d a : AReg) (s : State) (k : Core) : Res :=
    whenA k [a, d] (withDval k a (fun x =>
      let (r, fl) := dqfix (drmMode k.sys.drm) x
      .done s k (wrA d r 2 ++ fpOwn k (dqWord 6) fl 2) .seq))
/-- DQFIX (R200). -/
def execDqfix (c : CoreId) (d a : AReg) (s : State) : Out := issue s c (.dqfix c d a) plain (bodyDqfix d a)
/-- The own effect of DQFLT. -/
def bodyDqflt (d a : AReg) (s : State) (k : Core) : Res :=
    whenA k [a, d] (withDval k a (fun x =>
      let (r, fl) := dqflt (k.ac a) x
      .done s k (wrA d r 2 ++ fpOwn k (dqWord 7) fl 2) .seq))
/-- DQFLT. -/
def execDqflt (c : CoreId) (d a : AReg) (s : State) : Out := issue s c (.dqflt c d a) plain (bodyDqflt d a)
/-- The own effect of DQRINT. -/
def bodyDqrint (d a : AReg) (s : State) (k : Core) : Res :=
  dqOne d a (fun s k => dqDone s k 8 d) dqrint s k
/-- DQRINT. -/
def execDqrint (c : CoreId) (d a : AReg) (s : State) : Out := issue s c (.dqrint c d a) plain (bodyDqrint d a)
/-- The own effect of DQQUANT. -/
def bodyDqquant (d a b : AReg) (s : State) (k : Core) : Res :=
  dqTwo d a b (fun s k => dqDone s k 9 d) dqquant s k
/-- DQQUANT. -/
def execDqquant (c : CoreId) (d a b : AReg) (s : State) : Out := issue s c (.dqquant c d a b) plain (bodyDqquant d a b)

/-- The own effect of DQLD. -/
def bodyDqld (d : AReg) (a : GReg) (s : State) (k : Core) : Res :=
    whenA k [d] (loadThen k ((k.gr a).setWidth 40) 8 (fun ws k1 =>
      let (r, op) := dpdDecode ws s.free
      .done (if op then s.drawn else s) k1 (wrA d r 2) .seq))
/-- DQLD: distance 2 (R192, R201). -/
def execDqld (c : CoreId) (d : AReg) (a : GReg) (s : State) : Out := issue s c (.dqld c d a) plain (bodyDqld d a)
/-- The own effect of DQST. Its flag and its request are its own at distance 0 (R191, R206; DESIGN CHOICE,
notes/assumptions/165.md). -/
def bodyDqst (d : AReg) (a : GReg) (s : State) (k : Core) : Res :=
    let ea : BitVec 40 := (k.gr a).setWidth 40
    whenA k [d] (withLocal k ea 8 (withDval k d (fun _ =>
      let (ws, bad) := dpdEncode (k.ac d)
      .done s (k.storeField ea.toNat ws) (fpOwn k (dqWord 11) (if bad then fpI else 0) 0) .seq)))
/-- DQST: two store-buffer entries (R192, R201). -/
def execDqst (c : CoreId) (d : AReg) (a : GReg) (s : State) : Out := issue s c (.dqst c d a) plain (bodyDqst d a)

end Sys2Proof.Machine
end

