-- ==== Sys2Proof/Machine/Directory.lean ====
section
/-! DEFINITION. The directory: FIND and DSWAP (08_vat_records_posting.md R229 to R236). -/
namespace Sys2Proof.Machine

/-- The own effect of FIND. -/
def bodyFind (l : LRegId) (a : GReg) (s : State) (k : Core) : Res :=
  whenL k l (issueLong s k (.l l) (.find (k.gr a) k.dir none none false) none)
/-- FIND: no translation, no key check; the core's copy of the directory ports counts as it stands (R230, R234). -/
def execFind (c : CoreId) (l : LRegId) (a : GReg) (s : State) : Out := issue s c (.find c l a) plain (bodyFind l a)

/-- Slot j of a bucket: its 8 words (R231). -/
def slotWords (bucket : List W16) (j : Nat) : List W16 := (bucket.drop (8 * j)).take 8
/-- The key and the value quad of a slot (R231). -/
def slotKey (ws : List W16) : W64 := quadOf (ws.take 4)
def slotVal (ws : List W16) : W64 := quadOf (ws.drop 4)
/-- A slot is occupied (R231). -/
def slotUsed (ws : List W16) : Bool := (slotVal ws).getLsbD 63
/-- The lowest slot of a bucket that matches a key. -/
def bucketMatch (bucket : List W16) (key : W64) : Option Nat :=
  (List.range 4).find? (fun j => slotUsed (slotWords bucket j) && slotKey (slotWords bucket j) == key)
/-- The free slots of a bucket. -/
def bucketFree (bucket : List W16) : Nat :=
  ((List.range 4).filter (fun j => !slotUsed (slotWords bucket j))).length

/-- What FIND delivers from the two buckets it reads (R234). -/
def findResult (key : W64) (b1 b2 : Nat) (w1 w2 : List W16) : W64 :=
  let hit := fun (bk j : Nat) (ws : List W16) =>
    at64 bk 61 ||| at64 j 59 ||| (slotVal (slotWords ws j) &&& 0xFFFFFFFFFF#64)
  match bucketMatch w1 key, bucketMatch w2 key with
  | some j, _ => hit 0 j w1
  | none, some j => hit 1 j w2
  | none, none => at64 2 62 ||| at64 (bucketFree w1) 59 ||| at64 (bucketFree w2) 56 ||| at64 b2 32 ||| at64 b1 0

/-- A FIND has read one of its buckets; with both it has its result (R234). -/
def LongOp.findPart (o : LongOp) (second : Bool) (ws : List W16) (isBad : Bool) : LongOp :=
  match o.op with
  | .find key d w1 w2 b =>
    let v1 := if second then w1 else some ws
    let v2 := if second then some ws else w2
    let bad := b || isBad
    let res := match v1, v2 with
      | some x, some y =>
        some (LRes.l (if bad then 0xC000000000000001#64 else findResult key (d.choices key).1 (d.choices key).2 x y) false)
      | _, _ => none
    { o with op := .find key d v1 v2 bad, res := res }
  | _ => o

/-- FIND_SERVE: one of the two buckets is read and checked by the core; the two reads are not one act, and where both could be
served now, a free value says which is (R214, R234, R236). -/
def execFindServe (c : CoreId) (l : LRegId) (s : State) : Out :=
  match (s.core c).long? (.l l) with
  | some { op := .find key d w1 w2 _, res := none, stamp := st, entry := some e, .. } =>
    if !d.enabled then .next (if s.spineRuns then s.serveL c l (.l 0xC000000000000000#64 false) else s)
    else
      let p1 := d.bucketPa (d.choices key).1
      let p2 := d.bucketPa (d.choices key).2
      let can := fun (w : Option (List W16)) (pa : Nat) => w.isNone && !s.blocked (e.age (srcCore c) st) (lineOf pa)
      let read := fun (s : State) (second : Bool) =>
        let rd := readWords s (unitCore c) (if second then p2 else p1) 32
        rd.s.modCore c (fun k => k.modLong (.l l) (fun o => o.findPart second rd.ws (!rd.bad.isEmpty)))
      match can w1 p1, can w2 p2 with
      | true, true => .next (read s.drawn (s.free.getLsbD 0))
      | true, false => .next (read s false)
      | false, true => .next (read s true)
      | false, false => .next s
  | _ => .next s

/-- The own effect of DSWAP. -/
def bodyDswap (l : LRegId) (a b : GReg) (s : State) (k : Core) : Res :=
    let ga : BitVec 40 := (k.gr a).setWidth 40
    let v := k.gr b
    whenL k l (loadThen k ga 16 (fun ws k1 =>
      let d := k1.dir
      let bk := fieldN v 2 18
      if !d.enabled || decide (d.buckets ≤ bk) then
        issueLong s k1 (.l l) (.dswap 0 ws ga.toNat) (some (.slot 2#64 none))
      else
        issueLong s k1 (.l l) (.dswap (d.bucketPa bk + 8 * fieldN v 0 2) ws ga.toNat) none))
/-- DSWAP: its request enters once every earlier store of the core is written (R224, R235). -/
def execDswap (c : CoreId) (l : LRegId) (a b : GReg) (s : State) : Out := issue s c (.dswap c l a b) privKind (bodyDswap l a b)

/-- DSWAP_SERVE: the bank compares and replaces the slot as one request, after every earlier store of the core
(R224, R235). -/
def execDswapServe (c : CoreId) (l : LRegId) (s : State) : Out :=
  match (s.core c).long? (.l l) with
  | some { op := .dswap pa block _, res := none, stamp := st, entry := some e, .. } =>
    serveAt s c e st pa (fun s =>
      let base := lineOf pa * 32
      let rd := readWords s (unitBank (lineOf pa)) base 32
      if !rd.bad.isEmpty then rd.s.serveL c l (.slot 3#64 none)
      else
        let old := (rd.ws.drop (pa % 32)).take 8
        if old = block.take 8 then (writeClean rd.s pa ((block.drop 8).take 8)).serveL c l (.slot 0#64 (some old))
        else rd.s.serveL c l (.slot 1#64 (some old)))
  | _ => .next s

end Sys2Proof.Machine
end

