-- ==== Sys2Proof/Machine/Posting.lean ====
section
/-!
DEFINITION. POST: the descriptor and its checks (R237 to R239), and its execution at the units that hold its lines
(R240 to R249, R571).
-/
namespace Sys2Proof.Machine

/-! ### Issue -/

/-- Words overlap. -/
def runsMeet (a b n : Nat) : Bool := decide (a < b + n) && decide (b < a + n)

/-- The fields of a descriptor (R237). -/
structure PostDesc where
  ra : BitVec 64
  rb : BitVec 64
  oa : Nat
  ol : Nat
  ob : Nat
  n : Nat
  od : Bool
  jc : BitVec 2
deriving DecidableEq, Repr

/-- Reads the fields of a descriptor. -/
def postDesc (ws : List W16) : PostDesc :=
  let w := fun i => ws.getD i 0
  { ra := quadOf (ws.take 4), rb := quadOf ((ws.drop 4).take 4), oa := fieldN (w 16) 0 8, ol := fieldN (w 16) 8 8
    ob := fieldN (w 17) 0 8, n := fieldN (w 18) 3 3 + 1, od := (w 18).getLsbD 0, jc := (w 18).extractLsb' 1 2 }

/-- Check 3 of R238: the first descriptor word in error. -/
def postBadWord (ws : List W16) : Option Nat :=
  let w := fun i => ws.getD i 0
  let d := postDesc ws
  let fits := fun (o : Nat) => decide (o % 32 + d.n ≤ 32)
  let bad : List (Nat × Bool) :=
    [(0, w 0 != 0), (1, fieldN (w 1) 8 8 != 0), (3, fieldN (w 3) 0 5 != 0),
     (4, w 4 != 0), (5, fieldN (w 5) 8 8 != 0), (7, fieldN (w 7) 0 5 != 0),
     (16, !fits d.oa || !fits d.ol || d.ol / 32 != d.oa / 32 || runsMeet d.oa d.ol d.n),
     (17, fieldN (w 17) 8 8 != 0 || !fits d.ob),
     (18, fieldN (w 18) 6 10 != 0 || decide (d.n < 4)), (19, w 19 != 0)]
  (bad.find? (fun e => e.2)).map (fun e => e.1)

/-- A leg translates for a write, with neither a key check nor, yet, a check of its memory type (R238, R239). -/
def wantLeg : Want := ⟨false, true, false, false, [0, 1, 2, 3]⟩

/-- Translates a leg's field address; D-space translates from 0x8000 upward (R32, R238, R310). -/
def legAccess (k : Core) (va : BitVec 40) (f : Nat → TlbEntry → Core → Res) : Res :=
  if va.toNat < localEnd then .exc 0x09 va 0 else dAccess k va wantLeg f

/-- The record id of a leg from its field's physical address and offset (R571). -/
def recordId (pa off : Nat) : BitVec 32 := BitVec.ofNat 32 ((pa + 2 ^ 36 - off) % 2 ^ 36 / 32)

/-- The own effect of POST. -/
def bodyPost (c : CoreId) (l : LRegId) (a : GReg) (s : State) (k : Core) : Res :=
    let ga : BitVec 40 := (k.gr a).setWidth 40
    whenL k l (loadThen k ga 20 (fun ws k1 =>
      let d := postDesc ws
      let word := fun (i : Nat) => ga + BitVec.ofNat 40 i
      let amt := (ws.drop 8).take 4
      match postBadWord ws, fieldBad amt with
      | some i, _ => .exc 0x12 (word i) 0
      | none, some i => .exc 0x13 (word (8 + i)) 0
      | none, none =>
        let va : BitVec 40 := d.ra.setWidth 40 + BitVec.ofNat 40 d.oa
        let vb : BitVec 40 := d.rb.setWidth 40 + BitVec.ofNat 40 d.ob
        legAccess k1 va (fun paA ea k2 => legAccess k2 vb (fun paB eb k3 =>
          if !mtPut.contains ea.mt then .exc 0x11 va 0
          else if !mtPut.contains eb.mt then .exc 0x11 vb 0
          else if runsMeet paA paB d.n then .exc 0x12 (word 16) 0
          else
            let p : Posting :=
              { id := s.nextPost, core := c, l := l, paA := paA, paB := paB, limit := lineOf paA * 32 + d.ol % 32
                n := d.n, od := d.od, jc := d.jc, amt := amt, pid := (ws.drop 12).take 4
                ridA := recordId paA d.oa, ridB := recordId paB d.ob, krr := k3.sys.krr, mode := k3.sys.mode
                psf := k3.sys.psf, zsk := k3.sys.zsk, stamp := s.stamp
                entry := if k3.storesBefore s.stamp then some s.entryNow else none, phase := .issued, wsLo := [], wsHi := []
                bad := false, newA := [], newB := [] }
            issueLong { s with posts := s.posts ++ [p], nextPost := s.nextPost + 1 } k3 (.l l) (.post p.id) none))))
/-- POST (R238, R239). -/
def execPost (c : CoreId) (l : LRegId) (a : GReg) (s : State) : Out := issue s c (.post c l a) plain (bodyPost c l a)

/-! ### Units and locks (R244 to R246) -/

/-- A posting in flight. -/
def State.post? (s : State) (id : Nat) : Option Posting := s.posts.find? (fun p => p.id == id)
/-- Changes a posting. -/
def State.setPost (s : State) (p : Posting) : State := { s with posts := s.posts.map (fun x => if x.id == p.id then p else x) }
/-- A posting is over. -/
def State.dropPost (s : State) (id : Nat) : State := { s with posts := s.posts.filter (fun p => p.id != id) }
/-- Postings are stopped, by the journal (R262) or by a reset that has begun (R215, R526). -/
def postingsStopped (s : State) : Bool :=
  s.jnl.stop || (match s.pins.phase with | .running => false | _ => true)

/-- No older posting waits at the unit of a line for a lock slot (R245). -/
def firstForSlot (s : State) (a : Age) (ln : Nat) : Bool :=
  s.posts.all (fun x => match x.entry, x.wants with
    | some e, some l => !((x.age s.part e).before a && !s.locks.any (fun y => y.1 == l) && unitAt s.part l == unitAt s.part ln)
    | _, _ => true)
/-- The posting can lock a line now (R212, R245, R246). -/
def canLock (s : State) (p : Posting) (ln : Nat) : Bool :=
  match p.entry with
  | some e => !s.blocked (p.age s.part e) ln && slotFreeAt s ln && firstForSlot s (p.age s.part e) ln
  | none => false
/-- Locks a line for a posting. -/
def lockLine (s : State) (p : Posting) (ln : Nat) : State := { s with locks := s.locks ++ [(ln, p.id)] }
/-- Unlocks a line that a posting holds. -/
def unlockLine (s : State) (p : Posting) (ln : Nat) : State :=
  { s with locks := s.locks.filter (fun x => !(x.1 == ln && x.2 == p.id)) }

/-- The unit holding lo sends the result to the core and counts it (R229, R240, R243). -/
def postDeliver (s : State) (p : Posting) (r : BitVec 4) (seq : W64) : State :=
  let v : W64 := if r = 0#4 then (seq <<< 4) else r.setWidth 64
  let s1 := s.modCore p.core (fun k =>
    { k with longs := k.longs.map (fun o => if o.op = .post p.id then { o with res := some (.l v false) } else o) })
  if r = 0#4 then { s1 with postCnt := s1.postCnt + 1#64 } else { s1 with postRef := s1.postRef + 1#64 }

/-! ### Execution (R240 to R243) -/

/-- The unit of a line reads it for the posting that has just locked it (R240). The unit that counts and reports an error is the
line's own bank: for lo the unit holding lo, though the closing unit corrects both lines (R214; DESIGN CHOICE,
notes/assumptions/203.md). -/
def postRead (s : State) (ln : Nat) : LineRead := readWords s (unitBank ln) (ln * 32) 32

/-- POST_LOCK_LO: after the wait of R224, lo is locked and read; 0x7 while postings are stopped. -/
def execPostLockLo (id : Nat) (s : State) : Out :=
  match s.post? id with
  | some p =>
    if p.phase ≠ .issued ∨ p.entry.isNone ∨ !s.spineRuns then .next s
    else if postingsStopped s then .next ((postDeliver s p 7 0).dropPost id)
    else if regionOf s.part p.paA = .absent then .fault (.noMemory p.paA)
    else if regionOf s.part p.paB = .absent then .fault (.noMemory p.paB)
    else if canLock s p p.lo then
      let rd := postRead (lockLine s p p.lo) p.lo
      .next (rd.s.stamped.setPost
        { p with phase := .lockedLo, entry := some s.entryNow, wsLo := rd.ws, bad := !rd.bad.isEmpty })
    else .next s
  | none => .next s

/-- POST_LOCK_HI: the closing unit locks and reads hi when the legs lie in two lines. -/
def execPostLockHi (id : Nat) (s : State) : Out :=
  match s.post? id with
  | some p =>
    if p.phase = .lockedLo ∧ p.twoLines ∧ canLock s p p.hi then
      let rd := postRead (lockLine s p p.hi) p.hi
      .next (rd.s.setPost { p with phase := .lockedHi, wsHi := rd.ws, bad := p.bad || !rd.bad.isEmpty })
    else .next s
  | none => .next s

/-- The key check of a leg: both rules with the captured rights and mode, on the key array's present tag; an
uncorrectable tag fails it (R241, R333). -/
def legKey (s : State) (p : Posting) (pa : Nat) : State × Bool :=
  let f := pa / 4096
  if keyBad s f then (keyError s, false)
  else
    let t := s.keys.get f
    (s, keyRead p.krr p.mode (tagKey t) (tagGrd t) && keyWrite p.krr p.mode (tagKey t) (tagGrd t))

/-- What the closing unit computes before the journal is looked at: a refusal, or the two new balances. -/
def postCompute (p : Posting) (balA balB limit : List W16) : Except (BitVec 4) (List W16 × List W16) :=
  if (fieldBad balA).isSome || (fieldBad balB).isSome || (!p.od && (fieldBad limit).isSome) then .error 3
  else
    let amt := fieldVal p.amt
    let a := decAdd (fieldVal balA) { amt with neg := !amt.neg }
    let b := decAdd (fieldVal balB) amt
    let top := 10 ^ (4 * p.n - 1)
    if top ≤ a.mag ∨ top ≤ b.mag then .error 6
    else if !p.od && decide (a.toInt < (fieldVal limit).toInt) then .error 1
    else .ok (fieldOf p.n (a.zeroSign p.zsk) p.psf p.zsk, fieldOf p.n (b.zeroSign p.zsk) p.psf p.zsk)

/-- The journal entry of a posting after its sequence number (R251). -/
def entryBody (p : Posting) : List W16 :=
  let la : BitVec 32 := (p.ridA &&& 0x7FFFFFFF#32) ||| (BitVec.ofBool (p.jc.getLsbD 1)).setWidth 32 <<< 31
  let lb : BitVec 32 := (p.ridB &&& 0x7FFFFFFF#32) ||| (BitVec.ofBool (p.jc.getLsbD 0)).setWidth 32 <<< 31
  p.pid ++ p.amt ++ [la.extractLsb' 16 16, la.setWidth 16, lb.extractLsb' 16 16, lb.setWidth 16]

/-- Writes the new balances of the legs that lie in a line, as one write of the line. -/
def writeLegs (s : State) (p : Posting) (ln : Nat) : State :=
  writeCleans s ln ((if lineOf p.paA = ln then [(p.paA, p.newA)] else []) ++ (if lineOf p.paB = ln then [(p.paB, p.newB)] else []))

/-- Both leg frames count as read or written (R330). -/
def touchLegs (s : State) (p : Posting) (write : Bool) : State := touchUse (touchUse s p.paA write) p.paB write

/-- A field of a leg, as its line was read. -/
def Posting.field (p : Posting) (a : Nat) : List W16 := ((if lineOf a = p.lo then p.wsLo else p.wsHi).drop (a % 32)).take p.n

/-- What the closing unit comes to with the lines that it holds, in the order of R240: a refusal, or the two new balances. -/
def postResult (s : State) (p : Posting) : State × Except (BitVec 4) (List W16 × List W16) :=
  if p.bad then (s, .error 5)
  else
    let (s1, okA) := legKey s p p.paA
    let (s2, okB) := legKey s1 p p.paB
    if !okA || !okB then (s2, .error 2)
    else
      match postCompute p (p.field p.paA) (p.field p.paB) (p.field p.limit) with
      | .error r => (s2, .error r)
      | .ok x => if 65536 ≤ s2.jnl.held then (s2, .error 4) else (s2, .ok x)

/-- POST_CLOSE: the closing unit takes the first result that applies, appends the entry and writes hi. Only that write of an HBM
line waits for the controller (R422). -/
def execPostClose (id : Nat) (s : State) : Out :=
  match s.post? id with
  | some p =>
    if (p.phase ≠ .lockedHi ∧ ¬(p.phase = .lockedLo ∧ !p.twoLines)) ∨ !s.spineRuns then .next s
    else
      match postResult s p with
      | (s1, .error r) => .next ((touchLegs s1 p false).setPost { p with phase := .closed r 0 })
      | (s1, .ok (na, nb)) =>
        if p.twoLines ∧ s.hbmShut (p.hi * 32) then .next s
        else
          let (s2, q) := appendEntry s1 (entryBody p)
          let p1 := { p with newA := na, newB := nb, phase := .closed 0 q }
          let s3 := if p.twoLines then writeLegs s2 p1 p.hi else s2
          .next ((touchLegs s3 p true).setPost p1)
  | none => .next s

/-- POST_WRITE_LO: the unit holding lo writes it, unlocks it, sends the release of hi and delivers. Only the write of an HBM line
waits for the controller (R422). -/
def execPostWriteLo (id : Nat) (s : State) : Out :=
  match s.post? id with
  | some p =>
    match p.phase with
    | .closed r q =>
      if !s.spineRuns || (r == 0#4 && s.hbmShut (p.lo * 32)) then .next s
      else
        let s1 := if r = 0#4 then writeLegs s p p.lo else s
        let s2 := postDeliver (unlockLine s1 p p.lo) p r q
        .next (if p.twoLines then s2.setPost { p with phase := .released } else s2.dropPost id)
    | _ => .next s
  | none => .next s

/-- POST_RELEASE_HI: on the release, the closing unit unlocks hi. -/
def execPostReleaseHi (id : Nat) (s : State) : Out :=
  match s.post? id with
  | some p => if p.phase = .released ∧ s.spineRuns then .next ((unlockLine s p p.hi).dropPost id) else .next s
  | none => .next s

end Sys2Proof.Machine
end

