-- ==== Sys2Proof/Machine/Strings.lean ====
section
/-!
DEFINITION. The decimal-string unit (06_strings_edit.md): the ten DSU instructions, run one unit at a time over the core's
local memory, their setup, their end and their suspension.
-/
namespace Sys2Proof.Machine

/-! ### The parts of a run (R157, R177) -/

/-- What one unit of a DSU instruction comes to. -/
inductive DsuStep where
  /-- the unit is done and the instruction goes on -/
  | more (k : Core)
  /-- the instruction ends, with ST written -/
  | stop (k : Core)
  /-- the unit needs an uncorrectable word; the core as the units before it leave it, with the errors that its own reads have
  corrected counted (R177) -/
  | bad (k : Core)
deriving DecidableEq, Repr

/-- A local word as the DSU reads it: from the bank, past the store buffer (R155); a corrected error is counted, an
uncorrectable one gives no word (R177). -/
def Core.dkWord (k : Core) (a : BitVec 15) : Except Core (W16 × Core) :=
  if k.locBad.get (a.toNat / 4) != 0#1 then .error k else .ok (k.loc.get a.toNat, k.countLoc a.toNat 1)
/-- The core as it stood before a unit, with the errors that the unit's reads have corrected counted (R177). -/
def Core.counting (k k1 : Core) : Core := { k with locCe := k1.locCe }
/-- Changes the deckle group. -/
def Core.modDk (k : Core) (f : Deckle → Deckle) : Core := { k with dk := f k.dk }
/-- Changes the tally. -/
def Core.modTl (k : Core) (f : Tally → Tally) : Core := { k with dk := { k.dk with tl := f k.dk.tl } }
/-- Sets ST (R176). -/
def Core.dkSt (k : Core) (v : BitVec 4) : Core := k.modTl (fun t => { t with st := v })
/-- Writes a unit. A run that writes all 4 words of an uncorrectable group, word by word, leaves the group uncorrectable
(DESIGN CHOICE, notes/assumptions/171.md). -/
def Core.dkPut (k : Core) (a : BitVec 15) (w : W16) : Core := k.writeLoc a.toNat [w]

/-- The instructions of major 0x50 by x[3:0] (R164). -/
inductive DsuOp where
  | mvs | mvsp | trs | cms | scs | eds | edsm | pks | ups
deriving DecidableEq, Repr

/-- The instruction of a value of x[3:0]; the values 9 to 15 name none (R164). -/
def dsuOpOf (x : BitVec 4) : Option DsuOp :=
  match x.toNat with
  | 0 => some .mvs | 1 => some .mvsp | 2 => some .trs | 3 => some .cms | 4 => some .scs | 5 => some .eds
  | 6 => some .edsm | 7 => some .pks | 8 => some .ups | _ => none

/-- The governing count is 0 (R159). -/
def dsuEmpty (d : Deckle) : DsuOp → Bool
  | .mvs => d.sc == 0 | .mvsp => d.dc == 0 | .trs => d.sc == 0 | .cms => d.sc == 0 && d.dc == 0 | .scs => d.sc == 0
  | .eds => d.dc == 0 | .edsm => d.dc == 0 | .pks => d.sc == 0 | .ups => d.dc == 0

/-- The ranges of an instruction in the order of R165: first word and length (R159). -/
def dsuRanges (d : Deckle) : DsuOp → List (Nat × Nat)
  | .mvs => [(d.sa.toNat, d.sc.toNat), (d.da.toNat, d.sc.toNat)]
  | .mvsp => [(d.sa.toNat, min d.sc.toNat d.dc.toNat), (d.da.toNat, d.dc.toNat)]
  | .trs => [(d.sa.toNat, d.sc.toNat), (d.da.toNat, d.sc.toNat), (d.ep.toNat, 256)]
  | .cms => [(d.sa.toNat, d.sc.toNat), (d.da.toNat, d.dc.toNat)]
  | .scs => [(d.sa.toNat, d.sc.toNat), (d.ep.toNat, 256)]
  | .eds => [(d.sa.toNat, d.sc.toNat), (d.da.toNat, d.dc.toNat), (d.ep.toNat, d.dc.toNat)]
  | .edsm => [(d.sa.toNat, d.sc.toNat), (d.da.toNat, d.dc.toNat), (d.ep.toNat, d.dc.toNat)]
  | .pks => [(d.sa.toNat, d.sc.toNat), (d.da.toNat, d.dc.toNat)]
  | .ups => [(d.sa.toNat, d.sc.toNat), (d.da.toNat, d.dc.toNat)]

/-- The first exception of the setup: cause and XAD (R165). -/
def dsuCheck (k : Core) (op : DsuOp) : Option (BitVec 8 × BitVec 40) :=
  if dsuEmpty k.dk op then none
  else
    let rs := (dsuRanges k.dk op).filter (fun r => r.2 != 0)
    if rs.any (fun r => decide (localEnd < r.1 + r.2)) then some (0x03, 0x8000)
    else (rs.findSome? (fun r => k.outOfBound r.1 r.2)).map (fun a => (0x04, a))

/-! ### Move, compare (R166, R167, R169) -/

/-- MVS. -/
def dsuMvs (k0 : Core) : DsuStep :=
  match k0.dkWord k0.dk.sa with
  | .error k => .bad k
  | .ok (w, k) => .more ((k.dkPut k.dk.da w).modDk (fun d => { d with sa := d.sa + 1, da := d.da + 1, sc := d.sc - 1 }))

/-- MVSP. -/
def dsuMvsp (k0 : Core) : DsuStep :=
  if k0.dk.sc = 0#32 then
    .more ((k0.dkPut k0.dk.da k0.dk.fill).modDk (fun d => { d with da := d.da + 1, dc := d.dc - 1 }))
  else
    match k0.dkWord k0.dk.sa with
    | .error k => .bad k
    | .ok (w, k) => .more ((k.dkPut k.dk.da w).modDk (fun d =>
        { d with sa := d.sa + 1, sc := d.sc - 1, da := d.da + 1, dc := d.dc - 1 }))

/-- One side of CMS: a unit of the range, or the fill unit past its end. -/
def dsuSide (k : Core) (a : BitVec 15) (n : BitVec 32) : Except Core (W16 × Core) :=
  if n = 0#32 then .ok (k.dk.fill, k) else k.dkWord a

/-- CMS. -/
def dsuCms (k0 : Core) : DsuStep :=
  match dsuSide k0 k0.dk.sa k0.dk.sc with
  | .error k => .bad k
  | .ok (x, k1) =>
    match dsuSide k1 k1.dk.da k1.dk.dc with
    | .error k => .bad k
    | .ok (y, k) =>
      if x = y then
        .more (k.modDk (fun d => { d with
          sa := if d.sc = 0#32 then d.sa else d.sa + 1, sc := if d.sc = 0#32 then 0 else d.sc - 1
          da := if d.dc = 0#32 then d.da else d.da + 1, dc := if d.dc = 0#32 then 0 else d.dc - 1 }))
      else .stop (k.modTl (fun t => { t with st := 0, z := false, lo := decide (x.toNat < y.toNat) }))

/-! ### Tables (R168, R170) -/

/-- A look-up in a two-level table. -/
inductive TableRes where
  | none (k : Core)
  | val (w : W16) (k : Core)
  | fault (k : Core)
  | bad (k : Core)
deriving DecidableEq, Repr

/-- Looks a unit up (R168). The mode that counts is the one in which the instruction runs, captured at its issue, while LRB is
read as it stands (DESIGN CHOICE, notes/assumptions/168.md). -/
def dsuTable (k0 : Core) (svc : Bool) (u : W16) : TableRes :=
  match k0.dkWord (k0.dk.ep + (u.extractLsb' 8 8).setWidth 15) with
  | .error k => .bad k
  | .ok (e, k) =>
    if e = 0#16 then .none k
    else if e.msb || decide (0x7FFF < e.toNat + 0xFF) then .fault k
    else if !svc && (List.range 256).any (fun i => !k.sys.tenantWord (e.toNat + i)) then .fault k
    else
      match k.dkWord ((e + (u.setWidth 8 : BitVec 8).setWidth 16).setWidth 15) with
      | .error k1 => .bad k1
      | .ok (w, k1) => .val w k1

/-- TRS. -/
def dsuTrs (k0 : Core) (svc : Bool) : DsuStep :=
  match k0.dkWord k0.dk.sa with
  | .error k => .bad k
  | .ok (u, k) =>
    let put := fun w (k : Core) => DsuStep.more ((k.dkPut k.dk.da w).modDk (fun d =>
      { d with sa := d.sa + 1, da := d.da + 1, sc := d.sc - 1 }))
    match dsuTable k svc u with
    | .bad k1 => .bad k1
    | .fault k1 => .stop (k1.dkSt 6)
    | .none k1 => put u k1
    | .val w k1 => put w k1

/-- SCS and SCS.N. -/
def dsuScs (k0 : Core) (svc md : Bool) : DsuStep :=
  match k0.dkWord k0.dk.sa with
  | .error k => .bad k
  | .ok (u, k) =>
    let go := fun (m : W16) (k : Core) =>
      if (m &&& k.dk.cset != 0#16) != md then DsuStep.stop (k.modTl (fun t => { t with st := 0, z := false }))
      else .more (k.modDk (fun d => { d with sa := d.sa + 1, sc := d.sc - 1 }))
    match dsuTable k svc u with
    | .bad k1 => .bad k1
    | .fault k1 => .stop (k1.dkSt 6)
    | .none k1 => go 0 k1
    | .val w k1 => go w k1

/-! ### Edit (R171, R172) -/

/-- What digit() gives. -/
inductive DigitRes where
  | ok (d : Nat) (k : Core)
  | stop (st : BitVec 4) (k : Core)
  | bad (k : Core)
deriving DecidableEq, Repr

/-- digit() of R171. -/
def dsuDigit (k0 : Core) : DigitRes :=
  if k0.dk.sc = 0#32 then .stop 4 k0
  else
    match k0.dkWord k0.dk.sa with
    | .error k => .bad k
    | .ok (w, k) =>
      let nib := k.dk.tl.nib
      let d := (nibbles w).getD nib.toNat 0
      let n3 := fieldN w 0 4
      if 9 < d then .stop 2 k
      else
        let last := nib == 2#2 && decide (0xA ≤ n3)
        let k1 := if last then k.modTl (fun t => { t with neg := signMinus n3, ps := true }) else k
        if last || nib == 3#2 then
          .ok d (k1.modDk (fun x => { x with sa := x.sa + 1, sc := x.sc - 1, tl := { x.tl with nib := 0 } }))
        else .ok d (k1.modTl (fun t => { t with nib := t.nib + 1 }))

/-- A pattern step consumes n units. -/
def Core.dkEat (k : Core) (n : Nat) : Core :=
  k.modDk (fun d => { d with ep := d.ep + BitVec.ofNat 15 n, dc := d.dc - BitVec.ofNat 32 n })
/-- Emit u (R172). -/
def Core.dkEmit (k : Core) (u : W16) : Core := (k.dkPut k.dk.da u).modDk (fun d => { d with da := d.da + 1 })
/-- The unit of digit d (R154). -/
def digitUnit (d : Nat) : W16 := 0x30#16 + BitVec.ofNat 16 d

/-- DG and FD, with the unit of the digit 0 (R172, R387). -/
def dsuDG (k : Core) (forced em : Bool) (zero : W16) : DsuStep :=
  if k.dk.tl.ps then .stop (k.dkSt 5)
  else
    match dsuDigit k with
    | .bad k1 => .bad k1
    | .stop st k1 => .stop (k1.dkSt st)
    | .ok d k1 =>
      if k.dk.tl.sig then .more ((k1.dkEmit (zero + BitVec.ofNat 16 d)).dkEat 1)
      else if d = 0 ∧ !forced then .more ((k1.dkEmit k.dk.fill).dkEat 1)
      else
        let k2 := if em then k1.modDk (fun x => { x with mark := x.da, mv := true }) else k1
        .more (((k2.dkEmit (zero + BitVec.ofNat 16 d)).modTl (fun t => { t with sig := true })).dkEat 1)

/-- SC with its two literals (R172). Both are read, whichever is emitted: an uncorrectable literal that would not be emitted
ends the step too (DESIGN CHOICE, notes/assumptions/166.md). -/
def dsuSC (k0 : Core) : DsuStep :=
  if k0.dk.dc.toNat < 3 then .stop (k0.dkSt 5)
  else
    match k0.dkWord (k0.dk.ep + 1#15) with
    | .error k => .bad k
    | .ok (p, k1) =>
      match k1.dkWord (k1.dk.ep + 2#15) with
      | .error k => .bad k
      | .ok (m, k) =>
        let t := k.dk.tl
        .more ((k.dkEmit (if t.ps then (if t.neg then m else p) else k.dk.fill)).dkEat 3)

/-- The first pattern control unit: DG (R163). -/
def Deckle.ctlBase (d : Deckle) : W16 := if d.cb = 0#16 then 0xF8A0#16 else d.cb

/-- One pattern step of EDS and EDSM (R172). -/
def dsuEds (k0 : Core) (em : Bool) (zero : W16 := 0x30#16) : DsuStep :=
  match k0.dkWord k0.dk.ep with
  | .error k => .bad k
  | .ok (p, k) =>
    let base := k.dk.ctlBase
    if p = base then dsuDG k false em zero
    else if p = base + 1#16 then dsuDG k true em zero
    else if p = base + 2#16 then
      .more ((k.modTl (fun t => { t with sig := false, ps := false, neg := false, fc := t.fc + 1 })).dkEat 1)
    else if p = base + 3#16 then dsuSC k
    else .more ((k.dkEmit (if k.dk.tl.sig then p else k.dk.fill)).dkEat 1)

/-! ### Pack and unpack (R174, R175) -/

/-- The word and the nibble of digit j of a field whose last word is at l. -/
def digitAt (l : BitVec 15) (j : Nat) : BitVec 15 × Nat := (l - BitVec.ofNat 15 ((j + 1) / 4), 3 - (j + 1) % 4)
/-- A word with one nibble replaced; nibble 0 is bits [15:12]. -/
def setNibble (w : W16) (n v : Nat) : W16 :=
  (w &&& ~~~(0xF#16 <<< (4 * (3 - n)))) ||| (BitVec.ofNat 16 v <<< (4 * (3 - n)))
/-- Replaces one nibble of a local word, which reads the word; none where it cannot be read (DESIGN CHOICE, notes/assumptions/167.md:
the write of a nibble counts as a DSU read of its word). -/
def Core.dkNibble (k : Core) (a : BitVec 15) (n v : Nat) : Except Core Core :=
  (k.dkWord a).map (fun r => r.2.dkPut a (setNibble r.1 n v))

/-- The last word of the packed field: the destination of PKS, the source of UPS. -/
def pksLast (d : Deckle) : BitVec 15 := d.da + d.dc.setWidth 15 - 1
def upsLast (d : Deckle) : BitVec 15 := d.sa + d.sc.setWidth 15 - 1

/-- PKS and UPS name a field of 1 to 8 words. -/
def dsuLenOk (n : BitVec 32) : Bool := n != 0 && decide (n.toNat ≤ 8)

/-- One unit of PKS (R174). -/
def dsuPks (k0 : Core) : DsuStep :=
  match k0.dkWord (k0.dk.sa + k0.dk.sc.setWidth 15 - 1) with
  | .error k => .bad k
  | .ok (u, k) =>
    let d := k.dk
    let eat := fun (k : Core) => DsuStep.more (k.modDk (fun x => { x with sc := x.sc - 1 }))
    if 0x30 ≤ u.toNat ∧ u.toNat ≤ 0x39 then
      let v := u.toNat - 0x30
      if d.tl.fc.toNat < 4 * d.dc.toNat - 1 then
        let (a, n) := digitAt (pksLast d) d.tl.fc.toNat
        match k.dkNibble a n v with
        | .error k1 => .bad k1
        | .ok k1 => eat (k1.modTl (fun t => { t with fc := t.fc + 1 }))
      else eat (k.modTl (fun t => { t with lo := t.lo || v != 0 }))
    else if d.sc = 1#32 ∧ u = 0x2D#16 then eat (k.modTl (fun t => { t with neg := true }))
    else if d.sc = 1#32 ∧ u = 0x2B#16 then eat k
    else .stop (k.dkSt 3)

/-- Clears digits j to j + n - 1 of the field of PKS. -/
def pksFill (k : Core) (l : BitVec 15) (j : Nat) : Nat → Except Core Core
  | 0 => .ok k
  | n + 1 =>
    let (a, i) := digitAt l j
    (k.dkNibble a i 0).bind (fun k1 => pksFill k1 l (j + 1) n)

/-- Every digit of a field of n words from an address up is 0, with the core after its words are read; none where one cannot
be read. -/
def dkZero (k : Core) (a : BitVec 15) (n : Nat) : Except Core (Bool × Core) :=
  match n with
  | 0 => .ok (true, k)
  | n + 1 =>
    match k.dkWord a with
    | .error k1 => .error k1
    | .ok (w, k1) =>
      (dkZero k1 (a + 1#15) n).map (fun r => (r.1 && (if n = 0 then decide (w.toNat / 16 = 0) else w == 0#16), r.2))

/-- The end of PKS: high digits, then the sign (R174). An uncorrectable word leaves the field as the last unit left it. -/
def pksEnd (k : Core) : DsuStep :=
  let d := k.dk
  let last := 4 * d.dc.toNat - 1
  match pksFill k (pksLast d) d.tl.fc.toNat (last - d.tl.fc.toNat) with
  | .error k1 => .bad (k.counting k1)
  | .ok k1 =>
    match dkZero k1 d.da d.dc.toNat with
    | .error k2 => .bad (k.counting k2)
    | .ok (zero, k2) =>
      match k2.dkNibble (pksLast d) 3 (signNibble (d.tl.neg && !(zero && !k.sys.zsk)) k.sys.psf) with
      | .error k3 => .bad (k.counting k3)
      | .ok k3 => .stop (k3.modTl (fun t => { t with ps := false, st := if t.lo then 7 else 0 }))

/-- One digit of the field of UPS. -/
def upsDigit (k : Core) (j : Nat) : Except Core (Nat × Core) :=
  let (a, n) := digitAt (upsLast k.dk) j
  (k.dkWord a).map (fun r => ((nibbles r.1).getD n 0, r.2))

/-- One unit of UPS (R175). -/
def dsuUps (k : Core) : DsuStep :=
  let d := k.dk
  let put := fun (v : Nat) (k : Core) =>
    DsuStep.more ((k.dkPut (d.da + d.dc.setWidth 15 - 1) (digitUnit v)).modDk (fun x =>
      { x with dc := x.dc - 1, tl := { x.tl with fc := if x.tl.fc = 0xFF#8 then 0xFF#8 else x.tl.fc + 1 } }))
  if d.tl.fc.toNat < 4 * d.sc.toNat - 1 then
    match upsDigit k d.tl.fc.toNat with
    | .error k1 => .bad k1
    | .ok (v, k1) => if 9 < v then .stop (k1.dkSt 2) else put v k1
  else put 0 k

/-- The digits that UPS does not emit, from digit j on: a bad one, or whether one is not 0 (R175). -/
def upsRest (k : Core) (j : Nat) (lo : Bool) : Nat → DsuStep
  | 0 => .stop (k.modTl (fun t => { t with lo := lo, ps := false, st := if lo then 7 else 0 }))
  | n + 1 =>
    match upsDigit k j with
    | .error k1 => .bad k1
    | .ok (v, k1) =>
      if 9 < v then .stop (k1.modTl (fun t => { t with lo := lo, st := 2 })) else upsRest k1 (j + 1) (lo || v != 0) n

/-- The end of UPS. -/
def upsEnd (k : Core) : DsuStep :=
  let j := k.dk.tl.fc.toNat
  upsRest k j k.dk.tl.lo (4 * k.dk.sc.toNat - 1 - j)

/-! ### A run -/

/-- What an instruction does before its first unit. -/
def dsuBegin (k : Core) : DsuOp → DsuStep
  | .cms => .more (k.modTl (fun t => { t with z := true, lo := false }))
  | .scs => .more (k.modTl (fun t => { t with z := true }))
  | .pks =>
    if !dsuLenOk k.dk.dc then .stop (k.dkSt 8)
    else if k.dk.tl.ps then .more k
    else
      match k.dkNibble (pksLast k.dk) 3 (signNibble false k.sys.psf) with
      | .error k1 => .bad k1
      | .ok k1 => .more (k1.modTl (fun t => { t with neg := false, lo := false, fc := 0, ps := true }))
  | .ups =>
    if !dsuLenOk k.dk.sc then .stop (k.dkSt 8)
    else if k.dk.tl.ps then .more k
    else
      match k.dkWord (upsLast k.dk) with
      | .error k1 => .bad k1
      | .ok (w, k1) =>
        let n := fieldN w 0 4
        if n ≤ 9 then .stop (k1.dkSt 2)
        else .more (k1.modTl (fun t => { t with neg := signMinus n, lo := false, fc := 0, ps := true }))
  | _ => .more k

/-- One unit. -/
def dsuUnit (k : Core) (svc md : Bool) : DsuOp → DsuStep
  | .mvs => dsuMvs k
  | .mvsp => dsuMvsp k
  | .trs => dsuTrs k svc
  | .cms => dsuCms k
  | .scs => dsuScs k svc md
  | .eds => dsuEds k false
  | .edsm => dsuEds k true
  | .pks => dsuPks k
  | .ups => dsuUps k

/-- What an instruction does after its last unit. -/
def dsuFinish (k : Core) : DsuOp → DsuStep
  | .pks => pksEnd k
  | .ups => upsEnd k
  | _ => .stop (k.dkSt 0)

/-- No run has more units than its counts add up to. -/
def dsuAll (d : Deckle) : Nat := d.sc.toNat + d.dc.toNat

/-! ### The words of a routine (R387 to R391) -/

/-- What a step of an operation, a unit of an instruction or a word of a routine, comes to. -/
inductive DsuGo where
  /-- it goes on at an address; whether a unit boundary lies here -/
  | next (k : Core) (r : DsuRegs) (a : Nat) (boundary : Bool)
  | stop (k : Core)
  /-- it needs an uncorrectable word; the core as the units before it leave it (R177) -/
  | bad (k : Core)
  /-- the word reads with wrong parity (R370, R392) -/
  | parity
  /-- the word is reserved: the Steward accepts no image that holds it (R391) -/
  | stuck
deriving DecidableEq, Repr

/-- The registers at every issue and re-issue. -/
def DsuRegs.zero : DsuRegs := ⟨0, 0, 0, 0, 0, 0⟩

/-- The conditions of TEST (R387). -/
def dsuTest (k : Core) (r : DsuRegs) (md : Bool) (c : Nat) : Bool :=
  let base := k.dk.ctlBase
  match c with
  | 0x0 => k.dk.sc == 0
  | 0x1 => k.dk.dc == 0
  | 0x2 => r.u == r.v
  | 0x3 => decide (r.u.toNat < r.v.toNat)
  | 0x4 => k.dk.tl.sig
  | 0x5 => k.dk.tl.ps
  | 0x6 => k.dk.tl.neg
  | 0x7 => r.m &&& k.dk.cset != 0#16
  | 0x8 => r.p == base
  | 0x9 => r.p == base + 1#16
  | 0xA => r.p == base + 2#16
  | 0xB => r.p == base + 3#16
  | 0xC => md
  | 0xD => decide (0x30 ≤ r.u.toNat) && decide (r.u.toNat ≤ 0x39)
  | _ => true

/-- The DSU may touch a local word in the mode of its operation (R41, R42). -/
def Core.dsuMay (k : Core) (svc : Bool) (a : BitVec 15) : Bool := svc || k.sys.tenantWord a.toNat

/-- A routine of Tenant mode comes to a word that Tenant mode may not touch, which no range of its setup named: the word is
not touched, and the operation ends (R42, R165). Its status is open (DESIGN CHOICE, notes/assumptions/172.md). -/
def Core.dsuOut (k : Core) : Core := k.dkSt (BitVec.ofNat 4 Config.dsuBoundStatus.val)

/-- Up to n units by R166. -/
def dsuMove (k : Core) (svc : Bool) : Nat → DsuStep
  | 0 => .more k
  | n + 1 =>
    if k.dk.sc = 0#32 then .more k
    else if !(k.dsuMay svc k.dk.sa && k.dsuMay svc k.dk.da) then .stop k.dsuOut
    else
      match dsuMvs k with
      | .more k1 => dsuMove k1 svc n
      | x => x

/-- The words that a pattern step touches besides the one it emits (R172). -/
def edsReads (k : Core) : List (BitVec 15) :=
  let p := k.loc.get k.dk.ep.toNat
  let base := k.dk.ctlBase
  k.dk.ep ::
    (if (p = base ∨ p = base + 1#16) ∧ !k.dk.tl.ps ∧ k.dk.sc ≠ 0#32 then [k.dk.sa]
     else if p = base + 3#16 ∧ 3 ≤ k.dk.dc.toNat then [k.dk.ep + 1#15, k.dk.ep + 2#15] else [])

/-- A pattern step of a routine, within the bounds of its mode. -/
def dsuEstep (k : Core) (svc em : Bool) (zero : W16) : DsuStep :=
  if (edsReads k).all (k.dsuMay svc) then
    match dsuEds k em zero with
    | .more k1 => if k1.dk.da != k.dk.da && !k.dsuMay svc k.dk.da then .stop k.dsuOut else .more k1
    | x => x
  else .stop k.dsuOut

/-- ADV advances the selected registers (R387). -/
def dsuAdv (d : Deckle) (s dd e : Bool) : Deckle :=
  { d with
    sa := if s then d.sa + 1 else d.sa, sc := if s then d.sc - 1 else d.sc
    da := if dd then d.da + 1 else d.da, dc := if dd then d.dc - 1 else d.dc
    ep := if e then d.ep + 1 else d.ep }

/-- SETF sets a field of DKTL (R387). -/
def dsuSetf (t : Tally) (f : Nat) (v : Bool) : Tally :=
  match f with
  | 0 => { t with sig := v }
  | 1 => { t with ps := v }
  | 2 => { t with neg := v }
  | 3 => { t with z := v }
  | 4 => { t with lo := v }
  | _ => t

/-- One step of PKS or UPS in a routine of the vendor: its opening, a unit, or its end (R174, R175, R387; DESIGN CHOICE,
notes/assumptions/173.md: the spec does not divide the pseudocode into steps). -/
def dsuPackStep (k : Core) (op : DsuOp) (svc : Bool) : DsuStep :=
  match dsuBegin k op with
  | .more k1 => if dsuEmpty k1.dk op then dsuFinish k1 op else dsuUnit k1 svc false op
  | x => x

/-- What a word of a routine at address a does (R387). -/
def dsuWordAct (g : Image) (k : Core) (r : DsuRegs) (svc md : Bool) (a : Nat) : DsuGo :=
  let w := g.dsu.get a
  let go := fun (k : Core) (r : DsuRegs) => DsuGo.next k r (a + 1) (w.getLsbD 18)
  let load := fun (x : BitVec 15) (f : W16 → DsuRegs) =>
    if k.dsuMay svc x then
      match k.dkWord x with
      | .ok (v, k1) => go k1 (f v)
      | .error k1 => .bad k1
    else .stop k.dsuOut
  let flow := fun (x : DsuStep) => match x with
    | .more k1 => go k1 r
    | .stop k1 => .stop k1
    | .bad k1 => .bad k1
  match fieldN w 19 5 with
  | 0x02 => .next k r (fieldN w 0 11) (w.getLsbD 18)
  | 0x03 =>
    if dsuTest k r md (fieldN w 14 4) != w.getLsbD 13 then .next k r (fieldN w 0 11) (w.getLsbD 18) else go k r
  | 0x04 =>
    let v : W16 := w.setWidth 16
    go k (match fieldN w 16 2 with
      | 0 => { r with u := v } | 1 => { r with v := v } | 2 => { r with p := v } | _ => { r with w := v })
  | 0x05 => load k.dk.sa (fun v => { r with u := v })
  | 0x06 => load k.dk.da (fun v => { r with v := v })
  | 0x07 => load k.dk.ep (fun v => { r with p := v })
  | 0x08 =>
    if k.dk.sc != 0#32 && !k.dsuMay svc k.dk.sa then .stop k.dsuOut
    else
      match dsuDigit k with
      | .ok d k1 => go k1 { r with d := d }
      | .stop st k1 => .stop (k1.dkSt st)
      | .bad k1 => .bad k1
  | 0x09 =>
    if k.dsuMay svc (k.dk.ep + (r.u.extractLsb' 8 8).setWidth 15) then
      match dsuTable k svc r.u with
      | .bad k1 => .bad k1
      | .fault k1 => .stop (k1.dkSt 6)
      | .none k1 => go k1 (if w.getLsbD 0 then { r with m := 0 } else r)
      | .val v k1 => go k1 (if w.getLsbD 0 then { r with m := v } else { r with u := v })
    else .stop k.dsuOut
  | 0x0A =>
    if k.dsuMay svc k.dk.da then
      let v : W16 := match fieldN w 0 3 with
        | 0 => r.u | 1 => r.v | 2 => k.dk.fill | 3 => r.w | 4 => digitUnit r.d | 5 => r.w + BitVec.ofNat 16 r.d | _ => r.p
      go ((k.dkPut k.dk.da v).modDk (fun d => dsuAdv d false true false)) r
    else .stop k.dsuOut
  | 0x0B => go (k.modDk (fun d => dsuAdv d (w.getLsbD 0) (w.getLsbD 1) (w.getLsbD 2))) r
  | 0x0C => flow (dsuMove k svc 4)
  | 0x0E => go (k.modTl (fun t => dsuSetf t (fieldN w 0 3) (w.getLsbD 3))) r
  | 0x0F =>
    let rep := w.getLsbD 2
    if rep && k.dk.dc == 0 then .stop (k.dkSt 0)
    else
      match dsuEstep k svc (w.getLsbD 0) (if w.getLsbD 1 then r.w else 0x30#16) with
      | .more k1 =>
        if !rep then .next k1 r (a + 1) true
        else if k1.dk.dc = 0#32 then .stop (k1.dkSt 0)
        else .next k1 r a true
      | .stop k1 => .stop k1
      | .bad k1 => .bad k1
  | 0x10 => flow (dsuPackStep k .pks svc)
  | 0x11 => flow (dsuPackStep k .ups svc)
  | 0x12 => .stop (k.dkSt (w.setWidth 4))
  | _ => .stuck

/-- One word of a routine, which is read with its parity (R392). -/
def dsuWord (g : Image) (k : Core) (r : DsuRegs) (svc md : Bool) (a : Nat) : DsuGo :=
  if g.parityOk 4 a then dsuWordAct g k r svc md a else .parity

/-! ### A run (R157, R165, R178, R388, R389) -/

/-- What the entry slot of (OP, MOD) starts (R388): an instruction of major 0x50, or a routine with its class and
target. -/
inductive DsuProg where
  | unit (op : DsuOp)
  | routine (cls : Option DsuOp) (target : Nat)
deriving DecidableEq, Repr

/-- The entry slot of (OP, MOD) (R388). -/
def dsuSlot (x : BitVec 4) (md : Bool) : Nat := (if x.toNat ≤ 8 then 0 else 1536) + 16 * md.toNat + x.toNat

/-- What the entry slot of (OP, MOD) holds: none where it holds no ENTRY. Of OP 0x0 to 0x8, the vendor area holds the instructions that
R164 lists (DEDUCED, notes/assumptions/34.md: with MOD 1, SCS.N alone). -/
def dsuProg (g : Image) (x : BitVec 4) (md : Bool) : Option DsuProg :=
  match dsuOpOf x with
  | some op => if md && op != .scs then none else some (.unit op)
  | none =>
    let w := g.dsu.get (dsuSlot x md)
    if fieldN w 19 5 = 1 then some (.routine (dsuOpOf (w.extractLsb' 14 4)) (fieldN w 0 11)) else none

/-- The setup's check of an operation: a class that R159 has no row for names no range (R165, R387). -/
def DsuProg.check (k : Core) : DsuProg → Option (BitVec 8 × BitVec 40)
  | .unit op => dsuCheck k op
  | .routine (some op) _ => dsuCheck k op
  | .routine none _ => none

/-- What an operation does before its first unit or word (R165, R174, R175). -/
def DsuProg.start (k : Core) : DsuProg → DsuGo
  | .unit op =>
    if dsuEmpty k.dk op then
      match op with
      | .cms => .stop (k.modTl (fun t => { t with st := 0, z := true, lo := false }))
      | .scs => .stop (k.modTl (fun t => { t with st := 0, z := true }))
      | _ => .stop (k.dkSt 0)
    else
      match dsuBegin k op with
      | .more k1 => .next k1 DsuRegs.zero 0 false
      | .stop k1 => .stop k1
      | .bad k1 => .bad k1
  | .routine cls target =>
    if (match cls with | some op => dsuEmpty k.dk op | none => false) then .stop (k.dkSt 0)
    else .next k DsuRegs.zero target false

/-- No unit is left: a stop now finds the instruction at its end (R178). -/
def DsuProg.spent (k : Core) : DsuProg → Bool
  | .unit op => dsuEmpty k.dk op
  | .routine _ _ => false

/-- One step: a unit, or what follows the last one; a word of a routine. -/
def DsuProg.step (g : Image) (svc md : Bool) (k : Core) (r : DsuRegs) (a : Nat) : DsuProg → DsuGo
  | .unit op =>
    match if dsuEmpty k.dk op then dsuFinish k op else dsuUnit k svc md op with
    | .more k1 => .next k1 r a true
    | .stop k1 => .stop k1
    | .bad k1 => .bad k1
  | .routine _ _ => dsuWord g k r svc md a

/-- How a run ended: the core, and the machine check that ended it. -/
structure DsuEnd where
  k : Core
  mc : Option MCause
deriving DecidableEq, Repr

/-- A word that reads with wrong parity stops the operation at the unit boundary before its unit, with the deckle group as it was
there; local words that the unit has written stay (R370; DESIGN CHOICE, notes/assumptions/202.md). -/
def Core.dsuParity (k : Core) (mark : Deckle) : DsuEnd := ⟨{ k with dk := mark }.dkSt 1, some .csParity⟩

/-- An operation goes on to its end, within some steps; or, when it is stopped, to a unit boundary some units on, where it is
suspended with ST 0x1 unless its work is done (R178, R389). The deckle group at the last unit boundary goes along. None: it has not
ended within them. -/
def DsuProg.go (p : DsuProg) (g : Image) (svc md : Bool) (k : Core) (mark : Deckle) (r : DsuRegs) (a : Nat) (units : Option Nat) :
    (steps : Nat) → Option DsuEnd
  | 0 => none
  | n + 1 =>
    match p.step g svc md k r a with
    | .stop k1 => some ⟨k1, none⟩
    | .bad k1 => some ⟨k1.dkSt 9, some .localData⟩
    | .parity => some (k.dsuParity mark)
    | .stuck => none
    | .next k1 r1 a1 b =>
      match units, b with
      | some u, true =>
        if u ≤ 1 ∧ !p.spent k1 then some ⟨k1.dkSt 1, none⟩ else p.go g svc md k1 k1.dk r1 a1 (some (u - 1)) n
      | _, _ => p.go g svc md k1 (if b then k1.dk else mark) r1 a1 units n

/-- A routine that runs for this many words never ends, for all that matters: 2^64 cycles. -/
def dsuForever : Nat := 0x10000000000000000

/-- The steps within which an operation ends. -/
def DsuProg.fuel (k : Core) : DsuProg → Nat
  | .unit _ => dsuAll k.dk + 1
  | .routine _ _ => dsuForever

/-- An instruction of major 0x50 stands at a unit boundary between any two of its steps, so that a stop can find it there
(R178). -/
def DsuProg.stopsHere (k : Core) (units : Option Nat) : DsuProg → Bool
  | .unit op => units == some 0 && !dsuEmpty k.dk op
  | .routine _ _ => false

/-- The rest of an operation that has begun. -/
def DsuProg.rest (p : DsuProg) (g : Image) (svc md : Bool) (k : Core) (mark : Deckle) (r : DsuRegs) (a : Nat) (units : Option Nat) :
    Option DsuEnd :=
  if p.stopsHere k units then some ⟨k.dkSt 1, none⟩ else p.go g svc md k mark r a units (p.fuel k)

/-- An operation from its issue: its setup, then the rest (R165). -/
def DsuProg.run (p : DsuProg) (g : Image) (svc md : Bool) (k : Core) (units : Option Nat) : Option DsuEnd :=
  match p.start k with
  | .next k1 r a _ => p.rest g svc md k1 k1.dk r a units
  | .stop k1 => some ⟨k1, none⟩
  | .bad k1 => some ⟨k1.dkSt 9, some .localData⟩
  | _ => none

/-- The core with the deckle group that the setup works on (R165). -/
def Core.dsuSet (k : Core) (x : BitVec 4) (md : Bool) (ia : BitVec 32) : Core :=
  k.modTl (fun t => { t with op := x, md := md, ia := ia })

/-- The outstanding DSU instruction ends, or stops after some units, and delivers the deckle group; an uncorrectable word
is an asynchronous machine check, and a word with wrong parity, that of the entry slot among them, makes the core wait for a
reload (R156, R177, R365, R370). None: it never ends. -/
def dsuEndAt (g : Image) (k : Core) (x : BitVec 4) (md : Bool) (ia : BitVec 32) (svc : Bool) (run : Option DsuAt)
    (units : Option Nat) : Option Core :=
  match dsuProg g x md with
  | none => some (k.dropLong .dsu)
  | some p =>
    let r : Option DsuEnd := match run with
      | none =>
        let k1 := k.dsuSet x md ia
        if g.parityOk 4 (dsuSlot x md) then p.run g svc md k1 units else some (k1.dsuParity k1.dk)
      | some d => p.rest g svc md { k with dk := d.dk } d.mark d.regs d.addr units
    r.map (fun e =>
        let k1 := e.k.dropLong .dsu
        match e.mc with
        | none => k1
        | some .csParity => { k1 with ctl := { k1.ctl with reload := some true } }
        | some m => { k1 with ctl := { k1.ctl with asyncMc := k1.ctl.asyncMc ++ [m] } })

/-- The outstanding DSU instruction makes one step beside the pipe: its setup, a unit or a word. The words that it writes
stand in local memory at once (R80, R158); the deckle group waits for its delivery (R156), and so does the step that ends
it. -/
def Core.dsuTick (k : Core) (g : Image) : Core :=
  match k.long? .dsu with
  | some { op := .dsu x md ia svc false run, .. } =>
    match dsuProg g x md with
    | none => k
    | some p =>
      match (match run with
        | none => if g.parityOk 4 (dsuSlot x md) then p.start (k.dsuSet x md ia) else .parity
        | some d => p.step g svc md { k with dk := d.dk } d.regs d.addr) with
      | .next k1 r a b =>
        let mark := match b, run with | false, some d => d.mark | _, _ => k1.dk
        { k1 with dk := k.dk }.modLong .dsu (fun o => { o with op := .dsu x md ia svc false (some ⟨k1.dk, mark, r, a⟩) })
      | _ => k
  | _ => k

/-- Issues a DSU instruction in the mode that governs it; older local stores drain during its setup (R85, R158). One that is issued
on the way to the boundary of a quiesce or a gating is stopped at a unit boundary, to be re-issued later (R400, R513). -/
def dsuStart (s : State) (c : CoreId) (k : Core) (x : BitVec 4) (md : Bool) (ia : BitVec 32) : Core :=
  let held := (s.quire (coreQuire c)).quiesced || k.ctl.gated
  let k1 := (k.drainLocal k.sbuf.length).addLong
    ⟨.dsu, .dsu x md ia k.sys.mode held none, s.stamp, some s.entryNow, none, none⟩
  { k1 with ctl := { k1.ctl with dsuStopped := k1.ctl.dsuStopped || held } }

/-- A DSU instruction (R156, R164, R165). -/
def dsuIssue (s : State) (c : CoreId) (i : Instr) (x : BitVec 4) (op : DsuOp) (md : Bool) : Out :=
  issue s c i plain (fun s k =>
    if k.dsuBusy then .hold
    else
      match dsuCheck k op with
      | some (cause, xad) => .exc cause xad 0
      | none => .done s.stamped (dsuStart s c k x md k.pc) [] .seq)

/-- MVS (R166). -/
def execMvs (c : CoreId) (s : State) : Out := dsuIssue s c (.mvs c) 0 .mvs false
/-- MVSP (R167). -/
def execMvsp (c : CoreId) (s : State) : Out := dsuIssue s c (.mvsp c) 1 .mvsp false
/-- TRS (R168). -/
def execTrs (c : CoreId) (s : State) : Out := dsuIssue s c (.trs c) 2 .trs false
/-- CMS (R169). -/
def execCms (c : CoreId) (s : State) : Out := dsuIssue s c (.cms c) 3 .cms false
/-- SCS (R170). -/
def execScs (c : CoreId) (s : State) : Out := dsuIssue s c (.scs c) 4 .scs false
/-- SCS.N (R170). -/
def execScsN (c : CoreId) (s : State) : Out := dsuIssue s c (.scsN c) 4 .scs true
/-- EDS (R172). -/
def execEds (c : CoreId) (s : State) : Out := dsuIssue s c (.eds c) 5 .eds false
/-- EDSM (R172). -/
def execEdsm (c : CoreId) (s : State) : Out := dsuIssue s c (.edsm c) 6 .edsm false
/-- PKS (R174). -/
def execPks (c : CoreId) (s : State) : Out := dsuIssue s c (.pks c) 7 .pks false
/-- UPS (R175). -/
def execUps (c : CoreId) (s : State) : Out := dsuIssue s c (.ups c) 8 .ups false

/-- DSU_SUSPEND: a DSU instruction for which a stop was requested finishes the unit in progress and delivers, some units on
(R178). A stop that comes before the first unit finds the opening writes of its setup done and suspends it there (DESIGN
CHOICE, notes/assumptions/169.md). -/
def execDsuSuspend (c : CoreId) (units : Nat) (s : State) : Out :=
  let k := s.core c
  match k.long? .dsu with
  | some { op := .dsu x md ia svc true run, .. } =>
    if k.discards then .next (s.setCore c (k.dropLong .dsu))
    else
      match dsuEndAt (s.quire (coreQuire c)).image k x md ia svc run (some units) with
      | some k1 => .next (s.setCore c k1)
      | none => .next s
  | _ => .next s

end Sys2Proof.Machine
end

