-- ==== Sys2Proof/Machine/Moulds.lean ====
section
/-! DEFINITION. Moulds and their conversions (10_record_streams.md R290 to R299). -/
namespace Sys2Proof.Machine

/-- A field of a mould (R290). -/
structure MField where
  cv : Nat
  so : Nat
  dO : Nat
  map : Nat
  sl : Nat
  dl : Nat
  w3 : W16
deriving DecidableEq, Repr

/-- A mould that is present and valid (R290). -/
structure Mould where
  out : Bool
  rs : Nat
  ds : Nat
  fields : List MField
deriving DecidableEq, Repr

/-- The length limits of a conversion code (R293). -/
def lengthsOk (cv sl dl : Nat) : Bool :=
  let within := fun (s d : Nat) => decide (1 ≤ sl) && decide (sl ≤ s) && decide (1 ≤ dl) && decide (dl ≤ d)
  match cv with
  | 0x0 => decide (sl = 2 * dl)
  | 0x1 => within 255 255
  | 0x2 => within 255 255
  | 0x3 => within 32 8
  | 0x4 => within 8 4
  | 0x5 => within 8 4
  | 0x8 => decide (dl = 2 * sl)
  | 0x9 => within 255 255
  | 0xA => within 255 255
  | 0xB => within 8 32
  | 0xC => within 4 8
  | 0xD => within 4 8
  | _ => false

/-- A field entry of the mould store. -/
def mfieldAt (m : Cells 16) (a : Nat) : MField :=
  let w := fun i => m.get (a + i)
  { cv := fieldN (w 0) 12 4, so := fieldN (w 0) 0 12, dO := fieldN (w 1) 0 12, map := fieldN (w 1) 12 3
    sl := fieldN (w 2) 0 8, dl := fieldN (w 2) 8 8, w3 := w 3 }

/-- A field is valid in a mould: its code and direction, its lengths, and its room in both records (R290, R293). -/
def MField.ok (f : MField) (out : Bool) (rs ds : Nat) : Bool :=
  lengthsOk f.cv f.sl f.dl && decide (8 ≤ f.cv) == out && decide (f.so + f.sl ≤ rs) && decide (f.dO + f.dl ≤ ds)

/-- Mould n of a mould store; none is a mould error (R290). -/
def mouldAt (m : Cells 16) (n : Nat) : Option Mould :=
  let a := (m.get n).toNat
  let nf := fieldN (m.get a) 0 7
  let out := (m.get a).getLsbD 15
  let rs := (m.get (a + 1)).toNat
  let ds := (m.get (a + 2)).toNat
  let fs := (List.range nf).map (fun i => mfieldAt m (a + 4 + 4 * i))
  if a < 0x40 ∨ nf = 0 ∨ 0x7FF < a + 3 + 4 * nf ∨ rs = 0 ∨ ds = 0 ∨ !fs.all (fun f => f.ok out rs ds) then none
  else some ⟨out, rs, ds, fs⟩

/-- The bytes of one source record. -/
def Mould.stride (m : Mould) : Nat := if m.out then 2 * m.rs else m.rs
/-- The destination units of a record up to the end of the field that reaches furthest. -/
def Mould.reach (m : Mould) : Nat := m.fields.foldl (fun acc f => max acc (f.dO + f.dl)) 0

/-! ### Characters (R295 to R297) -/

/-- Drops leading and trailing bytes equal to a pad. -/
def trimPad (pad : Byte) (bs : List Byte) : List Byte :=
  ((bs.dropWhile (· == pad)).reverse.dropWhile (· == pad)).reverse

/-- Justifies a result in n units; none when it is too long. -/
def justify (n : Nat) (jr : Bool) (fill : W16) (us : List W16) : Option (List W16) :=
  if n < us.length then none
  else if jr then some (List.replicate (n - us.length) fill ++ us)
  else some (us ++ List.replicate (n - us.length) fill)

/-- Word b of map k of a mould store. -/
def mapWord (m : Cells 16) (k b : Nat) : W16 := m.get (0x800 + k * 0x100 + b)

/-- What the lead byte of UTF-8 asks: the continuation bytes, the range of the first of them, and the bits it brings; none
for a byte that can begin nothing. -/
def utf8Lead (b : Nat) : Option (Nat × Nat × Nat × Nat) :=
  if b < 0x80 then some (0, 0, 0, b)
  else if 0xC2 ≤ b ∧ b ≤ 0xDF then some (1, 0x80, 0xBF, b % 32)
  else if b = 0xE0 then some (2, 0xA0, 0xBF, 0)
  else if b = 0xED then some (2, 0x80, 0x9F, 13)
  else if 0xE1 ≤ b ∧ b ≤ 0xEF then some (2, 0x80, 0xBF, b % 16)
  else if b = 0xF0 then some (3, 0x90, 0xBF, 0)
  else if 0xF1 ≤ b ∧ b ≤ 0xF3 then some (3, 0x80, 0xBF, b % 8)
  else if b = 0xF4 then some (3, 0x80, 0x8F, 4)
  else none

/-- Takes n continuation bytes: the scalar when all are there, and how many belong to the sequence. -/
def utf8Cont : Nat → Nat → Nat → Nat → List Byte → Option Nat × Nat
  | 0, _, _, v, _ => (some v, 0)
  | _ + 1, _, _, _, [] => (none, 0)
  | n + 1, lo, hi, v, b :: rest =>
    if lo ≤ b.toNat ∧ b.toNat ≤ hi then
      let (r, k) := utf8Cont n 0x80 0xBF (v * 64 + b.toNat % 64) rest
      (r, k + 1)
    else (none, 0)

/-- A scalar value as 16-bit units. -/
def utf16 (v : Nat) : List W16 :=
  if v < 0x10000 then [BitVec.ofNat 16 v]
  else [BitVec.ofNat 16 (0xD800 + (v - 0x10000) / 0x400), BitVec.ofNat 16 (0xDC00 + (v - 0x10000) % 0x400)]

/-- Decodes UTF-8: the units, and whether anything was replaced (R296). The fuel is the number of bytes. -/
def utf8Decode : Nat → List Byte → List W16 × Bool
  | 0, _ => ([], false)
  | _ + 1, [] => ([], false)
  | n + 1, b :: rest =>
    let (v, k) := match utf8Lead b.toNat with
      | some (c, lo, hi, v) => utf8Cont c lo hi v rest
      | none => (none, 0)
    let (us, r) := utf8Decode n (rest.drop k)
    match v with
    | some x => (utf16 x ++ us, r)
    | none => (0xFFFD#16 :: us, true)

/-- A scalar value as UTF-8. -/
def utf8Bytes (v : Nat) : List Byte :=
  let c := fun (x : Nat) => BitVec.ofNat 8 (0x80 + x % 64)
  if v < 0x80 then [BitVec.ofNat 8 v]
  else if v < 0x800 then [BitVec.ofNat 8 (0xC0 + v / 64), c v]
  else if v < 0x10000 then [BitVec.ofNat 8 (0xE0 + v / 4096), c (v / 64), c v]
  else [BitVec.ofNat 8 (0xF0 + v / 262144), c (v / 4096), c (v / 64), c v]

/-- A unit is a high surrogate, a low surrogate. -/
def highSur (u : W16) : Bool := fieldN u 10 6 == 0x36
def lowSur (u : W16) : Bool := fieldN u 10 6 == 0x37

/-- Encodes units as UTF-8: the bytes, and whether an unpaired surrogate was replaced (R296). -/
def utf8Encode : Nat → List W16 → List Byte × Bool
  | 0, _ => ([], false)
  | _ + 1, [] => ([], false)
  | n + 1, u :: rest =>
    let pair := match rest with
      | w :: _ => highSur u && lowSur w
      | [] => false
    if pair then
      let w := rest.headD 0
      let (bs, r) := utf8Encode n rest.tail
      (utf8Bytes (0x10000 + fieldN u 0 10 * 0x400 + fieldN w 0 10) ++ bs, r)
    else
      let (bs, r) := utf8Encode n rest
      if highSur u || lowSur u then ([0xEF, 0xBF, 0xBD] ++ bs, true) else (utf8Bytes u.toNat ++ bs, r)

/-- A byte as a unit of the destination. -/
def byteUnit (b : Byte) : W16 := b.setWidth 16

/-! ### Zoned fields and integers (R298, R299) -/

/-- The value of zoned digit bytes; none for a byte that is no digit. The last byte's zone is checked by the caller's
rule. -/
def zonedDigits (zone : Nat) (lastZone : Nat → Bool) : List Byte → Nat → Option Nat
  | [], acc => some acc
  | b :: rest, acc =>
    let z := b.toNat / 16
    let zoneOk := if rest.isEmpty then lastZone z else z == zone
    if b.toNat % 16 ≤ 9 ∧ zoneOk then zonedDigits zone lastZone rest (acc * 10 + b.toNat % 16) else none

/-- ZONED inbound: bytes to a packed field of dl words (R298). -/
def zonedIn (w3 : W16) (dl : Nat) (bs : List Byte) : Option (List W16) :=
  let sgn := fieldN w3 0 2
  let zone := fieldN w3 8 4
  let signByte := if sgn = 2 then bs.getLast? else if sgn = 3 then bs.head? else none
  let digits := if sgn = 2 then bs.dropLast else if sgn = 3 then bs.tail else bs
  let lastZone := fun z => if sgn = 1 then decide (10 ≤ z) else z == zone
  let overpunch := (bs.getLast?.getD 0).toNat / 16
  let neg? : Option Bool :=
    if sgn = 0 then some false
    else if sgn = 1 then some (signMinus overpunch)
    else if signByte = some 0x2B then some false
    else if signByte = some 0x2D then some true
    else none
  match neg?, zonedDigits zone lastZone digits 0 with
  | some neg, some mag =>
    if 10 ^ (4 * dl - 1) ≤ mag then none else some (fieldOf dl ⟨neg, mag⟩ (w3.getLsbD 5) false)
  | _, _ => none

/-- ZONED outbound: a packed field to dl bytes (R298). -/
def zonedOut (w3 : W16) (dl : Nat) (ws : List W16) : Option (List Byte) :=
  let sgn := fieldN w3 0 2
  let zone := fieldN w3 8 4
  let nd := if 2 ≤ sgn then dl - 1 else dl
  if (fieldBad ws).isSome then none
  else
    let v := fieldVal ws
    let neg := v.neg && decide (v.mag ≠ 0)
    if 10 ^ nd ≤ v.mag || (sgn == 0 && neg) then none
    else
      let digit := fun (z i : Nat) => BitVec.ofNat 8 (z * 16 + v.mag / 10 ^ i % 10)
      let ds := (List.range nd).reverse.map (digit zone)
      let sign : Byte := if neg then 0x2D else 0x2B
      if sgn = 1 then some (ds.dropLast ++ [digit (signNibble neg (w3.getLsbD 5)) 0])
      else if sgn = 2 then some (ds ++ [sign])
      else if sgn = 3 then some (sign :: ds)
      else some ds

/-- A number fits in n bits of its signedness (R299). -/
def fitsInt (sig : Bool) (n : Nat) (v : Int) : Bool :=
  if sig then decide (-(2 ^ (n - 1) : Int) ≤ v) && decide (v < (2 ^ (n - 1) : Int)) else decide (0 ≤ v) && decide (v < (2 ^ n : Int))

/-- An unsigned number of n bits read with a signedness. -/
def readInt (sig : Bool) (n v : Nat) : Int := if sig && decide (2 ^ (n - 1) ≤ v) then (v : Int) - 2 ^ n else v

/-- INTBE and INTLE inbound (R299). -/
def intIn (sig le : Bool) (dl : Nat) (bs : List Byte) : Option (List W16) :=
  let v := readInt sig (8 * bs.length) (beNat (if le then bs.reverse else bs))
  if fitsInt sig (16 * dl) v then some (natWords dl (v % 2 ^ (16 * dl)).toNat) else none
/-- INTBE and INTLE outbound (R299). -/
def intOut (sig le : Bool) (dl : Nat) (ws : List W16) : Option (List Byte) :=
  let v := readInt sig (16 * ws.length) (wordsNat ws)
  if fitsInt sig (8 * dl) v then
    let bs := natBytesBE dl (v % 2 ^ (8 * dl)).toNat
    some (if le then bs.reverse else bs)
  else none

/-! ### A record (R292, R294) -/

/-- The units that a field makes, with whether anything was replaced; none is a conversion failure. -/
def convField (m : Cells 16) (f : MField) (record : List Byte) : Option (List W16 × Bool) :=
  let pad : Byte := f.w3.extractLsb' 8 8
  let jr := f.w3.getLsbD 2
  let sig := f.w3.getLsbD 6
  let bs := (record.drop f.so).take f.sl
  let trimmed := if f.w3.getLsbD 3 then trimPad pad bs else bs
  let ws := (wordsOfBytes (record.drop (2 * f.so))).take f.sl
  let whole := fun (x : Option (List W16)) => x.map (fun us => (us, false))
  let bytes := fun (x : Option (List Byte)) => x.map (fun us => (us.map byteUnit, false))
  match f.cv with
  | 0x0 => some (wordsOfBytes bs, false)
  | 0x1 =>
    whole (justify f.dl jr (mapWord m f.map pad.toNat) (trimmed.map (fun b => mapWord m f.map b.toNat)))
  | 0x2 =>
    let (us, r) := utf8Decode trimmed.length trimmed
    (justify f.dl jr (byteUnit pad) us).map (fun us => (us, r))
  | 0x3 => whole (zonedIn f.w3 f.dl bs)
  | 0x4 => whole (intIn sig false f.dl bs)
  | 0x5 => whole (intIn sig true f.dl bs)
  | 0x8 => some ((bytesOfWords ws).map byteUnit, false)
  | 0x9 =>
    let look := fun (u : W16) => (List.range 256).find? (fun b => mapWord m f.map b == u)
    if f.w3.getLsbD 4 && ws.any (fun u => (look u).isNone) then none
    else
      let us := ws.map (fun u => match look u with | some b => BitVec.ofNat 16 b | none => byteUnit pad)
      (justify f.dl jr (byteUnit pad) us).map (fun us => (us, ws.any (fun u => (look u).isNone)))
  | 0xA =>
    let (us, r) := utf8Encode ws.length ws
    (justify f.dl jr (byteUnit pad) (us.map byteUnit)).map (fun us => (us, r))
  | 0xB => bytes (zonedOut f.w3 f.dl ws)
  | 0xC => bytes (intOut sig false f.dl ws)
  | _ => bytes (intOut sig true f.dl ws)

/-- What a record makes: the units by destination index, in the order written, and whether anything was replaced; or the
number of the field that failed. -/
inductive ConvRes where
  | ok (units : List (Nat × W16)) (replaced : Bool)
  | fail (field : Nat)
deriving DecidableEq, Repr

/-- Applies fields in the order listed; i is the number of the first (R292, R294). -/
def convFields (m : Cells 16) (record : List Byte) : Nat → List MField → ConvRes
  | _, [] => .ok [] false
  | i, f :: rest =>
    match convField m f record with
    | none => .fail i
    | some (us, r) =>
      match convFields m record (i + 1) rest with
      | .fail j => .fail j
      | .ok more r' => .ok (us.mapIdx (fun k u => (f.dO + k, u)) ++ more) (r || r')

/-- Converts one record of a mould. -/
def Mould.convert (g : Mould) (m : Cells 16) (record : List Byte) : ConvRes := convFields m record 1 g.fields

end Sys2Proof.Machine
end

