-- ==== Sys2Proof/Machine/Streams.lean ====
section
/-!
DEFINITION. The stream engines: addresses and translation, descriptors and their checks, the movement of data, completion
(10_record_streams.md R277 to R302, R569).
-/
namespace Sys2Proof.Machine

/-! ### Addresses (R280, R281) -/

/-- The kinds of a stream address (R280). -/
inductive SKind where
  | host | virt | ram | bad
deriving DecidableEq, Repr

/-- The kind of an address; reserved bits that are not 0 make it invalid (R280, R288). -/
def skind (a : W64) : SKind :=
  match fieldN a 62 2 with
  | 0 => .host
  | 1 => if fieldN a 40 22 = 0 then .virt else .bad
  | 2 => if fieldN a 22 40 = 0 then .ram else .bad
  | _ => .bad

/-- The bus address of a HOST address, the D-space address of a VIRT address. -/
def hostAddr (a : W64) : Nat := fieldN a 0 62
def virtAddr (a : W64) : BitVec 40 := a.setWidth 40
/-- Core, bank and word of a LOCAL address; bit [15] chooses the instruction RAM. -/
def ramCore (a : W64) : CoreId := ⟨fieldN a 16 6 % 64, by omega⟩
def ramIsI (a : W64) : Bool := a.getLsbD 15
def ramWord (a : W64) : Nat := fieldN a 0 15

/-- A LOCAL address lies in its RAM, and a run of words from it stays there (R280). -/
def ramFits (a : W64) (n : Nat) : Bool :=
  let size := if ramIsI a then 0x2000 else 0x8000
  decide (ramWord a < size) && decide (ramWord a + n ≤ size)

/-! ### Descriptors (R287) -/

/-- The fields of a descriptor. -/
structure Desc where
  src : W64
  dst : W64
  cnt : Nat
  mld : Nat
  win : WinId
  ws : Bool
  slot : Bool
  wc : CoreId
  tag : BitVec 32
  reserved : Bool
deriving DecidableEq, Repr

/-- Reads the fields of a descriptor's 16 words. -/
def descOf (ws : List W16) : Desc :=
  let w := descWord ws
  { src := quadOf (ws.take 4), dst := quadOf ((ws.drop 4).take 4), cnt := (w 8).toNat * 65536 + (w 9).toNat
    mld := fieldN (w 10) 0 6, win := ⟨fieldN (w 10) 6 4 % 16, by omega⟩, ws := (w 10).getLsbD 10, slot := (w 10).getLsbD 11
    wc := ⟨fieldN (w 11) 0 6 % 64, by omega⟩, tag := w 12 ++ w 13
    reserved := fieldN (w 10) 12 4 != 0 || fieldN (w 11) 6 10 != 0 }

/-- A window of a core. -/
def State.window (s : State) (c : CoreId) (w : WinId) : Window := (s.core c).win[w]
/-- Changes a window of a core. -/
def State.modWindow (s : State) (c : CoreId) (w : WinId) (f : Window → Window) : State :=
  s.modCore c (fun k => { k with win := k.win.set w (f k.win[w]) })
/-- The words of a window's slot, with LSZ as it acts (R303). -/
def Window.slotWords (w : Window) : Nat := 2 ^ (min 12 (max 2 w.lsz.toNat))

/-- The words that a descriptor would write at a word destination, to the one that holds the last byte (R281, R288). -/
def destWords (d : Desc) (m : Option Mould) : Nat :=
  match m with
  | none => (d.cnt + 1) / 2
  | some g =>
    let units := (d.cnt / g.stride - 1) * g.ds + g.reach
    if g.out then (units + 1) / 2 else units

/-- The checks of R288 for a descriptor with CNT ≠ 0: the status of the first that fails. -/
def descCheck (s : State) (e : EngId) (d : Desc) : Option (BitVec 8) :=
  let sk := skind d.src
  let dk := if d.slot then SKind.ram else skind d.dst
  let m := if d.mld = 0 then none else mouldAt (s.eng e).mould d.mld
  let w := s.window d.wc d.win
  if d.reserved then some 0x10
  else if sk == .bad || dk == .bad || (sk == .host && dk == .host) || (sk != .host && d.cnt % 2 == 1) then some 0x10
  else if d.mld != 0 && m.isNone then some 0x11
  else if (match m with | some g => d.cnt % g.stride != 0 | none => false) then some 0x10
  else if (sk == .ram && !ramFits d.src (d.cnt / 2)) || (!d.slot && dk == .ram && !ramFits d.dst (destWords d m))
      || (d.slot && w.en && decide (w.slotWords < destWords d m)) then some 0x10
  else none

/-! ### Translation (R282, R320, R322) -/

/-- What the translation of an engine's access comes to: an address, the status that ends the descriptor, or the wait for
a table's line. -/
inductive EngTr where
  | ok (s : State) (pa : Nat)
  | fault (s : State) (st : BitVec 8)
  | held (ln : Nat)

/-- What an engine's act comes to, or why it waits: for a line of the mesh, or for something else. -/
abbrev EngAct (α : Type) := Except (Option Nat) α

/-- Translates and checks a VIRT access of an engine through its quire's cache; D-space translates from 0x8000 upward (R282,
R310, R327). -/
def engTranslate (s : State) (e : EngId) (va : BitVec 40) (write : Bool) : EngTr :=
  let x := s.eng e
  let q := engQuire e
  let want : Want := ⟨!write, write, false, true, if write then [0, 1] else [0, 1, 2]⟩
  let check := fun (s : State) =>
    match translate (s.quire q).qtc x.xctx.tag true x.krr va want with
    | .ok pa ent =>
      EngTr.ok (s.setQuire q { s.quire q with qtc := tlbTouch (s.quire q).qtc ent }) pa
    | .miss => EngTr.fault s 0x14
    | _ => EngTr.fault s 0x15
  if !x.xctx.v || decide (va.toNat < localEnd) then .fault s 0x14
  else if (tlbFind (s.quire q).qtc x.xctx.tag (vpnOf va)).isSome then check s
  else
    let w := walk s (unitEng e) x.xctx [] va
    match w.r with
    | .leaf ent => check (w.s.setQuire q { w.s.quire q with qtc := tlbFill 256 (w.s.quire q).qtc ent })
    | .trans _ => .fault w.s 0x14
    | .place _ => .fault w.s 0x14
    | .mc _ => .fault w.s 0x13
    | .held ln => .held ln

/-! ### Requests to host memory (R452, R458, R469) -/

/-- Cuts a run of n bytes at the multiples of a size: the offsets and lengths of its parts. The fuel bounds the parts. -/
def cutAt (size addr n : Nat) : Nat → List (Nat × Nat)
  | 0 => []
  | f + 1 =>
    if n = 0 then []
    else
      let k := min n (size - addr % size)
      (addr, k) :: cutAt size (addr + k) (n - k) f

/-- Bytes of the largest payload: the PF's field counts for its VFs too, and a size above 512 acts as 512 (R452). -/
def State.payloadMax (s : State) : Nat := 128 * 2 ^ min 2 s.host.cfg[(0 : FnId)].mps.toNat
/-- Bytes of the largest read request (R452). -/
def State.readMax (s : State) : Nat := 128 * 2 ^ min 5 s.host.cfg[(0 : FnId)].mrrs.toNat

/-- Posted writes to host memory, none longer than the largest payload; discarded while the link is down (R452, R469). -/
def hostPost (s : State) (fn : FnId) (addr : Nat) (bytes : List Byte) (ep : Bool) : State :=
  if s.host.lup then
    (cutAt s.payloadMax addr bytes.length (bytes.length / s.payloadMax + 2)).foldl (fun s c =>
      s.send (.hostWrite fn c.1 ((bytes.drop (c.1 - addr)).take c.2) ep)) s
  else s

/-- Read requests to host memory, none longer than the largest (R452, R458). -/
def hostAsk (s : State) (fn : FnId) (addr n : Nat) : State :=
  (cutAt s.readMax addr n (n / s.readMax + 2)).foldl (fun s c => s.send (.hostRead fn c.1 c.2)) s

/-! ### Reading the source (R278, R281, R300, R301) -/

/-- What a source gives: its bytes in order, each with 0 or the name of its poisoned unit, and the status of a fault that
ended the read after them. -/
structure SrcRead where
  s : State
  bytes : List (Byte × Nat)
  stop : Option (BitVec 8)

/-- Words as bytes with a unit name for each word. -/
def tagWords (ws : List W16) (name : Nat → Nat) : List (Byte × Nat) :=
  (ws.mapIdx (fun i w => (bytesOfWord w).map (fun b => (b, name i)))).flatten

/-- Words of a core's RAM as a stream reads them: undrained stores of the core are not seen (R278). -/
def ramRead (k : Core) (iram : Bool) (a n : Nat) : List (Byte × Nat) :=
  let bad := if iram then k.iramBad else k.locBad
  tagWords ((if iram then k.iram else k.loc).read a n) (fun i => if bad.get ((a + i) / 4) = 0#1 then 0 else (a + i) / 4 + 1)

/-- The name of the unit of poison that holds a physical word; of the journal SRAM, which the rule does not name, the group of 4
words (R300; DESIGN CHOICE, notes/assumptions/210.md). -/
def poisonUnit (p : Part) (pa : Nat) : Nat :=
  match regionOf p pa with
  | .hbm => pa / 16 * 16 + 1
  | .vat => pa / 32 * 32 + 1
  | _ => pa / 4 * 4 + 1

/-- Reads words of VIRT space, a line at a time, up to the first fault or the first unit that cannot be trusted, unless a line
makes it wait (R17, R246, R282, R300, R301). The fuel bounds the lines. -/
def virtRead (s : State) (e : EngId) (va : BitVec 40) (n : Nat) : Nat → EngAct SrcRead
  | 0 => .ok ⟨s, [], none⟩
  | f + 1 =>
    if n = 0 then .ok ⟨s, [], none⟩
    else
      match engTranslate s e va false with
      | .held ln => .error (some ln)
      | .fault s1 st => .ok ⟨s1, [], some st⟩
      | .ok s1 pa =>
        if s1.mustWait (srcEng e) pa then .error (some (lineOf pa))
        else
          let k := min n (32 - pa % 32)
          let rd := readWords s1 (unitEng e) pa k
          let bad := fun (i : Nat) => rd.bad.contains ((pa % 32 + i) / 4)
          let here := tagWords rd.ws (fun i => if bad i then poisonUnit s.part (pa + i) else 0)
          let s2 := touchUse rd.s pa false
          if (List.range k).any bad then .ok ⟨s2, here, none⟩
          else (virtRead s2 e (va + BitVec.ofNat 40 k) (n - k) f).map (fun r => { r with bytes := here ++ r.bytes })

/-- What the host's replies bring: their bytes, and status 0x16 where one is an error (R301). -/
def hostBytes : Nat → List HostReply → List (Byte × Nat) × Option (BitVec 8)
  | _, [] => ([], none)
  | i, .data bs :: rest =>
    let (more, st) := hostBytes (i + 1) rest
    (bs.map (fun b => (b, 0)) ++ more, st)
  | i, .poisoned bs :: rest =>
    let (more, st) := hostBytes (i + 1) rest
    (bs.map (fun b => (b, i + 1)) ++ more, st)
  | _, .error :: _ => ([], some 0x16)

/-- Reads the first n bytes of a descriptor's source, unless it must wait. The requests to the host show in the act in which their
replies have come; Camwin's were made at its fetch. -/
def readSource (s : State) (e : EngId) (d : Desc) (cam : Bool) (src : List HostReply) (n : Nat) : EngAct SrcRead :=
  match skind d.src with
  | .host =>
    let (bs, st) := hostBytes 0 src
    if bs.length < n && st.isNone then .error none
    else .ok ⟨if cam then s else hostAsk s 0 (hostAddr d.src) n, bs.take n, if bs.length < n then st else none⟩
  | .ram => .ok ⟨s, ramRead (s.core (ramCore d.src)) (ramIsI d.src) (ramWord d.src) (n / 2), none⟩
  | _ => virtRead s e (virtAddr d.src) (n / 2) (n / 64 + 2)

/-! ### What is written (R281, R292, R294, R300) -/

/-- What a descriptor produces: units by destination index, in the order written, the poison each carries, and how it
ends. -/
structure Produced where
  units : List (Nat × W16 × Bool)
  st : BitVec 8
  fld : BitVec 7

/-- A plain copy of the first n bytes, if they are all there (R292, R300). -/
def plainCopy (r : SrcRead) (n : Nat) (aborted : Bool) : Produced :=
  let bs := r.bytes.take n
  let out := fun (l : List (Byte × Nat)) => l.mapIdx (fun i b => (i, byteUnit b.1, b.2 != 0))
  match bs.find? (fun b => b.2 != 0) with
  | some b =>
    let clean := bs.takeWhile (fun x => x.2 == 0)
    ⟨out (clean ++ (bs.drop clean.length).takeWhile (fun x => x.2 == b.2)), 0x13, 0⟩
  | none => ⟨out bs, if bs.length < n then r.stop.getD 0 else if aborted then 0x17 else 0, 0⟩

/-- Converts records from the one with destination base `base` on; n records are left (R292, R294, R300). -/
def convRecords (g : Mould) (m : Cells 16) (stop : Option (BitVec 8)) (aborted : Bool) :
    Nat → Nat → List (Byte × Nat) → Bool → Produced
  | 0, _, _, rep => ⟨[], if aborted then 0x17 else if rep then 0x02 else 0, 0⟩
  | n + 1, base, bs, rep =>
    let rec_ := bs.take g.stride
    if rec_.any (fun b => b.2 != 0) then ⟨[], 0x13, 0⟩
    else if rec_.length < g.stride then ⟨[], stop.getD 0, 0⟩
    else
      match g.convert m (rec_.map (·.1)) with
      | .fail i => ⟨[], 0x12, BitVec.ofNat 7 i⟩
      | .ok us r =>
        let p := convRecords g m stop aborted n (base + g.ds) (bs.drop g.stride) (rep || r)
        { p with units := us.map (fun u => (base + u.1, u.2, false)) ++ p.units }

/-- Puts a unit into a list ordered by index. -/
def putUnit {α : Type} (k : Nat) (f : Option α → α) : List (Nat × α) → List (Nat × α)
  | [] => [(k, f none)]
  | (j, v) :: rest =>
    if k < j then (k, f none) :: (j, v) :: rest
    else if k = j then (j, f (some v)) :: rest
    else (j, v) :: putUnit k f rest

/-- A destination word: its new bits, the bits of the old word that it keeps, and whether it carries poison. -/
structure WUnit where
  v : W16
  keep : W16
  bad : Bool
deriving DecidableEq, Repr

/-- A byte at destination byte b of a word destination (R281). -/
def putByte (b : Nat) (v : W16) (bad : Bool) (l : List (Nat × WUnit)) : List (Nat × WUnit) :=
  putUnit (b / 2) (fun o =>
    let u := o.getD ⟨0, 0xFFFF, false⟩
    if b % 2 = 0 then ⟨(u.v &&& 0x00FF#16) ||| (v <<< 8), u.keep &&& 0x00FF#16, u.bad || bad⟩
    else ⟨(u.v &&& 0xFF00#16) ||| (v &&& 0x00FF#16), u.keep &&& 0xFF00#16, u.bad || bad⟩) l

/-- The words of a word destination; `bytes` when the units are bytes. -/
def wordUnits (bytes : Bool) (us : List (Nat × W16 × Bool)) : List (Nat × WUnit) :=
  us.foldl (fun l u =>
    if bytes then putByte u.1 u.2.1 u.2.2 l else putUnit u.1 (fun _ => ⟨u.2.1, 0, u.2.2⟩) l) []

/-- The bytes of a HOST destination; words become byte pairs. -/
def byteUnits (bytes : Bool) (us : List (Nat × W16 × Bool)) : List (Nat × Byte × Bool) :=
  us.foldl (fun l u =>
    let lo : Byte := u.2.1.setWidth 8
    if bytes then putUnit u.1 (fun _ => (lo, u.2.2)) l
    else putUnit (2 * u.1 + 1) (fun _ => (lo, u.2.2)) (putUnit (2 * u.1) (fun _ => (u.2.1.extractLsb' 8 8, u.2.2)) l)) []

/-- Cuts an ordered list into runs of neighbours that `join` allows: each with its first index. -/
def runsOf {α : Type} (join : Nat → α → α → Bool) : List (Nat × α) → List (Nat × List α)
  | [] => []
  | (i, x) :: rest =>
    match runsOf join rest, rest with
    | (j, y :: ys) :: more, _ =>
      if j = i + 1 ∧ join j x y then (i, x :: y :: ys) :: more else (i, [x]) :: (j, y :: ys) :: more
    | _, _ => [(i, [x])]

/-! ### Writing -/

/-- Writes a HOST destination: poisoned bytes go in TLPs with EP set (R300). -/
def writeHost (s : State) (fn : FnId) (base : Nat) (us : List (Nat × Byte × Bool)) : State :=
  (runsOf (fun _ x y => x.2 == y.2) us).foldl (fun s r =>
    hostPost s fn (base + r.1) (r.2.map (·.1)) (r.2.any (·.2))) s

/-- Writes words of a core's RAM, with check bits that report uncorrectable where they carry poison (R278, R300). -/
def ramWrite (k : Core) (iram : Bool) (a : Nat) (us : List (Nat × WUnit)) : Core :=
  let old := if iram then k.iram else k.loc
  let word := fun (i : Nat) (u : WUnit) => (old.get (a + i) &&& u.keep) ||| u.v
  let runs := runsOf (fun _ _ _ => true) us
  let mem := us.foldl (fun (m : Cells 16) u => m.set (a + u.1) (word u.1 u.2)) old
  let clear := runs.foldl (fun (m : Cells 1) r => (wholeGroups (a + r.1) r.2.length).foldl (fun m g => m.set g 0#1) m)
    (if iram then k.iramBad else k.locBad)
  let marks := us.foldl (fun (m : Cells 1) u => if u.2.bad then m.set ((a + u.1) / 4) 1#1 else m) clear
  if iram then { k with iram := mem, iramBad := marks }
  else { k with loc := mem, locBad := marks, locOne := us.foldl (fun (m : Cells 1) u => m.set ((a + u.1) / 4) 0#1) k.locOne }

/-- Writes words of a core's RAM in place of a stream: the words of the instruction RAM that the core has fetched are not
fetched again (R35). -/
def State.ramPut (s : State) (c : CoreId) (iram : Bool) (a : Nat) (us : List (Nat × WUnit)) : State :=
  if iram && (s.core c).ctl.run then
    s.drawn.modCore c (fun k => ramWrite { k with ahead := k.aheadFrom k.pc s.free } true a us)
  else s.modCore c (fun k => ramWrite k iram a us)

/-- Writes one run of words within a line: a whole line as VPUT does, a part as VST does (R279), poison with it. -/
def lineWrite (s : State) (pa : Nat) (us : List WUnit) : State :=
  let old := s.seen pa us.length
  touchUse (mergeUnits s pa (us.mapIdx (fun i u => ((old.getD i 0 &&& u.keep) ||| u.v, u.keep == 0, u.bad)))) pa true

/-- Writes runs of VIRT words: the words written, and the status of a fault, before whose page everything stands (R301). -/
def virtWrite (s : State) (e : EngId) (va : BitVec 40) : List (Nat × List WUnit) → EngAct (State × Nat × Option (BitVec 8))
  | [] => .ok (s, 0, none)
  | (i, us) :: rest =>
    match engTranslate s e (va + BitVec.ofNat 40 i) true with
    | .held ln => .error (some ln)
    | .fault s1 st => .ok (s1, 0, some st)
    | .ok s1 pa =>
      if s1.mustWait (srcEng e) pa then .error (some (lineOf pa))
      else (virtWrite (lineWrite s1 pa us) e va rest).map (fun (s2, n, st) => (s2, us.length + n, st))

/-- Writes what a descriptor produced: the state, NW, and a fault's status, unless it must wait. -/
def writeDest (s : State) (e : EngId) (dst : W64) (bytes : Bool) (us : List (Nat × W16 × Bool)) :
    EngAct (State × Nat × Option (BitVec 8)) :=
  match skind dst with
  | .host =>
    let bs := byteUnits bytes us
    .ok (writeHost s 0 (hostAddr dst) bs, bs.length, none)
  | .ram =>
    let ws := wordUnits bytes us
    .ok (s.ramPut (ramCore dst) (ramIsI dst) (ramWord dst) ws, ws.length, none)
  | _ =>
    let ws := wordUnits bytes us
    let va := virtAddr dst
    virtWrite s e va (runsOf (fun j _ _ => (va.toNat + j) % 32 != 0) ws)

/-! ### Fetch and start (R283, R285, R287, R569) -/

/-- Changes an engine. -/
def State.modEng (s : State) (e : EngId) (f : Engine → Engine) : State := s.setEng e (f (s.eng e))
/-- BUSY (R284). -/
def Engine.busy (x : Engine) : Bool := x.cur.isSome
/-- HLT (R284). -/
def Engine.hlt (x : Engine) : Bool := !x.en || (x.halt && !x.busy)
/-- The ring's entries (R284). -/
def Engine.ringSize (x : Engine) : Nat := 2 ^ (min 12 x.rcfg.toNat)

/-- What the look-up of a ring descriptor comes to. -/
inductive FetchDesc where
  | ok (s : State) (ws : List W16) (p : Place)
  | fail (s : State) (st : BitVec 8)
  | held (ln : Option Nat)

/-- Reads descriptor i of an engine's ring, and checks that its words 14 and 15 can be written (R285, R569). Of several failures the
read's comes first, then poison, then the write's (DESIGN CHOICE, notes/assumptions/211.md). -/
def fetchDesc (s : State) (e : EngId) (i : BitVec 32) : FetchDesc :=
  let x := s.eng e
  let off := i.toNat % x.ringSize * 16
  if x.rbase.toNat % 16 ≠ 0 then .fail s 0x10
  else
    match skind x.rbase with
    | .ram =>
      let c := ramCore x.rbase
      let a := ramWord x.rbase + off
      if !ramFits x.rbase (off + 16) then .fail s 0x10
      else
        let bs := ramRead (s.core c) (ramIsI x.rbase) a 16
        if bs.any (fun b => b.2 != 0) then .fail s 0x13
        else .ok s (wordsOfBytes (bs.map (·.1))) (.ram c (ramIsI x.rbase) a)
    | .virt =>
      let va := virtAddr x.rbase + BitVec.ofNat 40 off
      match virtRead s e va 16 2 with
      | .error ln => .held ln
      | .ok r =>
        match r.stop with
        | some st => .fail r.s st
        | none =>
          if r.bytes.any (fun b => b.2 != 0) then .fail r.s 0x13
          else
            match engTranslate r.s e va true with
            | .ok s1 pa => .ok s1 (wordsOfBytes (r.bytes.map (·.1))) (.mem pa)
            | .fault s1 st => .fail s1 st
            | .held ln => .held (some ln)
    | _ => .fail s 0x10

/-- The stream-error interrupt of an engine (R289, R353). -/
def streamError (s : State) (e : EngId) : State := raiseIn s (engQuire e) ⟨40 + e.val % 2, by omega⟩ none

/-- A ring that cannot be fetched from halts the engine (R569). -/
def fetchFailed (s : State) (e : EngId) (st : BitVec 8) : State :=
  streamError (s.modEng e (fun x => { x with halt := true, err := true, lst := st, fail := x.fail + 1 })) e

/-- A descriptor begins: one with CNT = 0 and one that fails a check are already decided (R288). -/
def beginDesc (s : State) (e : EngId) (ws : List W16) (p : Place) (w : Option CamWork) : State :=
  let d := descOf ws
  let ended := if d.cnt = 0 then some (0x01#8, 0#7) else (descCheck s e d).map (fun st => (st, 0#7))
  s.modEng e (fun x => { x with
    cur := some { words := ws, place := p, cam := w, ended := ended, slot := 0xF, dst := d.dst, record := none }
    lastCam := some w.isSome, abort := false })

/-- A stream pair has work: an engine runs a descriptor or can start one. -/
def Engine.hasWork (x : Engine) : Bool := x.busy || (x.en && !x.halt && (x.head != x.tail || (x.cen && !x.work.isEmpty)))
/-- The other engine of a pair. -/
def pairOf (e : EngId) : EngId := ⟨if e.val % 2 = 0 then e.val + 1 else e.val - 1, by split <;> omega⟩
/-- A stream pair is ungated (R284). -/
def ungatePair (s : State) (e : EngId) : State :=
  (s.modEng e (fun x => { x with gated := false })).modEng (pairOf e) (fun x => { x with gated := false })

/-- In Idle a stream pair with nothing to run is gated (R513). -/
def gateIdlePair (s : State) (e : EngId) : State :=
  if s.pwr.st == .idle && !(s.eng e).hasWork && !(s.eng (pairOf e)).hasWork then
    (s.modEng e (fun x => { x with gated := true })).modEng (pairOf e) (fun x => { x with gated := true })
  else s

/-- An engine's act is done, or it waits, with its request on the mesh where it waits for a line (R17, R279). -/
def State.engDone (s : State) (e : EngId) : EngAct State → State
  | .ok t => gateIdlePair (t.gotTask (srcEng e) .data) e
  | .error (some ln) => s.await (srcEng e) .data ln
  | .error none => s

/-- SE_DESCRIPTOR_START: Camwin work and the ring are started alternately, Camwin's first (R285, R287). Which copy of a
descriptor read ahead is used is not fixed (R283). -/
def execSeDescriptorStart (e : EngId) (s : State) : Out :=
  let x := s.eng e
  let ring := x.head != x.tail
  let cam := x.cen && !x.work.isEmpty
  if !s.live || !x.en || x.halt || x.busy || x.gated || !(ring || cam) then .next s
  else if cam && !(ring && x.lastCam == some true) then
    match x.work with
    | w :: rest => .next (beginDesc (s.modEng e (fun x => { x with work := rest })) e w.words .none (some w))
    | [] => .next s
  else
    match fetchDesc s e x.tail with
    | .held ln => .next (s.engDone e (.error ln))
    | .fail s1 st => .next (s.engDone e (.ok (fetchFailed s1 e st)))
    | .ok s0 ws p =>
      let s1 := s.engDone e (.ok s0)
      let keep := fun (x : Engine) => { x with ahead := x.ahead.filter (fun a => a.1 != x.tail) }
      match x.ahead.find? (fun a => a.1 == x.tail) with
      | some a =>
        .next (beginDesc (s1.drawn.modEng e keep) e (if s1.free.getLsbD 0 then a.2 else ws) p none)
      | none => .next (beginDesc s1 e ws p none)

/-- A page translated ahead: only a translation that succeeds fills the cache; what its table reads do at the memory stands (R283,
R413). -/
def translateAhead (s : State) (e : EngId) (a : W64) (write : Bool) : State :=
  if skind a != .virt then s
  else
    match engTranslate s e (virtAddr a) write with
    | .ok s1 _ => s1
    | .fault s1 _ => s1
    | .held _ => s

/-- The words of a ring descriptor read ahead, if it can be read. The read fills the translation cache, and the memory counts,
reports and rewrites what it finds in it; it counts as no use of the frame, and its failure has no consequence at the engine
(R214, R283, R413). -/
def peekDesc (s : State) (e : EngId) (i : BitVec 32) : State × Option (List W16) :=
  match fetchDesc s e i with
  | .ok s1 ws _ => ({ s1 with keys := s.keys }, some ws)
  | .fail s1 _ => ({ s1 with keys := s.keys }, none)
  | .held _ => (s, none)

/-- SE_PREFETCH: during a descriptor, the engine reads the later descriptor n + 1 places on (SE_TAIL itself once the write-back has
stepped it, or beside Camwin work), below SE_HEAD, and translates
the first page of its source and destination; faults are dropped. -/
def execSePrefetch (e : EngId) (n : Fin 3) (s : State) : Out :=
  let x := s.eng e
  match x.cur with
  | none => .next s
  | some r =>
    let i := x.tail + BitVec.ofNat 32 (if r.cam.isSome || r.record.isSome then n.val else n.val + 1)
    if !s.live || !x.pfe || x.gated || decide ((x.head - x.tail).toNat ≤ (i - x.tail).toNat) then .next s
    else
      match peekDesc s e i with
      | (s1, none) => .next s1
      | (s1, some ws) =>
        let d := descOf ws
        let s2 := translateAhead s1 e d.src false
        let s3 := if d.slot then s2 else translateAhead s2 e d.dst true
        .next (s3.modEng e (fun x => { x with ahead := (x.ahead.filter (fun a => a.1 != i)) ++ [(i, ws)] }))

/-! ### Slots (R305) -/

/-- The address of a word of a core's local region (R280). -/
def localAddr (c : CoreId) (a : Nat) : W64 := at64 2 62 ||| at64 c.val 16 ||| at64 a 0

/-- SE_SLOT_TAKE: the descriptor takes slot WR when it is free, or ends with 0x18 at a window that is disabled or has no
slots, and with 0x10 where its output does not fit a slot of the window as it is now (R305). -/
def execSeSlotTake (e : EngId) (s : State) : Out :=
  let x := s.eng e
  match x.cur with
  | none => .next s
  | some r =>
    let d := descOf r.words
    if !s.live || !d.slot || r.ended.isSome || r.record.isSome || r.slot != 0xF || x.abort then .next s
    else
      let w := s.window d.wc d.win
      if !w.en || w.nsl == 0 then
        .next (s.setEng e { x with cur := some { r with ended := some (0x18, 0) } })
      else if decide (w.slotWords < destWords d (if d.mld = 0 then none else mouldAt x.mould d.mld)) then
        .next (s.setEng e { x with cur := some { r with ended := some (0x10, 0) } })
      else if w.inUse.contains w.wr then .next s
      else
        let a := w.base.toNat + w.wr.toNat * w.slotWords
        let s1 := s.modWindow d.wc d.win (fun w => { w with
          wr := BitVec.ofNat 4 ((w.wr.toNat + 1) % w.nsl.toNat), inUse := w.inUse ++ [w.wr] })
        .next (s1.setEng e { x with cur := some { r with slot := w.wr, dst := localAddr d.wc a } })

/-! ### Completion (R285, R289, R302, R304, R465) -/

/-- Changes the first element of a list that a test finds. -/
def modFirst {α : Type} (p : α → Bool) (f : α → α) : List α → List α
  | [] => []
  | x :: rest => if p x then f x :: rest else x :: modFirst p f rest

/-- The queue pair's part in a descriptor of its own that ends: a failed one stages a completion (R465). Its submission is the
oldest of its index and core that is not delivered: the host may use an index again while an earlier submission of it is outstanding,
and one whose core was lost has none any more (R469). -/
def camDone (s : State) (w : CamWork) (st : BitVec 8) : State :=
  if !w.live then s
  else
    let x := s.qp w.qp
    let mine := fun (u : Sub) => u.sqi == w.sqi && u.core == w.core && !u.delivered
    if x.subs.any mine then
      if 0x10 ≤ st.toNat then
        s.setQp w.qp { x with subs := x.subs.eraseP mine, staged := x.staged ++ [⟨0, w.sqi, 1, st, true⟩] }
      else s.setQp w.qp { x with subs := modFirst mine (fun u => { u with delivered := true }) x.subs }
    else s

/-- Writes words 14 and 15 of a ring descriptor, unless its line makes it wait. -/
def writeBack (s : State) (e : EngId) (p : Place) (w14 w15 : W16) : EngAct State :=
  match p with
  | .none => .ok s
  | .ram c iram a => .ok (s.ramPut c iram (a + 14) [(0, ⟨w14, 0, false⟩), (1, ⟨w15, 0, false⟩)])
  | .mem pa =>
    if s.mustWait (srcEng e) (pa + 14) then .error (some (lineOf (pa + 14)))
    else .ok (touchUse (mergeWords s (pa + 14) [w14, w15]).1 pa true)

/-- A descriptor ends: write-back, SE_TAIL, the counts, Camwin's part, and the record for the window if it signals, unless
the write-back must wait. A queue pair that has stopped delivers no record (R468). -/
def endDesc (s : State) (e : EngId) (r : Running) (st : BitVec 8) (fld : BitVec 7) (nw : Nat) : EngAct State :=
  let d := descOf r.words
  let w15 := BitVec.ofNat 16 nw
  (writeBack s e r.place (fld ++ 1#1 ++ st) w15).map (fun s1 =>
    let bad := decide (0x10 ≤ st.toNat)
    let silent := r.cam.any (fun w => w.live && (s1.qp w.qp).stop)
    let rcd : W64 := d.tag ++ w15 ++ BitVec.ofNat 4 e.val ++ r.slot ++ st
    let s2 := s1.modEng e (fun x =>
      let x1 := { x with
        tail := if r.cam.isSome then x.tail else x.tail + 1, done := x.done + 1
        fail := if bad then x.fail + 1 else x.fail, err := x.err || bad, lst := st }
      if (d.ws || d.slot) && !silent then { x1 with cur := some { r with ended := some (st, fld), record := some rcd }, abort := false }
      else x1.boundary)
    let s3 := match r.cam with
      | some w => camDone (if silent then s2.freeSlot w.core d.win r.slot else s2) w st
      | none => s2
    if bad then streamError s3 e else s3)

/-- The data of a descriptor move, and it ends, unless something must wait. `src` is what the host's reads have
brought; `records` is how many records were finished when an abort took effect (R284, R292). -/
def moveDesc (s : State) (e : EngId) (r : Running) (src : List HostReply) (records : Nat) : EngAct State :=
  let x := s.eng e
  let d := descOf r.words
  let m := if d.mld = 0 then none else mouldAt x.mould d.mld
  let stride := match m with | some g => g.stride | none => 16
  let n := if x.abort then min d.cnt (records * stride) else d.cnt
  match readSource s e d r.cam.isSome (match r.cam with | some w => [w.data] | none => src) n with
  | .error w => .error w
  | .ok rd =>
    let p := match m with
      | none => plainCopy rd n x.abort
      | some g => convRecords g x.mould rd.stop x.abort (n / g.stride) 0 rd.bytes false
    match writeDest rd.s e r.dst (match m with | some g => g.out | none => true) p.units with
    | .error w => .error w
    | .ok (s1, nw, fault) => endDesc s1 e r (fault.getD p.st) (if fault.isSome then 0 else p.fld) nw

/-- The engine needs the host for its data, and the PF may not issue requests, or a read has no link to go over and times out
(R458, R469). -/
def hostHeld (s : State) (r : Running) : Bool :=
  let d := descOf r.words
  let off := !s.host.cfg[(0 : FnId)].bme
  r.cam.isNone && ((skind d.src == .host && (off || !s.host.lup)) || (!d.slot && skind d.dst == .host && off))

/-- SE_DESCRIPTOR_COMPLETE: a descriptor that is already decided ends; another, once it has its slot, moves its data and
ends (R285, R288, R302, R305). -/
def execSeDescriptorComplete (e : EngId) (src : List HostReply) (records : Nat) (s : State) : Out :=
  let x := s.eng e
  match x.cur with
  | none => .next s
  | some r =>
    let act : EngAct State := if !s.live || r.record.isSome then .error none
      else
        match r.ended with
        | some (st, fld) => endDesc s e r st fld 0
        | none =>
          if (descOf r.words).slot && r.slot == 0xF then (if x.abort then endDesc s e r 0x17 0 0 else .error none)
          else if hostHeld s r then .error none
          else moveDesc s e r src records
    .next (s.engDone e act)

end Sys2Proof.Machine
end

