-- ==== Sys2Proof/Machine/Windows.lean ====
section
/-! DEFINITION. The ports of the stream engines, the windows and SWAIT (10_record_streams.md R284 to R287, R291, R303 to
R307). -/
namespace Sys2Proof.Machine

/-! ### Engine ports (R284) -/

/-- A descriptor is running whose data have not moved. -/
def Engine.moving (x : Engine) : Bool := match x.cur with | some r => r.record.isNone | none => false

/-- A write of SE_CTL (R284, R287); a pair that now has something to run is not gated, one that has nothing is in Idle (R513). -/
def seCtlWrite (s : State) (e : EngId) (en halt abt pfe cen : Bool) : State :=
  let s1 := s.modEng e (fun x => { x with
    en := en, halt := halt, pfe := pfe, cen := cen, abort := x.abort || (abt && x.moving)
    lastCam := if (en && !x.en) || (cen && !x.cen) then none else x.lastCam })
  gateIdlePair (if (s1.eng e).hasWork then ungatePair s1 e else s1) e

/-- SE_CTL_EN. -/
def execSeCtlEn (e : EngId) (v : Bool) (s : State) : Out :=
  let x := s.eng e
  .next (anyCommand s none (fun s => seCtlWrite s e v x.halt false x.pfe x.cen))
/-- SE_CTL_HALT. -/
def execSeCtlHalt (e : EngId) (v : Bool) (s : State) : Out :=
  let x := s.eng e
  .next (anyCommand s none (fun s => seCtlWrite s e x.en v false x.pfe x.cen))
/-- SE_CTL_ABT. -/
def execSeCtlAbt (e : EngId) (s : State) : Out :=
  let x := s.eng e
  .next (anyCommand s none (fun s => seCtlWrite s e x.en x.halt true x.pfe x.cen))
/-- SE_CTL_CEN. -/
def execSeCtlCen (e : EngId) (v : Bool) (s : State) : Out :=
  let x := s.eng e
  .next (anyCommand s none (fun s => seCtlWrite s e x.en x.halt false x.pfe v))

/-- A write of SE_HEAD; while EN is 0 it sets SE_TAIL too, and it ungates the pair, which in Idle stays so if it has something to
run (R284, R513, R563). -/
def seHeadWrite (s : State) (e : EngId) (v : BitVec 32) : State :=
  gateIdlePair (ungatePair (s.modEng e (fun x => { x with head := v, tail := if x.en then x.tail else v })) e) e

/-- The older local stores of a core drain before its OUT to SE_HEAD reaches the port (R286). -/
def drainFor (s : State) (who : Accessor) : State :=
  match who with
  | .core c => s.modCore c (fun k => k.drainLocal k.sbuf.length)
  | _ => s

/-- SE_HEAD. -/
def execSeHead (who : Accessor) (e : EngId) (v : BitVec 32) (s : State) : Out :=
  .next (portCommand s (who == .host) none (fun s => seHeadWrite (drainFor s who) e v))

/-- A write of SE_MDATA (R284, R291). -/
def seMdataWrite (s : State) (e : EngId) (v : W64) : State :=
  s.modEng e (fun x =>
    if x.busy then { x with mwe := true }
    else
      let a := x.maddr.toNat
      { x with
        mould := ((wordsOf v).mapIdx (fun i w => (i, w))).foldl (fun m p => m.set ((a + p.1) % 4096) p.2) x.mould
        maddr := x.maddr + 4 })

/-- SE_MDATA. -/
def execSeMdata (e : EngId) (v : W64) (s : State) : Out := .next (anyCommand s none (fun s => seMdataWrite s e v))

/-! ### Windows (R303, R304, R307) -/

/-- A SWAIT of a window that waits for a record. -/
def LongOp.awaits (o : LongOp) (w : WinId) : Bool := o.op == .swait w && o.res.isNone
/-- Every SWAIT that waits on a window delivers a value. -/
def Core.answerSwaits (k : Core) (w : WinId) (v : W64) : Core :=
  { k with longs := k.longs.map (fun o => if o.awaits w then { o with res := some (.l v false) } else o) }

/-- A descriptor that waits for a slot of a window ends with 0x18 (R303). -/
def endWaiting (s : State) (c : CoreId) (w : WinId) : State :=
  { s with engines := s.engines.map (fun x => x.endSlot c (fun i => i == w.val) true) }

/-- A write of SWIN_CFG (R303, R307). Where one write both clears EN and cancels, which of the two statuses the waiting
SWAITs deliver is open. -/
def swinWrite (s : State) (c : CoreId) (w : WinId) (v : W64) : State :=
  let x := s.window c w
  let ie := v.getLsbD 24
  let en := v.getLsbD 25
  let can := v.getLsbD 26
  if x.en then
    if en then
      (s.modWindow c w (fun x => { x with ie := ie })).modCore c (fun k => if can then k.answerSwaits w 0x20 else k)
    else
      let st : W64 := if can && s.free.getLsbD 0 then 0x20 else 0x21
      let s1 := s.modWindow c w (fun x => { x with ie := ie, en := false, queue := [], own := false, inUse := [] })
      endWaiting ((if can then s1.drawn else s1).modCore c (fun k => k.answerSwaits w st)) c w
  else
    let y := { x with base := v.setWidth 15, lsz := v.extractLsb' 16 4, nsl := v.extractLsb' 20 4, ie := ie }
    let fits := decide (y.base.toNat + y.nsl.toNat * y.slotWords ≤ 0x8000)
    let z := if en && fits then { y with en := true, wr := 0, queue := [], own := false, inUse := [] } else y
    (s.modWindow c w (fun _ => z)).modCore c (fun k => if can then k.answerSwaits w 0x20 else k)

/-- SWIN_CFG as it reads (R303). -/
def Window.bits (x : Window) : W64 :=
  at64 x.base.toNat 0 ||| at64 x.lsz.toNat 16 ||| at64 x.nsl.toNat 20 ||| bit64 x.ie 24 ||| bit64 x.en 25
    ||| at64 x.wr.toNat 32 ||| at64 x.queue.length 36 ||| bit64 x.own 41 ||| at64 x.osl.toNat 42

/-- SWIN_ENABLE: a write of SWIN_CFG with EN = 1. -/
def execSwinEnable (c : CoreId) (w : WinId) (v : W64) (s : State) : Out :=
  .next (anyCommand s (some (coreQuire c)) (fun s => swinWrite s c w (v ||| bit64 true 25)))
/-- SWIN_DISABLE: a write that clears EN. -/
def execSwinDisable (c : CoreId) (w : WinId) (s : State) : Out :=
  .next (anyCommand s (some (coreQuire c)) (fun s => swinWrite s c w ((s.window c w).bits &&& ~~~(bit64 true 25))))
/-- SWIN_CANCEL: a write of CAN = 1. -/
def execSwinCancel (c : CoreId) (w : WinId) (s : State) : Out :=
  .next (anyCommand s (some (coreQuire c)) (fun s => swinWrite s c w ((s.window c w).bits ||| bit64 true 26)))

/-- A record enters a window's queue; it interrupts when no SWAIT waits for it, the record of a descriptor with CNT = 0 too (R304,
R353; for CNT = 0 DESIGN CHOICE, notes/assumptions/207.md). -/
def enterRecord (s : State) (c : CoreId) (w : WinId) (v : W64) : State :=
  let waiting := ((s.core c).longs.filter (fun o => o.awaits w)).length
  let x := s.window c w
  let s1 := s.modWindow c w (fun x => { x with queue := x.queue ++ [v] })
  if x.ie && decide (waiting ≤ x.queue.length) then raiseIn s1 (coreQuire c) ⟨32 + c.val % 8, by omega⟩ none else s1

/-- WINDOW_RECORD_ENQUEUE: the record of a completed descriptor enters its window when it has room, or is discarded at a
disabled one; the engine reaches its boundary (R303, R304). A record that a disabling found waiting enters the window that has been
enabled again since, with the slot number that it has (DESIGN CHOICE, notes/assumptions/208.md). -/
def execWindowRecordEnqueue (e : EngId) (s : State) : Out :=
  match (s.eng e).cur with
  | some { words := ws, record := some v, .. } =>
    let d := descOf ws
    let x := s.window d.wc d.win
    let ended := fun (s : State) => gateIdlePair (s.modEng e Engine.boundary) e
    if !s.live then .next s
    else if !x.en then .next (ended s)
    else if 16 ≤ x.queue.length then .next s
    else .next (ended (enterRecord s d.wc d.win v))
  | _ => .next s

/-! ### SWAIT (R305, R306) -/

/-- The slot that a core holds of a window is released (R305). -/
def Window.release (x : Window) : Window :=
  if x.own then { x with own := false, inUse := x.inUse.filter (fun i => i != x.osl) } else x

/-- The own effect of SWAIT. -/
def bodySwait (l : LRegId) (a : GReg) (s : State) (k : Core) : Res :=
    let w : WinId := ⟨(k.gr a).toNat % 16, by omega⟩
    whenL k l (
      let x := k.win[w].release
      issueLong s { k with win := k.win.set w x } (.l l) (.swait w) (if x.en then none else some (.l 0x21 false)))
/-- SWAIT. -/
def execSwait (c : CoreId) (l : LRegId) (a : GReg) (s : State) : Out := issue s c (.swait c l a) plain (bodySwait l a)

/-- The oldest of a core's SWAITs on a window, whether or not its value is known. -/
def Core.firstSwait (k : Core) (w : WinId) : Option LongOp :=
  (k.longs.filter (fun o => o.op == .swait w)).foldl (fun acc o =>
    match acc with
    | none => some o
    | some b => if o.stamp < b.stamp then some o else some b) none

/-- SWAIT_DELIVER: the oldest record goes to the oldest SWAIT, once every earlier one has delivered; a slot that it brings
is now the core's, and a slot held until then is released (R305, R306): with two SWAITs outstanding, the slot of the first when the
second delivers (DESIGN CHOICE, notes/assumptions/209.md). -/
def execSwaitDeliver (c : CoreId) (w : WinId) (s : State) : Out :=
  let k := s.core c
  let x := k.win[w]
  match k.firstSwait w, x.queue with
  | some { dest := .l l, res := none, .. }, v :: rest =>
    if !s.spineRuns then .next s
    else
      let slot : BitVec 4 := v.extractLsb' 8 4
      let y := if slot = 0xF then { x with queue := rest } else { x.release with queue := rest, own := true, osl := slot }
      let k1 := ({ k with win := k.win.set w y }.setL l v).dropLong (.l l)
      .next (s.setCore c (if k1.ctl.gated then { k1 with ctl := { k1.ctl with dlv := true } } else k1))
  | _, _ => .next s

end Sys2Proof.Machine
end

