-- ==== Sys2Proof/Machine/Custom.lean ====
section
/-!
DEFINITION. Customer instructions: dispatch entry, microwords and nano-words of the customer area (13_control_store.md
R377 to R391). The vendor's instructions have their meanings of their own.
-/
namespace Sys2Proof.Machine

/-! ### Fields of the instruction (R100, R380) -/

/-- The words of a customer instruction with what its layout makes of them. -/
structure CFields where
  w0 : W16
  d : GReg
  a : GReg
  b : GReg
  s : GReg
  i : BitVec 16
  i32 : BitVec 32

/-- A register field by its first bit. -/
def regAt (w : W16) (lo : Nat) : GReg := ⟨fieldN w lo 5, by simp [fieldN]; omega⟩
/-- A register field that the layout does not have. -/
def noReg (lay f : Nat) : GReg := ⟨(Config.absentField lay f).toNat % 32, by omega⟩

/-- The fields by LAY. The i of layout W-D is its v (DEDUCED, notes/assumptions/47.md); a field that the layout does not have is open. -/
def cFields (lay : Nat) (w0 w1 w2 : W16) : CFields :=
  let abs : CFields :=
    { w0 := w0, d := noReg lay 0, a := noReg lay 1, b := noReg lay 2, s := noReg lay 3
      i := (Config.absentField lay 4).setWidth 16, i32 := (Config.absentField lay 5).setWidth 32 }
  match lay with
  | 0 => { abs with d := ⟨fieldN w0 4 4 % 32, by omega⟩, s := ⟨fieldN w0 0 4 % 32, by omega⟩ }
  | 2 => { abs with d := regAt w1 11, a := regAt w1 6, b := regAt w1 1 }
  | 3 => { abs with i := w1 }
  | 4 => { abs with d := regAt w1 11, a := regAt w1 6, i := w2 }
  | 5 => { abs with i32 := w1 ++ w2 }
  | _ => abs

/-- The reserved bits that R100 fixes for a layout are 0 (R380). -/
def cReserved (lay : Nat) (w1 : W16) : Bool :=
  (lay == 2 && w1.getLsbD 0) || (lay == 4 && fieldN w1 0 6 != 0)

/-! ### Nano-words (R383) -/

/-- A nano-word by its fields. -/
structure Nano where
  asel : Nat
  bsel : Nat
  alu : Nat
  dst : Nat
  flw : Nat
  mem : Nat
  agen : Nat
  long : Nat
  dec : Nat
  fp : Nat
  port : Nat
  xr : Nat
  acc : Nat
  lit : BitVec 16

/-- The fields of a nano-word. -/
def nanoOf (w : BitVec 112) : Nano :=
  { asel := fieldN w 0 5, bsel := fieldN w 5 5, alu := fieldN w 10 6, dst := fieldN w 16 5, flw := fieldN w 21 3
    mem := fieldN w 24 4, agen := fieldN w 28 4, long := fieldN w 32 6, dec := fieldN w 38 6, fp := fieldN w 44 6
    port := fieldN w 50 3, xr := fieldN w 53 4, acc := fieldN w 57 3, lit := w.extractLsb' 60 16 }

/-- The port of the register that XR names. -/
def xrPort (xr : Nat) : Nat :=
  match xr with
  | 0 => 0x01 | 1 => 0x04 | 2 => 0x05 | 3 => 0x06 | 4 => 0x10 | 5 => 0x11 | 6 => 0x12 | 7 => 0x13 | 8 => 0x14 | 9 => 0x15
  | 10 => 0x16 | 11 => 0x22 | 12 => 0x23 | 13 => 0x20 | 14 => 0x21 | _ => 0x25

/-- The nano-word names G[d + 1]. -/
def Nano.pair (n : Nano) : Bool := n.asel == 5 || n.bsel == 5 || n.dst == 3
/-- The nano-word reads what XR names. -/
def Nano.readsXr (n : Nano) : Bool := n.asel == 0x10 || n.bsel == 0x10
/-- The nano-word reads L[d]. -/
def Nano.readsL (n : Nano) : Bool := n.asel == 0x11 || n.bsel == 0x11
/-- The nano-word writes architected state; a read of a claiming port does (R357, R362, R386). -/
def Nano.writes (n : Nano) (p : Nat) : Bool :=
  n.dst == 1 || n.dst == 2 || n.dst == 3 || n.dst == 6 || n.flw != 0 || decide (6 ≤ n.mem) || n.long != 0 || n.dec != 0
    || n.fp != 0 || n.port == 2 || (n.port == 1 && (decide (0x10000 ≤ p) || p == 0x202 || p == 0x220))

/-- The temporaries and load data as a microword reads them (R379, R383). -/
def Core.mt0 (k : Core) : W64 := match k.micro with | some m => m.t0 | none => 0#64
def Core.mt1 (k : Core) : W64 := match k.micro with | some m => m.t1 | none => 0#64
def Core.mld (k : Core) : W64 := match k.micro with | some m => m.ld | none => 0#64

/-- An operand by its selector; a reserved selector gives an open value. -/
def nanoSel (s : State) (c : CoreId) (k : Core) (f : CFields) (n : Nano) (len : Nat) (sel : Nat) : W64 :=
  match sel with
  | 0x00 => 0#64
  | 0x01 => k.gr f.d
  | 0x02 => k.gr f.a
  | 0x03 => k.gr f.b
  | 0x04 => k.gr f.s
  | 0x05 => k.gr (nextReg f.d)
  | 0x06 => f.i.signExtend 64
  | 0x07 => f.i.setWidth 64
  | 0x08 => f.i32.signExtend 64
  | 0x09 => n.lit.signExtend 64
  | 0x0A => k.pc.setWidth 64
  | 0x0B => (k.pc + BitVec.ofNat 32 len).setWidth 64
  | 0x0C => k.fl.bits.setWidth 64
  | 0x0D => k.mt0
  | 0x0E => k.mt1
  | 0x0F => k.mld
  | 0x10 => corePortVal s c k (xrPort n.xr)
  | 0x11 => k.l[lowL f.d.val].val
  | _ => s.free

/-- The ALU: result, C, V by the rules of R106; an operation with no carry or overflow of its own leaves them. -/
def nanoAlu (f : Flags) (op : Nat) (a b : W64) (free : W64) : W64 × Bool × Bool :=
  let fl := fun (r : W64 × Flags) => (r.1, r.2.c, r.2.v)
  let keep := fun (r : W64) => (r, f.c, f.v)
  match op with
  | 0x00 => keep a
  | 0x01 => fl (aluAdd f a b)
  | 0x02 => fl (aluSub f a b)
  | 0x03 => fl (aluAddc f a b)
  | 0x04 => fl (aluSubc f a b)
  | 0x05 => fl (aluLogic f (a &&& b))
  | 0x06 => fl (aluLogic f (a ||| b))
  | 0x07 => fl (aluLogic f (a ^^^ b))
  | 0x08 => fl (aluLogic f (a &&& ~~~b))
  | 0x09 => fl (aluShl f a (shiftCount b))
  | 0x0A => fl (aluShr f a (shiftCount b))
  | 0x0B => fl (aluSar f a (shiftCount b))
  | 0x0C => fl (aluRol f a (shiftCount b))
  | 0x0D => keep (a * b)
  | 0x0E => keep ((mulSigned a b).extractLsb' 64 64)
  | 0x0F => keep ((mulUnsigned a b).extractLsb' 64 64)
  | 0x10 => keep b
  | 0x11 => keep (quadOf (wordsOf a).reverse)
  | _ => keep free

/-- The distance of an ALU result: 2 for a multiply (R70, R378). -/
def nanoDist (op : Nat) : Nat := if 0x0D ≤ op ∧ op ≤ 0x0F then 2 else 0

/-- FL as FLW writes it. -/
def nanoFlags (f : Flags) (flw : Nat) (r : W64 × Bool × Bool) : Flags :=
  let nz := { f with n := r.1.msb, z := r.1 == 0#64 }
  match flw with
  | 1 => nz
  | 2 => { nz with c := r.2.1 }
  | 3 => { nz with c := r.2.1, v := r.2.2 }
  | 4 => { nz with v := false }
  | 5 => { nz with c := r.2.1, v := r.2.2, z := f.z && nz.z }
  | 6 => { f with v := r.2.2 }
  | _ => f

/-- Goes on from a part of a nano-word that is done, with the results so far. -/
def Res.andThen (r : Res) (f : State → Core → List Flight → Res) : Res :=
  match r with
  | .done s k own _ => f s k own
  | x => x

/-- A G result as the load data of a later microword (R378, R383). -/
def asLd (own : List Flight) : List Flight :=
  own.map (fun x => match x.dst with | .g _ v => { x with dst := .ld v } | _ => x)

/-- The address of MEM, DLD and DST by AGEN. -/
def Nano.addr (n : Nano) (a b : W64) : BitVec 40 :=
  (match n.agen with | 0 => a + b | 1 => a + n.lit.signExtend 64 | _ => a).setWidth 40

/-- The field MEM: a local access (R41, R110). -/
def nanoMem (s : State) (k : Core) (f : CFields) (n : Nano) (a b r : W64) : Res :=
  let ea := n.addr a b
  let load := fun (kd : LdKind) =>
    loadThen k ea (ldWords kd) (fun ws k1 => .done s k1 [⟨.ld (ldValue kd ws), 1⟩] .seq)
  let store := fun (kd : StKind) =>
    let ws := stWords kd (match n.agen with | 0 => k.gr f.d | 1 => b | _ => r)
    withLocal k ea ws.length (.done s (k.storeLoc ea.toNat ws) [] .seq)
  match n.mem with
  | 1 => load .w
  | 2 => load .ws
  | 3 => load .d
  | 4 => load .ds
  | 5 => load .q
  | 6 => store .w
  | 7 => store .d
  | 8 => store .q
  | _ => .done s k [] .seq

/-- An accumulator number of ACC: from the instruction or from LIT. -/
def Nano.accOf (n : Nano) (g : GReg) (lo : Nat) : AReg :=
  ⟨(if n.acc = 1 then fieldN n.lit lo 3 else g.val) % 8, by omega⟩

/-- The field LONG: the long op of that name, with its operands. -/
def nanoLong (c : CoreId) (s : State) (k : Core) (f : CFields) (n : Nano) : Res :=
  let l := lowL f.d.val
  let d := n.accOf f.d 0
  let a := n.accOf f.a 3
  let b := n.accOf f.b 6
  match n.long with
  | 0x01 => bodyVld l f.a s k
  | 0x02 => bodyVst l f.a f.b s k
  | 0x03 => bodyVget l f.a f.b s k
  | 0x04 => bodyVput l f.a f.b s k
  | 0x05 => bodyVcas l f.a f.b s k
  | 0x06 => bodyFind l f.a s k
  | 0x07 => bodyPost c l f.a s k
  | 0x08 => bodySwait l f.a s k
  | 0x09 => bodyDmul d a b s k
  | 0x0A => bodyDdiv d a b s k
  | 0x0B => bodyFdiv l f.a f.b s k
  | 0x0C => bodyFsqrt l f.a s k
  | 0x0D => bodyDqmul d a b s k
  | 0x0E => bodyDqdiv d a b s k
  | 0x0F => bodyDqsqrt d a s k
  | 0x10 => bodyDswap l f.a f.b s k
  | 0x11 => bodySkey l f.a f.b s k
  | _ => .done s k [] .seq

/-- The field DEC. -/
def nanoDec (s : State) (k : Core) (f : CFields) (n : Nano) (ea : BitVec 40) : Res :=
  let d := n.accOf f.d 0
  let a := n.accOf f.a 3
  let b := n.accOf f.b 6
  let len : Fin 8 := ⟨fieldN n.lit 0 3 % 8, by omega⟩
  match n.dec with
  | 0x01 => bodyDadd d a b s k
  | 0x02 => bodyDsub d a b s k
  | 0x03 => bodyDcmp a b s k
  | 0x04 => bodyDaddc false d a b s k
  | 0x05 => bodyDaddc true d a b s k
  | 0x06 => bodyDsubc false d a b s k
  | 0x07 => bodyDsubc true d a b s k
  | 0x08 => bodyDshl d a f.b s k
  | 0x09 => bodyDshr (n.lit.extractLsb' 0 3) d a f.b s k
  | 0x0A => bodyDcvb false f.d a s k
  | 0x0B => bodyDcvb true f.d a s k
  | 0x0C => bodyDcvd false d f.a s k
  | 0x0D => bodyDcvd true d f.a s k
  | 0x0E => dldAt d ea len s k
  | 0x0F => dstAt d ea len s k
  | 0x10 => bodyDmac (n.lit.getLsbD 0) (n.lit.getLsbD 1) (n.lit.getLsbD 2) d f.a f.b s k
  | _ => .done s k [] .seq

/-- The field FP: an in-pipe operation of R190 or R191. -/
def nanoFp (s : State) (k : Core) (f : CFields) (n : Nano) : Res :=
  let d := n.accOf f.d 0
  let a := n.accOf f.a 3
  let b := n.accOf f.b 6
  match n.fp with
  | 0x20 => bodyFadd f.d f.a f.b s k
  | 0x21 => bodyFsub f.d f.a f.b s k
  | 0x22 => bodyFmul f.d f.a f.b s k
  | 0x23 => bodyFma f.d f.a f.b s k
  | 0x26 => bodyFcmp f.a f.b s k
  | 0x27 => bodyFcvti f.d f.a s k
  | 0x28 => bodyFcvtf f.d f.a s k
  | 0x29 => bodyFrint f.d f.a s k
  | 0x30 => bodyDqadd d a b s k
  | 0x31 => bodyDqsub d a b s k
  | 0x35 => bodyDqcmp a b s k
  | 0x36 => bodyDqfix d a s k
  | 0x37 => bodyDqflt d a s k
  | 0x38 => bodyDqrint d a s k
  | 0x39 => bodyDqquant d a b s k
  | 0x3A => bodyDqld d f.a s k
  | 0x3B => bodyDqst d f.a s k
  | _ => .done s k [] .seq

/-- The field PORT: IN to the load data, OUT of B (R31, R37, R38, R77). -/
def nanoPort (c : CoreId) (s : State) (k : Core) (f : CFields) (n : Nano) (a b : W64) : Res :=
  let p : BitVec 24 := a.setWidth 24
  match n.port with
  | 1 => (portIn c s k p f.d).andThen (fun s1 k1 own => .done s1 k1 (asLd own) .seq)
  | 2 => portOut s k p b
  | _ => .done s k [] .seq

/-- A trap request that a microword's floating operation makes reports word 0 of the customer instruction (R206). -/
def fopFlight (w0 : W16) (x : Flight) : Flight :=
  match x.dst with
  | .fp fl (some r) => { x with dst := .fp fl (some { r with word0 := w0 }) }
  | _ => x
/-- The same of the long op issued with an age stamp. -/
def fopLong (w0 : W16) (st : Nat) (o : LongOp) : LongOp :=
  if o.stamp = st then { o with fp := o.fp.map (fun r => { r with req := r.req.map (fun q => { q with word0 := w0 }) }) }
  else o

/-- The ALU result to where DST names it (R383). -/
def nanoDst (s : State) (k : Core) (f : CFields) (n : Nano) (own : List Flight) (r : W64) : Res :=
  let d := nanoDist n.alu
  match n.dst with
  | 1 => .done s k (own ++ wrG f.d r d) .seq
  | 2 => .done s k (own ++ wrG f.a r d) .seq
  | 3 => .done s k (own ++ wrG (nextReg f.d) r d) .seq
  | 4 => .done s k (own ++ [⟨.t false r, d⟩]) .seq
  | 5 => .done s k (own ++ [⟨.t true r, d⟩]) .seq
  | 6 => (portOut s k (BitVec.ofNat 24 (xrPort n.xr)) r).andThen (fun s1 k1 o => .done s1 k1 (own ++ o) .seq)
  | _ => .done s k own .seq

/-- A selector or an ALU operation of the nano-word is reserved, and gives an open value. -/
def Nano.isOpen (n : Nano) : Bool := decide (0x12 ≤ n.asel) || decide (0x12 ≤ n.bsel) || decide (0x12 ≤ n.alu)

/-- One nano-word: its checks and waits, then its parts (R75, R383 to R385). -/
def nanoRun (c : CoreId) (s : State) (k : Core) (f : CFields) (len : Nat) (n : Nano) : Res :=
  if n.pair && oddReg f.d then .illegal k.pc
  else if n.readsXr && k.portBusy (xrPort n.xr) then .hold
  else if n.readsL && k.lBusy (lowL f.d.val) then .hold
  else if n.readsL && k.l[lowL f.d.val].poisoned then .mcheck .poisonedData 0
  else
    let a := nanoSel s c k f n len n.asel
    let b := nanoSel s c k f n len n.bsel
    let r := nanoAlu k.fl n.alu a b s.free
    let s0 := if n.isOpen then s.drawn else s
    (nanoMem s0 k f n a b r.1).andThen (fun s1 k1 o1 =>
      (nanoPort c s1 k1 f n a b).andThen (fun s2 k2 o2 =>
        (nanoLong c s2 k2 f n).andThen (fun s3 k3 o3 =>
          (nanoDec s3 k3 f n (n.addr a b)).andThen (fun s4 k4 o4 =>
            (nanoFp s4 k4 f n).andThen (fun s5 k5 o5 =>
              let k6 := { k5 with
                fl := if n.flw = 0 then k5.fl else nanoFlags k.fl n.flw r
                longs := if n.long = 0 then k5.longs else k5.longs.map (fopLong f.w0 s2.stamp) }
              nanoDst s5 k6 f n ((o1 ++ o2 ++ o3 ++ o4 ++ o5).map (fopFlight f.w0)) r.1)))))

/-! ### Microwords (R378, R381, R382, R385, R386) -/

/-- A result that later commits of older results must not undo. -/
def lastingFlight (x : Flight) : Bool :=
  match x.dst with
  | .fp _ _ => false
  | x => !x.inner

/-- The end of a microword: its results become visible by their distance in microwords (R378). -/
def Core.microRetire (k : Core) (own : List Flight) : Core :=
  let vis := (k.flights.filter (fun f => decide (f.left ≤ 1)) ++ own.filter (fun f => f.left == 0)).filter lastingFlight
  let k1 := k.retire own
  { k1 with micro := k1.micro.map (fun m => { m with wrote := m.wrote ++ vis.map (fun f => { f with left := 0 }) }) }

/-- The conditions of BR, on what the microword sees. -/
def microCond (k : Core) (w0 : W16) (c : Nat) : Bool :=
  match c with
  | 0x0 => k.fl.z
  | 0x1 => !k.fl.z
  | 0x2 => k.fl.n
  | 0x3 => !k.fl.n
  | 0x4 => k.fl.c
  | 0x5 => !k.fl.c
  | 0x6 => k.fl.v
  | 0x7 => !k.fl.v
  | 0x8 => k.fl.dc
  | 0x9 => !k.fl.dc
  | 0xA => k.mt0 == 0#64
  | 0xB => k.mt0 != 0#64
  | 0xC => k.sys.mode
  | 0xD => !k.sys.mode
  | 0xE => w0.getLsbD 4
  | _ => !w0.getLsbD 4

/-- The next micro-address of a microword that does not end the instruction. -/
def microNext (k : Core) (w0 : W16) (upc : Nat) (w : BitVec 24) : Nat :=
  let nx := fieldN w 9 12
  match fieldN w 21 3 with
  | 1 => nx
  | 2 => if microCond k w0 (fieldN w 17 4) then upc / 256 * 256 + fieldN w 9 8 else upc + 1
  | 3 => nx / 16 * 16 + fieldN w0 0 4
  | _ => upc + 1

/-- The instruction ends: its results follow those that were in flight when it began (R69, R71, R378). -/
def Core.microEnd (k : Core) (len : Nat) : Core :=
  match k.micro with
  | none => k
  | some m =>
    let later := k.flights.filter (fun f => !f.dst.inner)
    { k with flights := m.old, micro := none }.finish len (m.wrote ++ later) .seq

/-- MOD of a DSU microword (R382). -/
def microMod (w0 : W16) (w : BitVec 24) : Bool :=
  match fieldN w 13 2 with
  | 0 => false
  | 1 => true
  | _ => w0.getLsbD 4

/-- The sequencing action of a microword whose nano-word is done, so that an exception of the action keeps what the nano-word
wrote (R382); none goes on at the next microword. -/
def microSeq (s : State) (c : CoreId) (k k1 : Core) (f : CFields) (len : Nat) (w : BitVec 24) (own : List Flight) :
    Option (State × Res) :=
  let k2 := k1.microRetire own
  match fieldN w 21 3 with
  | 4 => some (s, .left s (k2.microEnd len))
  | 5 =>
    let md := microMod f.w0 w
    match dsuProg (s.quire (coreQuire c)).image (w.extractLsb' 9 4) md with
    | none => some (s, .excAfter s k2 0x01 (k.pc.setWidth 40) 0)
    | some p =>
      match p.check k2 with
      | some (cause, xad) => some (s, .excAfter s k2 cause xad 0)
      | none => some (s, .left s.stamped ((dsuStart s c k2 (w.extractLsb' 9 4) md k.pc).microEnd len))
  | 6 =>
    let cause : BitVec 8 := w.extractLsb' 9 8
    some (s, .excAfter s k2 cause (if cause = 1#8 then k.pc.setWidth 40 else 0) 0)
  | _ => none

/-- Executes microwords from upc on. A word read with wrong parity stops the core (R369, R392). `dirty`: an earlier microword has written architected state, so that a wait keeps the
instruction's place; otherwise it waits as a whole, as s0 had it (R386). -/
def microRun (s0 : State) (c : CoreId) (f : CFields) (len : Nat) (s : State) (k : Core) (upc : Nat) (dirty : Bool) :
    (words : Nat) → State
  | 0 => s0
  | n + 1 =>
    let g := (s.quire (coreQuire c)).image
    let w := g.micro.get upc
    let nw := nanoOf (g.nano.get (fieldN w 0 9))
    let halt := fun (need : Option (WalkKind × BitVec 40)) (op : Bool) =>
      let kw : Core := { k with micro := k.micro.map (fun m => { m with upc := upc, count := 127 - n }) }
      if dirty then s.setCore c (kw.stall s.now need op)
      else s0.setCore c ((s0.core c).stall s0.now need op)
    let good := g.parityOk 2 upc && g.parityOk 3 (fieldN w 0 9)
    let r0 : Res := if !good then .mcheck .csParity 0
      else if fieldN w 21 3 = 5 && k.dsuBusy then .hold else nanoRun c s k f len nw
    let kr := r0.origin k
    match r0.bare with
    | .wait need => halt need false
    | .hold => halt none true
    | .mcheck .csParity _ => if good then settleRes s c k len (.mcheck .csParity 0) else s.setCore c k.awaitReload
    | .done s1 k1 own _ =>
      (match microSeq s1 c k k1 f len w own with
      | none =>
        if fieldN w 21 3 = 7 then s0
        else
          let p := ((nanoSel s c k f nw len nw.asel).setWidth 24).toNat
          microRun s0 c f len s1 (k1.microRetire own) (microNext k f.w0 upc w) (dirty || nw.writes p) n
      | some (s2, r) => settleRes s2 c k len r)
    | r => settleRes s c kr len r

/-- A customer instruction from its first microword. -/
def microBegin (c : CoreId) (f : CFields) (len upc : Nat) (s : State) (k : Core) : Res :=
  let k1 := { k with micro := some ⟨upc, 0, 0, 0, k.flights, [], 0⟩, flights := [] }
  let t := microRun s c f len s k1 upc false 128
  .left t (t.core c)

/-- CUSTOMER_INSTRUCTION: through its dispatch entry (R377, R380); one that waits in its midst goes on from there
(R386). -/
def execCustomerInstruction (c : CoreId) (w0 w1 w2 : W16) (s : State) : Out :=
  let m := (w0.extractLsb' 8 8).toNat
  let e := (s.quire (coreQuire c)).image.entry m
  let lay := fieldN e 14 3
  let len := fieldN e 12 2
  let f := cFields lay w0 w1 w2
  let k := s.core c
  if m < 0xE0 ∨ 0xEF < m then .next s
  else
    match k.micro with
    | some mi => if s.runs c then .next (microRun s c f len s k mi.upc true (128 - mi.count)) else .next s
    | none =>
      if len = 0 then issue s c (.customerInstruction c w0 w1 w2) plain (fun _ k => .illegal k.pc)
      else
        issue s c (.customerInstruction c w0 w1 w2) plain (fun s k =>
          if cReserved lay w1 then .illegal k.pc
          else if e.getLsbD 17 && !k.sys.mode then .privileged 0
          else microBegin c f len (fieldN e 0 12) s k)

end Sys2Proof.Machine
end

