-- ==== Sys2Proof/Machine/Sheets.lean ====
section
/-!
DEFINITION. Sheets of the Pliry ring: their blocks, CRC and encryption, how a port sends one and what it makes of one that
arrives (15_pliry_ring.md R428 to R433, R441, R444).
-/
namespace Sys2Proof.Machine

/-! ### Ports of the ring -/

/-- A ring port. -/
def State.rp (s : State) : RPort → RingPort
  | .a => s.ring.pa
  | .b => s.ring.pb
/-- Changes a ring port. -/
def State.modRp (s : State) (p : RPort) (f : RingPort → RingPort) : State :=
  match p with
  | .a => { s with ring := { s.ring with pa := f s.ring.pa } }
  | .b => { s with ring := { s.ring with pb := f s.ring.pb } }
/-- Changes the ring's own registers. -/
def State.modRing (s : State) (f : Ring → Ring) : State := { s with ring := f s.ring }
/-- The device's watermark serial number (R427). -/
def State.serial (s : State) : W64 := s.stw.fuses.serial

/-! ### Headers and payloads (R430, R431) -/

/-- A sheet header. -/
structure Hdr where
  typ : BitVec 4
  src : BitVec 4
  p : Bool
  n : BitVec 3
  sseq : BitVec 48
deriving DecidableEq, Repr

/-- A header as its block's 64 bits. -/
def Hdr.bits (h : Hdr) : W64 := h.typ ++ h.src ++ BitVec.ofBool h.p ++ 0#4 ++ h.n ++ h.sseq
/-- The header of a block's 64 bits. -/
def Hdr.ofBits (v : W64) : Hdr :=
  { typ := v.extractLsb' 60 4, src := v.extractLsb' 56 4, p := v.getLsbD 55, n := v.extractLsb' 48 3, sseq := v.setWidth 48 }

/-- A list cut or filled with zeros to n words. -/
def padTo (n : Nat) (ws : List W16) : List W16 := (ws ++ List.replicate n 0#16).take n
/-- n quads of a run of words. -/
def quadsOf : Nat → List W16 → List W64
  | 0, _ => []
  | n + 1, ws => quadOf (padTo 4 ws) :: quadsOf n (ws.drop 4)

/-! ### CRC-32 (R432) -/

/-- The low n bits of a value, from the top one down, into the remainder. -/
def crcBits (c : BitVec 32) (v : W64) : Nat → BitVec 32
  | 0 => c
  | n + 1 =>
    let fb := c.msb != v.getLsbD n
    crcBits ((c <<< 1) ^^^ (if fb then 0x04C11DB7#32 else 0#32)) v n
/-- The CRC-32 of blocks (R432). Trailer bits [31:0] are taken as 64 bits, their upper half zero (DEDUCED, notes/assumptions/76.md). -/
def crcOf (blocks : List W64) : BitVec 32 := ~~~(blocks.foldl (fun c v => crcBits c v 64) 0xFFFFFFFF#32)

/-! ### Sending (R430, R444) -/

/-- A block's bytes, bits [63:56] first. -/
def blockBytes (v : W64) : List Byte := natBytesBE 8 v.toNat
/-- Block i of a run of bytes. -/
def byteBlock (bs : List Byte) (i : Nat) : W64 := BitVec.ofNat 64 (beNat ((bs.drop (8 * i)).take 8))
/-- The 96-bit IV of a key slot: salt, then count. -/
def KeySlot.iv (k : KeySlot) : BitVec 96 := k.salt ++ k.count

/-- The key of a slot. -/
def KeySlot.inUse (k : KeySlot) : BitVec 256 := k.key.getD Config.absentRingKey

/-- The payload blocks, trailer low half and tags of a sheet under a key slot. -/
def sealSheet (enc : Bool) (slot : KeySlot) (h : W64) (pl : List W64) : List W64 × BitVec 32 × List W64 :=
  if !enc then (pl, 0, [])
  else
    let aad := blockBytes h
    let ct := Config.gcmEncrypt slot.inUse slot.iv aad (pl.flatMap blockBytes ++ [0, 0, 0, 0])
    let tag := Config.gcmTag slot.inUse slot.iv aad ct
    ((List.range pl.length).map (byteBlock ct),
      BitVec.ofNat 32 (beNat ((ct.drop (8 * pl.length)).take 4)),
      [tag.extractLsb' 64 64, tag.extractLsb' 0 64])

/-- A sheet as its blocks. -/
def sheetBlocks (h : W64) (pl : List W64) (low : BitVec 32) (tags : List W64) : List Block :=
  let crc := crcOf (h :: pl ++ [low.setWidth 64])
  [⟨2, h⟩] ++ pl.map (fun v => ⟨1, v⟩) ++ [⟨1, crc ++ low⟩] ++ tags.map (fun v => ⟨1, v⟩)

/-- The transmitters are connected and the device sends sheets (R270, R375, R446). -/
def State.ringSends (s : State) : Bool := !s.ring.byp && !s.jnl.frz && !s.stw.hsf

/-- The device exchanges sheets with its neighbours: HELLO, CENSUS or JOINED; in INSERT its transmitters send idle fill and
alignment alone (R448). -/
def RingSt.talks : RingSt → Bool
  | .hello => true | .census => true | .joined => true | _ => false
/-- The device sends sheets of its own accord or in answer to one: it is connected and past INSERT (R448). -/
def State.ringTalks (s : State) : Bool := s.ringSends && s.ring.st.talks

/-- Sends a sheet at a port, with its payload words if it has any. -/
def sendSheet (s : State) (p : RPort) (typ : BitVec 4) (src : BitVec 4) (n : BitVec 3) (sseq : BitVec 48)
    (payload : Option (List W16)) : State :=
  let r := s.rp p
  let slot := r.tx[r.txSlot]
  let h := (Hdr.mk typ src payload.isSome n sseq).bits
  if !s.ringSends then s
  else
    let (pl, low, tags) := sealSheet r.enc slot h (match payload with | some ws => quadsOf 16 ws | none => [])
    let tx := if r.enc then r.tx.set r.txSlot { slot with count := slot.count + 1#64 } else r.tx
    (s.modRp p (fun r => { r with tx := tx, lastTx := s.now })).send (.sheet p (sheetBlocks h pl low tags))

/-- Sends a control sheet (R433). -/
def sendControl (s : State) (p : RPort) (code : BitVec 8) (arg : BitVec 40) (payload : Option (List W16)) : State :=
  sendSheet s p 5 s.ring.pos 0 (code ++ arg) payload
/-- Sends DUR with the current JNL_DUR (R433, R440). -/
def sendDur (s : State) : State :=
  let s1 := sendControl s .a 3 0 (some (wordsOf s.jnl.dur))
  { s1 with jnl := { s1.jnl with durSent := s.jnl.dur, durSince := s.now } }
/-- Sends HELLO, with the encryption setting that the port took at its join (R433, R444). To a successor that is not known yet it brings JNL_DUR, and a later change goes in a DUR (R440,
notes/assumptions/158.md). -/
def sendHello (s : State) (p : RPort) (reply acc : Bool) : State :=
  let w4 : W16 := (bit64 acc 6 ||| bit64 reply 5 ||| bit64 (s.rp p).enc 4 ||| at64 s.ring.pos.toNat 0).setWidth 16
  let s1 := sendControl s p 1 0 (some (wordsOf s.serial ++ [w4, 0, 0, 0] ++ wordsOf s.jnl.dur))
  if p == .a && !s.ring.pa.nKnown then { s1 with jnl := { s1.jnl with durSent := s.jnl.dur } } else s1

/-! ### Receiving (R441) -/

/-- A valid sheet ends the loss of a port, and the device sends HELLO on it again (R442, notes/assumptions/155.md). -/
def foundAgain (s : State) (p : RPort) : State :=
  if (s.rp p).lost.isNone then s
  else
    let s1 := s.modRp p (fun r => { r with lost := none })
    if s.ring.st.talks && !s.ring.byp then sendHello s1 p false false else s1

/-- What a receiver makes of the blocks of a sheet. -/
inductive SheetRes where
  /-- idle fill or an alignment block: no sheet -/
  | none
  | error
  | tagError
  | ok (h : Hdr) (ws : List W16)
deriving DecidableEq, Repr

/-- The payload words of a sheet. -/
def payloadWords (pl : List W64) : List W16 := pl.flatMap wordsOf

/-- A sheet whose CRC and tag hold is in error when a journal SSEQ differs from its first entry's SEQ, and when a control
code is reserved (R433, R441). -/
def checkKind (h : Hdr) (ws : List W16) : SheetRes :=
  let code := (h.sseq.extractLsb' 40 8).toNat
  if h.typ = 1#4 ∧ h.sseq ≠ (quadOf (ws.take 4)).setWidth 48 then .error
  else if h.typ = 5#4 ∧ (code = 0 ∨ 6 < code) then .error
  else .ok h ws

/-- The checks of a sheet at a port (R429, R430, R441, R444). -/
def openSheet (enc : Bool) (slot : KeySlot) (bs : List Block) : SheetRes :=
  match bs with
  | [] => .none
  | b :: rest =>
    let h := Hdr.ofBits b.bits
    let np := if h.p then 16 else 0
    let pl := (rest.take np).map (·.bits)
    let tr := ((rest.drop np).map (·.bits)).headD 0#64
    let tags := (rest.drop (np + 1)).map (·.bits)
    let low : BitVec 32 := tr.setWidth 32
    if b.sync = 2#2 ∧ (h.typ = 0#4 ∨ h.typ = 15#4) then .none
    else if b.sync ≠ 2#2 ∨ 5 < h.typ.toNat then .error
    else if rest.length ≠ np + 1 + (if enc then 2 else 0) ∨ rest.any (fun x => x.sync != 1#2) then .error
    else if crcOf (b.bits :: pl ++ [low.setWidth 64]) ≠ tr.extractLsb' 32 32 then .error
    else if !enc then checkKind h (payloadWords pl)
    else
      let ct := pl.flatMap blockBytes ++ natBytesBE 4 low.toNat
      let tag := Config.gcmTag slot.inUse slot.iv (blockBytes b.bits) ct
      if tags ≠ [tag.extractLsb' 64 64, tag.extractLsb' 0 64] then .tagError
      else
        let pt := Config.gcmDecrypt slot.inUse slot.iv (blockBytes b.bits) ct
        checkKind h (payloadWords ((List.range np).map (byteBlock pt)))

/-- Saturating increment. -/
def sat16 (v : W16) : W16 := if v = 0xFFFF#16 then v else v + 1#16

/-- The full sequence number nearest a reference count with the low w bits given (R431). -/
def nearest (low base w : Nat) : Nat :=
  let d := (low + 2 ^ w - base % 2 ^ w) % 2 ^ w
  if d < 2 ^ (w - 1) then base + d else base + d - 2 ^ w

/-- The device takes part in what its receivers hear. -/
def State.ringHears (s : State) : Bool :=
  !s.jnl.frz && !s.stw.hsf && (match s.pins.phase with | .running => true | .stopping _ => true | _ => false)

/-- A sheet arrives at a port: the port's counts, and the sheet where it is valid. In LISTEN a sheet error restarts the clean
traffic (R441, R444, R448). -/
def hearSheet (s : State) (p : RPort) (bs : List Block) : State × SheetRes :=
  let r := s.rp p
  let slot := r.rx[r.rxSlot]
  let res := openSheet r.enc slot bs
  let counted := fun (r : RingPort) =>
    if r.enc then { r with rx := r.rx.set r.rxSlot { slot with count := slot.count + 1#64 } } else r
  let unclean := fun (s : State) => s.modRing (fun g =>
    { g with clean := if g.clean.isSome then some s.now else none })
  if !s.ringHears then (s, .none)
  else
    match res with
    | .none => (s, .none)
    | .error => (unclean (s.modRp p (fun r => { counted r with she := sat16 r.she, tagRun := 0 })), .error)
    | .tagError => (unclean (s.modRp p (fun r => { counted r with auth := sat16 r.auth, tagRun := r.tagRun + 1 })), .tagError)
    | .ok h ws => (foundAgain (s.modRp p (fun r => { counted r with lastRx := s.now, tagRun := 0 })) p, .ok h ws)

/-- A KEEPALIVE or a LEAVE: a receiver does nothing with it but hear it (R433, R434, notes/assumptions/78.md). -/
def Hdr.onlyHeard (h : Hdr) : Bool := h.typ == 3#4 || (h.typ == 5#4 && h.sseq.extractLsb' 40 8 == 6#8)

/-- A command that brings a sheet of one kind to a port: an error is counted, a sheet of another kind is not this command's
unless nothing but its arrival counts (R442), and while the bypass is closed the taps only listen (R446). -/
def onSheet (s : State) (p : RPort) (bs : List Block) (kind : Hdr → Bool) (f : State → Hdr → List W16 → State) : Out :=
  match hearSheet s p bs with
  | (s1, .ok h ws) =>
    .next (if !kind h then (if h.onlyHeard then s1 else s) else if s.ring.byp then s1 else f s1 h ws)
  | (s1, _) => .next s1

/-- A journal, acknowledgement or calibration sheet by its type. -/
def isType (t : BitVec 4) (h : Hdr) : Bool := h.typ == t
/-- A control sheet by its code. -/
def isControlCode (c : BitVec 8) (h : Hdr) : Bool := h.typ == 5#4 && h.sseq.extractLsb' 40 8 == c

end Sys2Proof.Machine
end

