-- ==== Sys2Proof/Machine/RingOps.lean ====
section
/-!
DEFINITION. What the ring's commands share: the bypass, leaving and joining (15_pliry_ring.md R443, R446, R448), and the
acceptance of a mirror source (R266, R437, R449; 09_journal_durability.md).
-/
namespace Sys2Proof.Machine

/-! ### Mirror source (R258, R266, R437) -/

/-- The predecessor joined on port B is accepted as mirror source; a ring of one has none (R266, R449). -/
def sourceOk (s : State) : Bool :=
  s.jnl.mv && s.ring.pb.nKnown && s.jnl.msrc == s.ring.pb.nPos && s.ring.pb.nSerial != s.serial

/-- Offers the predecessor joined on port B as mirror source: accepted when V is 0 or SRC is its position; then the next
expected sequence follows its JNL_DUR (R266, R437). -/
def acceptSource (s : State) : State :=
  let r := s.ring.pb
  if r.nSerial = s.serial then s
  else if s.jnl.mv && s.jnl.msrc != r.nPos then s
  else { s with jnl := { s.jnl with
      mv := true, msrc := r.nPos, expect := s.jnl.pdur + 1#64, stuck := false, resendFor := 0 } }

/-- Empties the mirror; a joined predecessor is accepted at once and told so (R266, R449). -/
def mirrorRelease (s : State) : State :=
  let s1 := { s with jnl := { s.jnl with mv := false, mslots := [], mhi := 0, stuck := false } }
  if s1.ring.pb.nKnown && s1.ring.pb.up then
    let s2 := acceptSource s1
    if sourceOk s2 then sendHello s2 .b true true else s2
  else s1

/-! ### The bypass (R446) -/

/-- A port whose lanes are through the bypass: nothing is up on it. -/
def RingPort.down (r : RingPort) : RingPort :=
  { r with up := false, lost := none, hello := false, nKnown := false, tagRun := 0, enc := false }

/-- The bypass closes: the neighbours are no longer joined, and replication ends (R264, R446). -/
def closeBypass (s : State) : State :=
  updateRep (s.modRing (fun g => { g with byp := true, acc := false, pa := g.pa.down, pb := g.pb.down }))

/-- Enters a state of R448. -/
def enterRing (s : State) (st : RingSt) : State :=
  s.modRing (fun g => { g with st := st, since := s.now, clean := none, censusSent := false })

/-- A port's lanes are locked and aligned. -/
def RingPort.locked (r : RingPort) : Bool := r.lk == 0xF#4 && r.algn

/-- LISTEN: traffic is clean from the moment at which both ports are locked (R448). -/
def startListen (s : State) : State :=
  let s1 := enterRing s .listen
  s1.modRing (fun g => { g with clean := if g.pa.locked && g.pb.locked then some s.now else none })

/-- OFF goes to LISTEN when JEN, RING_EN, PV and a ready HBM allow (R448); a device in its power-failure sequence, in Dormant or on
its way there, or in a reset does not join (R446, R450, R515). -/
def tryListen (s : State) : State :=
  let g := s.ring
  if g.st == .off && g.jen && s.pins.ringEn && g.pv && s.hbm.rdy && !s.jnl.pf && !s.stw.hsf
      && s.pwr.st != .dormant && s.pwr.move != .toDormant && s.pins.phase == .running then startListen s else s

/-- Codes of RING_STAT.WHY (R451). -/
def whyJen : BitVec 4 := 1
def whyRingEn : BitVec 4 := 2
def whyLost : BitVec 4 := 3
def whyDup : BitVec 4 := 4
def whyEnc : BitVec 4 := 5
def whyHaltSafe : BitVec 4 := 6
def whyHello : BitVec 4 := 7

/-- A leave that uses no join attempt: the bypass closes and the device is in OFF (R443). -/
def leaveOff (s : State) (why : BitVec 4) : State :=
  enterRing ((closeBypass s).modRing (fun g => { g with why := why })) .off

/-- A leave that uses an attempt: back to LISTEN while attempts are left (R443). -/
def leaveRetry (s : State) (why : BitVec 4) : State :=
  let s1 := closeBypass s
  let n := s1.ring.rjn + 1#4
  let s2 := s1.modRing (fun g => { g with why := why, rjn := if g.rjn = 15#4 then 15#4 else n })
  if decide (s2.ring.rjn.toNat < s2.ring.rjmax.toNat) then
    (if s2.jnl.pf then enterRing s2 .off else startListen s2)
  else enterRing s2 .left

/-- A write of JEN := 1 from 0 (R443, R448). -/
def jenSet (s : State) : State :=
  if s.ring.jen then s else tryListen (s.modRing (fun g => { g with jen := true, rjn := 0 }))

/-- A write of JEN := 0: LEAVE on each port while the bypass is open, then OFF (R446, R448). -/
def jenClear (s : State) : State :=
  let s1 := s.modRing (fun g => { g with jen := false })
  if s.ring.st == .off then s1
  else
    let s2 := if s.ring.byp then s1 else sendControl (sendControl s1 .a 6 0 none) .b 6 0 none
    leaveOff s2 whyJen

/-- RING_CTL takes a value written (R451). -/
def ringCtlWrite (s : State) (v : W64) : State :=
  let s1 := s.modRing (fun g => { g with
    enca := v.getLsbD 1, encb := v.getLsbD 2, rjn := if v.getLsbD 3 then 0 else g.rjn })
  if v.getLsbD 0 then jenSet s1 else if s1.ring.jen then jenClear s1 else s1

/-- A device that meets PFAIL_N before it is joined stops joining (R450). -/
def ringPfail (s : State) : State :=
  match s.ring.st with
  | .joined => s
  | .left => s
  | .off => s
  | _ => enterRing (closeBypass s) .off

/-- A list of the census (R433). -/
def censusWords (l : List (BitVec 4 × BitVec 56)) : List W16 :=
  l.flatMap (fun e => wordsOf (0x8#4 ++ e.1 ++ e.2))
/-- The valid entries of a census payload. -/
def censusList (ws : List W16) : List (BitVec 4 × BitVec 56) :=
  ((quadsOf 16 ws).filter (fun v => v.getLsbD 63)).map (fun v => (v.extractLsb' 56 4, v.setWidth 56))
/-- The device's own entry. -/
def ownEntry (s : State) : BitVec 4 × BitVec 56 := (s.ring.pos, s.serial.setWidth 56)

/-- Sends CENSUS with a list, in the name of the device that started it (R448). -/
def sendCensus (s : State) (src : BitVec 4) (l : List (BitVec 4 × BitVec 56)) : State :=
  sendSheet s .a 5 src 0 (2#8 ++ 0#40) (some (censusWords (l.take 16)))

/-- Starts a census (R448). -/
def startCensus (s : State) : State :=
  (sendCensus s s.ring.pos [ownEntry s]).modRing (fun g => { g with censusSent := true })

end Sys2Proof.Machine
end

