-- ==== Sys2Proof/Machine/Journal.lean ====
section
/-!
DEFINITION. The journal's commands: its control and sequence ports, the copies to HBM and to the host, the power-failure
sequence (09_journal_durability.md R256 to R272), and the sheets that replicate it (15_pliry_ring.md R435 to R440).
-/
namespace Sys2Proof.Machine

/-! ### JNL_CTL and the sequence ports (R261, R262, R266) -/

/-- A write of PEN (R262). -/
def setPen (s : State) (v : Bool) : State := { s with jnl := { s.jnl with pen := v } }
/-- A write of RPE: replication may come into or go out of effect (R264). -/
def setRpe (s : State) (v : Bool) : State := updateRep { s with jnl := { s.jnl with rpe := v } }
/-- A write of HDE (R260). -/
def setHde (s : State) (v : Bool) : State := { s with jnl := { s.jnl with hde := v } }
/-- JNL_CTL takes a value written (R262). -/
def jnlCtlWrite (s : State) (v : W64) : State :=
  let s1 := setHde (setRpe (setPen s (v.getLsbD 0)) (v.getLsbD 1)) (v.getLsbD 2)
  if v.getLsbD 3 then mirrorRelease s1 else s1

/-- JNL_PEN. -/
def execJnlPen (v : Bool) (s : State) : Out := .next (setPen s v)
/-- JNL_RPE. -/
def execJnlRpe (v : Bool) (s : State) : Out := .next (setRpe s v)
/-- JNL_HDE. -/
def execJnlHde (v : Bool) (s : State) : Out := .next (setHde s v)
/-- JNL_MREL. -/
def execJnlMrel (s : State) : Out := .next (mirrorRelease s)
/-- JNL_NEXT. -/
def execJnlNext (v : W64) (s : State) : Out := .next (writeNext s v)
/-- JNL_DUR. -/
def execJnlDur (v : W64) (s : State) : Out := .next (writeDur s v)

/-! ### Copies (R257, R259, R260) -/

/-- The next entry is due to be copied to HBM: the region is well configured, and its slot is durable at the host (R259). -/
def canCopy (s : State) : Bool :=
  s.jnlWorks && jnlRegionOk s && decide (s.jnl.hbm.toNat < s.jnl.last)
    && decide (s.jnl.hbm.toNat + 1 ≤ s.jnl.dur.toNat + 2 ^ s.jnl.logh.toNat)

/-- JOURNAL_HBM_COPY: the next entry goes from the own tail to the HBM region, in its turn at the controller (R17, R257, R259,
R272, R421). -/
def execJournalHbmCopy (s : State) : Out :=
  let q := s.jnl.hbm.toNat + 1
  let pa := regionSlot s.jnl q
  if !canCopy s then .next s
  else if s.mustWait srcJournal pa then .next (s.await srcJournal .data (lineOf pa))
  else
    match readEntry (s.gotTask srcJournal .data) q with
    | (s1, none) => .next s1
    | (s1, some ws) =>
      let s2 := hbmWrite s1 (regionSlot s.jnl q / 16) ws
      .next { s2 with jnl := { s2.jnl with hbm := s2.jnl.hbm + 1#64 } }

/-- The next entry is due to be drained to the host: it is in the HBM region, its ring slot is durable, the link is up and the PF
may issue requests (R260, R458, R469). While JNL_HCFG is misconfigured nothing is drained, for the region has no place to read
(DESIGN CHOICE, notes/assumptions/212.md). An entry that is in the region already is drained past a JERR that halts the copying
before it (DEDUCED, notes/assumptions/213.md). -/
def canDrain (s : State) : Bool :=
  s.jnlWorks && s.pins.phase == .running && s.jnl.hde && s.jnl.drainOk && jnlRegionOk s && s.host.lup && s.host.cfg[(0 : FnId)].bme
    && decide (s.jnl.host.toNat < s.jnl.hbm.toNat)
    && decide (s.jnl.host.toNat + 1 ≤ s.jnl.dur.toNat + 2 ^ s.jnl.logq.toNat)

/-- The host-ring address of an entry (R260). -/
def ringSlot (j : Journal) (q : Nat) : Nat := j.qaddr.toNat * 4096 + q % 2 ^ j.logq.toNat * 32

/-- HOST_DRAIN: the next entry goes from the HBM region to the host ring, 32 bytes in one posted write of the PF (R253,
R260). Poison goes out as EP (R300). -/
def execHostDrain (s : State) : Out :=
  let q := s.jnl.host.toNat + 1
  let pa := regionSlot s.jnl q
  if !canDrain s then .next s
  else if s.mustWait srcJournal pa then .next (s.await srcJournal .drain (lineOf pa))
  else
    let (s1, bad) := hbmRead (s.gotTask srcJournal .drain) (pa / 16)
    let s2 := s1.send (.hostWrite 0 (ringSlot s.jnl q) (bytesOfWords (s.seen pa 16)) bad)
    .next { s2 with jnl := { s2.jnl with host := s2.jnl.host + 1#64 } }

/-! ### Power failure (R26, R268 to R270) -/

/-- The power-failure sequence begins: postings stop, the cores are told, a device not yet joined stops joining (R269, R353,
R450, R570). In Dormant, and on the way out of it, the device freezes at once (R519). In halt-safe it changes nothing (R375). -/
def powerFail (s : State) : State :=
  if s.stw.hsf || s.jnl.pf || !s.awake then s
  else
    let s1 := { s with jnl := { s.jnl with pf := true, pfSince := s.now, frz := s.jnl.frz || s.pwr.st == .dormant } }
    ringPfail (logEvent (raiseAll s1 44 (some (stwMsg 0x05 0))) .pfail noSource)

/-- PFAIL: the pin falls. -/
def execPfail (s : State) : Out := .next (powerFail { s with pins := { s.pins with pfailN := false } })

/-- Port A is joined. -/
def State.joinedA (s : State) : Bool := s.ring.pa.up && !s.ring.byp && s.ring.st == .joined

/-- The freeze is due: 45 us after t0, or as soon as no posting is in flight and nothing is left to push (R269, R272). -/
def freezeDue (s : State) : Bool :=
  let j := s.jnl
  decide (j.pfSince + 40500 ≤ s.now) ||
    (!jnlInfl s && (j.held == 0 || (j.rep && decide (j.last ≤ j.repl.toNat)) || !s.joinedA))

/-- FREEZE. After a thermal trip the stack then stands in self-refresh (R269, R270, R537). -/
def execFreeze (s : State) : Out :=
  if s.jnl.pf && !s.jnl.frz && !s.stw.hsf && freezeDue s then
    .next { s with jnl := { s.jnl with frz := true }, hbm := { s.hbm with sr := s.hbm.sr || s.pwr.trip } }
  else .next s

/-! ### Sending entries (R264, R435, R439) -/

/-- Reads up to n entries from q on, as far as they can be read. -/
def takeEntries (s : State) (q : Nat) : Nat → State × List (List W16)
  | 0 => (s, [])
  | n + 1 =>
    match readEntry s q with
    | (s1, none) => (s1, [])
    | (s1, some ws) => let (s2, rest) := takeEntries s1 (q + 1) n; (s2, ws :: rest)

/-- How many entries wait to be sent. -/
def Journal.unsent (j : Journal) : Nat := j.next.toNat - j.sendPos.toNat

/-- Since when the oldest of fewer than 4 unsent entries waits: its append, or the restart of sending if that came later (R435). -/
def Journal.unsentSince (j : Journal) : Option Nat :=
  if j.unsent = 0 then none else some (max j.restart (j.appended.getD (j.unsent - 1) 0))

/-- Sends a journal sheet of up to n entries (R430, R431). -/
def sendJournal (s : State) (n : Nat) : State :=
  let q := s.jnl.sendPos
  let (s1, es) := takeEntries s q.toNat n
  if es.isEmpty then s1
  else
    let s2 := sendSheet s1 .a 1 s.ring.pos (BitVec.ofNat 3 es.length) (q.setWidth 48) (some es.flatten)
    let j := s2.jnl
    { s2 with jnl := { j with sendPos := q + BitVec.ofNat 64 es.length, replSince := if q.toNat ≤ j.repl.toNat + 1 then s2.now else j.replSince } }

/-- JOURNAL_SHEET_SEND (R435). -/
def execJournalSheetSend (s : State) : Out :=
  .next (if s.jnl.rep && s.ringSends && s.awake && decide (4 ≤ s.jnl.unsent) then sendJournal s 4 else s)

/-- JOURNAL_SHEET_TIMER: the oldest unsent entry has waited 16 ns (R435). -/
def execJournalSheetTimer (s : State) : Out :=
  let waited := match s.jnl.unsentSince with
    | some t => decide (t + 15 ≤ s.now)
    | none => false
  .next (if s.jnl.rep && s.ringSends && s.awake && waited && decide (s.jnl.unsent < 4) then sendJournal s s.jnl.unsent else s)

/-- Sending begins again from an entry, which counts in RSND of port A (R439). -/
def resendFrom (s : State) (q : W64) : State :=
  { s with jnl := s.jnl.sendFrom q s.now }.modRp .a (fun r => { r with rsnd := sat16 r.rsnd })

/-- ACKNOWLEDGEMENT at port A: raises JNL_REPL to a value above it (R438). -/
def execAcknowledgement (sheet : List Block) (s : State) : Out :=
  onSheet s .a sheet (isType 2) (fun s h _ =>
    let j := s.jnl
    let v := min (nearest h.sseq.toNat j.repl.toNat 48) j.last
    if j.rep && decide (j.repl.toNat < v) then
      let r := BitVec.ofNat 64 v
      let j1 := if j.sendPos.toNat ≤ v then { j with sendPos := r + 1#64 } else j
      { s with jnl := { j1 with repl := r, replSince := s.now } }
    else s)

/-- RESEND at port A: sending begins again from s, or a DUR answers an s that is not above JNL_REPL; in INSERT nothing
is sent (R439, R448). -/
def execResend (sheet : List Block) (s : State) : Out :=
  onSheet s .a sheet (isControlCode 4) (fun s h _ =>
    let j := s.jnl
    let q := nearest (h.sseq.toNat % 2 ^ 40) j.repl.toNat 40
    if q ≤ j.repl.toNat then (if s.ringTalks then sendDur s else s)
    else if j.rep then resendFrom s (BitVec.ofNat 64 (min q j.next.toNat))
    else s)

/-- RESEND_TIMEOUT: sent entries wait and JNL_REPL has not advanced for 5 us (R439). -/
def execResendTimeout (s : State) : Out :=
  let j := s.jnl
  .next (if j.rep && s.ringSends && s.awake && decide (j.repl.toNat + 1 < j.sendPos.toNat) && decide (j.replSince + 4500 ≤ s.now)
    then resendFrom s (j.repl + 1#64) else s)

/-- DUR_SEND: JNL_DUR has changed since it was last sent, at most once in 10 us (R440). -/
def execDurSend (s : State) : Out :=
  let j := s.jnl
  .next (if s.ring.pa.up && s.ringSends && s.awake && j.dur != j.durSent && (j.durSince == 0 || decide (j.durSince + 9000 ≤ s.now))
    then sendDur s else s)

/-! ### The mirror (R258, R437, R438) -/

/-- Asks the predecessor for E again. -/
def sendResend (s : State) : State :=
  let s1 := sendControl s .b 4 (s.jnl.expect.setWidth 40) none
  { s1 with jnl := { s1.jnl with resendFor := s.jnl.expect, resendSince := s.now } }

/-- RESEND(E), at most once for an E in each 1 us (R437). -/
def resendOnce (s : State) : State :=
  if s.jnl.resendFor = s.jnl.expect ∧ s.now < s.jnl.resendSince + 900 then s else sendResend s

/-- Stores an entry of the predecessor (R258, R437). -/
def mirrorPut (s : State) (q : Nat) (ws : List W16) : State :=
  let s1 := putSlot s (mirrorSlot q) ws
  let v := BitVec.ofNat 64 q
  { s1 with jnl := { s1.jnl with mslots := s1.jnl.mslots.set (q % 65536) v, mhi := v, expect := v + 1#64 } }

/-- Handles the entries of a journal sheet, the first with sequence q; answers whether one was stored (R437). -/
def mirrorTake (s : State) (q : Nat) (got : Bool) : List (List W16) → State × Bool
  | [] => (s, got)
  | ws :: rest =>
    let e := s.jnl.expect.toNat
    if q < e then mirrorTake s (q + 1) got rest
    else if e < q then (resendOnce s, got)
    else if s.jnl.slotFree q then mirrorTake (mirrorPut s q ws) (q + 1) true rest
    else ({ s with jnl := { s.jnl with stuck := true } }, got)

/-- Sends the acknowledgement of E - 1 (R438). -/
def sendAck (s : State) : State :=
  let a := s.jnl.expect - 1#64
  let s1 := sendSheet s .b 2 s.ring.pos 0 (a.setWidth 48) none
  { s1 with jnl := { s1.jnl with ackSince := s.now } }

/-- The entries of a payload, 16 words each. -/
def sheetEntries : Nat → List W16 → List (List W16)
  | 0, _ => []
  | n + 1, ws => padTo 16 ws :: sheetEntries n (ws.drop 16)

/-- JOURNAL_SHEET_RECEIVE at port B, from the accepted source; what it stores is acknowledged (R437, R438). -/
def execJournalSheetReceive (sheet : List Block) (s : State) : Out :=
  onSheet s .b sheet (isType 1) (fun s h ws =>
    if !sourceOk s then s
    else
      let q := nearest h.sseq.toNat s.jnl.expect.toNat 48
      let (s1, got) := mirrorTake s q false (sheetEntries (min 4 h.n.toNat) ws)
      if got then sendAck s1 else s1)

/-- ACK_REPEAT: the last acknowledgement again, while the mirror holds entries of the source. An entry that the source's JNL_DUR
has freed is held until MREL empties the mirror (R258, R262, R438). -/
def execAckRepeat (s : State) : Out :=
  .next (if sourceOk s && s.ringSends && s.awake && s.jnl.mhi != 0#64 && decide (s.jnl.ackSince + 900 ≤ s.now)
    then sendAck s else s)

/-- A slot that E waited for is free now: the predecessor is asked for E again (R437). -/
def askFreed (s : State) : State :=
  if s.jnl.stuck && s.jnl.slotFree s.jnl.expect.toNat then sendResend { s with jnl := { s.jnl with stuck := false } } else s

/-- The JNL_DUR that the predecessor reports in a HELLO or a DUR: from the mirror's source it frees slots; another device's only
counts for an acceptance to come (R258, R437, R440). -/
def heardDur (s : State) (d : W64) : State :=
  let s1 := { s with jnl := { s.jnl with pdur := d } }
  if sourceOk s1 then { s1 with jnl := s1.jnl.freeTo d } else s1

/-- A DUR of the predecessor: slots free up, and E moves past what is durable (R258, R437). -/
def takeDur (s : State) (d : W64) : State :=
  let s1 := heardDur s d
  if !sourceOk s1 then s1
  else
    let e := if s.jnl.expect.toNat ≤ d.toNat then d + 1#64 else s.jnl.expect
    askFreed { s1 with jnl := { s1.jnl with expect := e } }

/-- DUR at port B (R433, R440). -/
def execDur (sheet : List Block) (s : State) : Out :=
  onSheet s .b sheet (isControlCode 3) (fun s h ws => if h.p then takeDur s (quadOf (ws.take 4)) else s)

end Sys2Proof.Machine
end

