-- ==== Sys2Proof/Machine/Host.lean ====
section
/-!
DEFINITION. The PCIe endpoint and Camwin: what reaches the device, queue pairs, doorbells, submissions, completions, signals,
resets of functions and of the link (16_host_interface.md R452 to R470).
-/
namespace Sys2Proof.Machine

/-! ### What reaches the device (R453, R454) -/

/-- How a memory request to a BAR of a function is met. -/
inductive Reach where
  | ok
  /-- Completer Abort: halt-safe, or a warm reset that has begun (R375, R453) -/
  | abort
  /-- Unsupported Request: the function's Memory Space Enable is 0, or the function does not exist (R453) -/
  | unsup
  /-- the link is down: no request arrives -/
  | none
deriving DecidableEq, Repr

/-- A function exists: the PF, and the VFs that are enabled (R452). -/
def State.hasFn (s : State) (f : FnId) : Bool := decide (f.val ≤ s.host.nvf.toNat)

/-- How a request to a BAR is met. -/
def State.reach (s : State) (f : FnId) : Reach :=
  if !s.host.lup then .none
  else if s.stw.hsf || s.pins.phase != .running then .abort
  else if !s.hasFn f || !s.host.cfg[f].mse then .unsup
  else .ok

/-- What a read that is not served completes with. -/
def refuseRead (s : State) : Reach → State
  | .abort => s.send .cplAbort
  | .unsup => s.send .cplUnsupported
  | _ => s
/-- What a posted write that is not served comes to: an Unsupported Request is reported; nothing completes a posted write. -/
def refuseWrite (s : State) : Reach → State
  | .unsup => s.send .aerUnsupported
  | _ => s

/-! ### Enabling (R459, R460) -/

/-- An engine forgets the work of a queue pair that is disabled. -/
def Engine.forget (x : Engine) (n : QpId) : Engine :=
  { x.dropWork n with
    cur := x.cur.map (fun r => { r with cam := r.cam.map (fun w => if w.qp == n then { w with live := false } else w) }) }

/-- A queue pair is disabled: its staged completions are discarded, and nothing of it goes on (R460). -/
def disableQp (s : State) (n : QpId) : State :=
  { s with engines := s.engines.map (fun (x : Engine) => x.forget n) }.modQp n (fun x =>
    { x with staged := [], subs := [], fetched := none, resv := 0, unsig := 0, firstUnsig := none, lateSq := none, lateCq := none })

/-- A queue pair is enabled: what was written is latched, and its counters begin (R460). -/
def QueuePair.begin (x : QueuePair) : QueuePair :=
  { x with
    actSqb := x.sqb, actCqb := x.cqb, act := x.bind, sqh := 0, cqt := 0, sqt := 0, cqh := 0, ph := true, stop := false, why := 0
    resv := 0, subs := [], staged := [], lastCore := none, fetched := none, unsig := 0, firstUnsig := none, lateSq := none
    lateCq := none, flr := false }

/-- CQ_SIZE takes a value written (R459, R460). -/
def cqSizeWrite (s : State) (n : QpId) (v : W64) : State :=
  let x := s.qp n
  let y := { x with sqn := v.setWidth 13, cqn := v.extractLsb' 16 13 }
  if y.en && !x.en then s.setQp n y.begin
  else if x.en && !y.en then disableQp (s.setQp n y) n
  else s.setQp n y

/-- QUEUE_PAIR_ENABLE: a write of CQ_SIZE. -/
def execQueuePairEnable (n : QpId) (v : W64) (s : State) : Out :=
  .next (anyCommand s none (fun s => cqSizeWrite s n v))

/-! ### Doorbells (R456, R463, R468, R516) -/

/-- A submission-queue tail, as an enabled queue pair takes it. -/
def takeSqBell (s : State) (n : QpId) (v : W64) : State :=
  let x := s.qp n
  let t : BitVec 13 := v.setWidth 13
  if x.sqn.toNat ≤ t.toNat then stopQp s n 1
  else
    let s1 := s.setQp n { x with sqt := t }
    if x.act.qe then raiseIn s1 x.act.qq ⟨x.act.qs.toNat, by omega⟩ none else s1

/-- A completion-queue head: it must move within the entries written (R468). -/
def takeCqBell (s : State) (n : QpId) (v : W64) : State :=
  let x := s.qp n
  let h : BitVec 13 := v.setWidth 13
  let dist := fun (a : BitVec 13) => (a.toNat + x.cqn.toNat - x.cqh.toNat) % x.cqn.toNat
  if x.cqn.toNat ≤ h.toNat || decide (dist x.cqt < dist h) then stopQp s n 1
  else s.setQp n { x with cqh := h }

/-- SQ_DOORBELL of a function: from the owner only; ignored while the queue pair is disabled; recorded in Dormant (R456, R460,
R516). -/
def execSqDoorbell (f : FnId) (n : QpId) (v : BitVec 64) (s : State) : Out :=
  let x := s.qp n
  match s.reach f with
  | .ok =>
    .next (if !x.en || x.act.fn != f then s
      else if s.pwr.st == .dormant then s.setQp n { x with lateSq := some v }
      else takeSqBell s n v)
  | r => .next (refuseWrite s r)

/-- CQ_DOORBELL of a function. -/
def execCqDoorbell (f : FnId) (n : QpId) (v : BitVec 64) (s : State) : Out :=
  let x := s.qp n
  match s.reach f with
  | .ok =>
    .next (if !x.en || x.act.fn != f then s
      else if s.pwr.st == .dormant then s.setQp n { x with lateCq := some v }
      else takeCqBell s n v)
  | r => .next (refuseWrite s r)

/-- The doorbells that Dormant recorded are served (R516). -/
def serveLate (s : State) : State :=
  (List.finRange 256).foldl (fun s n =>
    let x := s.qp n
    let s0 := s.setQp n { x with lateSq := none, lateCq := none }
    let s1 := match x.lateSq with | some v => if x.en then takeSqBell s0 n v else s0 | none => s0
    match x.lateCq with | some v => if x.en then takeCqBell s1 n v else s1 | none => s1) s

/-! ### Submissions (R458, R462, R463) -/

/-- Camwin works: not after PFAIL_N, in halt-safe, at a reset, in Dormant or after a vendor unlock (R269, R375, R499, R516,
R526). -/
def State.camOn (s : State) : Bool := s.live && !s.jnl.pf && s.pwr.st != .dormant && s.stw.bst != .vendor
/-- Camwin issues requests to the host (R469). -/
def State.camRuns (s : State) : Bool := s.camOn && s.host.lup

/-- A core can be a target: neither checkstopped nor isolated (R462). -/
def State.coreUp (s : State) (c : CoreId) : Bool := !(s.core c).ctl.cks && !(s.core c).ctl.iso
/-- The eligible target cores, in ascending order (R462, R463). -/
def camTargets (s : State) (x : QueuePair) : List CoreId :=
  (List.finRange 64).filter (fun c => x.cores.getLsbD c.val && s.coreUp c)
/-- Free CQ entries (R462). -/
def QueuePair.freeCq (x : QueuePair) : Nat := x.cqn.toNat - 1 - (x.cqt.toNat + x.cqn.toNat - x.cqh.toNat) % x.cqn.toNat

/-- A submission is due to be fetched (R462). -/
def fetchDue (s : State) (n : QpId) : Bool :=
  let x := s.qp n
  let e := s.eng x.act.eng
  x.en && !x.stop && x.fetched.isNone && x.sqh != x.sqt && e.en && e.cen && !(camTargets s x).isEmpty && decide (x.resv < x.freeCq)

/-- SQ_FETCH: the owner reads the 64 bytes of an SQ entry, which takes a reservation; an error stops the queue pair (R458, R462,
R468). -/
def execSqFetch (n : QpId) (r : HostReply) (s : State) : Out :=
  let x := s.qp n
  .next (if !s.camRuns || !fetchDue s n || !s.host.cfg[x.act.fn].bme then s
    else
      match r with
      | .error => stopQp s n 3
      | r => (hostAsk s x.act.fn (x.actSqb.toNat * 4096 + 64 * x.sqh.toNat) 64).setQp n
          { x with fetched := some (x.sqh.setWidth 12, r), resv := x.resv + 1 })

/-- The next target core after the one chosen last (R463). -/
def nextTarget (last : Option CoreId) (l : List CoreId) : Option CoreId :=
  match last with
  | none => l.head?
  | some p =>
    match l.find? (fun c => decide (p < c)) with
    | some c => some c
    | none => l.head?

/-- The descriptor that Camwin gives its engine (R287, R463). -/
def camDesc (x : QueuePair) (n : QpId) (sqi : BitVec 12) (c : CoreId) : List W16 :=
  let src := BitVec.ofNat 64 (x.actSqb.toNat * 4096 + 64 * sqi.toNat) &&& 0x3FFFFFFFFFFFFFFF#64
  let w10 := (at64 x.act.mld.toNat 0 ||| at64 x.act.win.val 6 ||| bit64 true 10 ||| bit64 true 11).setWidth 16
  wordsOf src ++ [0, 0, 0, 0, 0, 64, w10, BitVec.ofNat 16 c.val, BitVec.ofNat 16 n.val, sqi.setWidth 16, 0, 0]

/-- SUBMISSION_RECEIVE: the entry goes with a descriptor to the engine, for the target core chosen (R463); a gated pair is
ungated for it (R284). -/
def execSubmissionReceive (n : QpId) (s : State) : Out :=
  let x := s.qp n
  match x.fetched, nextTarget x.lastCore (camTargets s x) with
  | some (sqi, r), some c =>
    if !s.camOn || !x.en || x.stop then .next s
    else
      let y := { x with
        fetched := none, lastCore := some c, sqh := BitVec.ofNat 13 ((x.sqh.toNat + 1) % x.sqn.toNat)
        subs := x.subs ++ [⟨sqi, c, false⟩] }
      .next (gateIdlePair (ungatePair ((s.setQp n y).modEng x.act.eng (fun e =>
        { e with work := e.work ++ [⟨n, sqi, c, r, camDesc x n sqi c, true⟩] })) x.act.eng) x.act.eng)
  | _, _ => .next s

/-! ### Completions and signals (R461, R464 to R466) -/

/-- CQ_CMPL: a core writes a completion. -/
def execCqCmpl (n : QpId) (v : W64) (s : State) : Out := .next (cqCmplWrite s n v)

/-- The 64 bytes of a CQ entry (R464). -/
def cqEntry (s : State) (n : QpId) (x : QueuePair) (c : Cmpl) : List Byte :=
  natBytesLE 8 c.seq.toNat ++ natBytesLE 2 c.sqi.toNat ++ [BitVec.ofNat 8 n.val, BitVec.ofBool x.ph ++ 0#3 ++ c.rc]
    ++ natBytesLE 2 x.sqh.toNat ++ [c.sst, if c.dev then 1 else 0] ++ natBytesLE 8 s.jnl.dur.toNat ++ List.replicate 40 0

/-- A signal is sent, if VE asks for it, and counting begins again (R466). -/
def sendSignal (s : State) (n : QpId) : State :=
  let x := s.qp n
  let s1 := s.setQp n { x with unsig := 0, firstUnsig := none }
  if x.act.ve then signalMsix s1 x.act.fn x.act.vec else s1

/-- A completion has been written: CQT and the phase move on, its reservation ends, and a signal may be due (R462, R464,
R466). -/
def cmplWritten (s : State) (n : QpId) : State :=
  let x := s.qp n
  let t := (x.cqt.toNat + 1) % x.cqn.toNat
  let s1 := s.setQp n { x with
    staged := x.staged.tail, cqt := BitVec.ofNat 13 t, ph := if t = 0 then !x.ph else x.ph, resv := x.resv - 1
    unsig := x.unsig + 1, firstUnsig := some (x.firstUnsig.getD s.now) }
  if max 1 x.ith.toNat ≤ x.unsig + 1 then sendSignal s1 n else s1

/-- COMPLETION_RELEASE: the first staged completion, once its level holds; a write that ends in an error stops the queue pair
and discards what is staged (R263, R464, R466, R468). -/
def execCompletionRelease (n : QpId) (ok : Bool) (s : State) : Out :=
  let x := s.qp n
  match x.staged with
  | [] => .next s
  | c :: _ =>
    .next (if !s.camRuns || !x.en || !s.host.cfg[x.act.fn].bme || !levelMet s.jnl x.act.ack c.seq then s
      else if ok then
        cmplWritten (s.send (.hostWrite x.act.fn (x.actCqb.toNat * 4096 + 64 * x.cqt.toNat) (cqEntry s n x c) false)) n
      else (stopQp s n 3).modQp n (fun x => { x with staged := [] }))

/-- CQ_SIGNAL_TIMER: ITT microseconds after the first completion since the last signal, while Camwin works (R375, R466). -/
def execCqSignalTimer (n : QpId) (s : State) : Out :=
  let x := s.qp n
  .next (match x.firstUnsig with
    | some t => if s.camOn && x.en && x.itt != 0#16 && x.unsig != 0 && decide (t + x.itt.toNat * 900 ≤ s.now) then sendSignal s n else s
    | none => s)

/-! ### MSI-X and Bus Master Enable (R458, R466, R468) -/

/-- Changes the configuration space of a function. -/
def State.modFn (s : State) (f : FnId) (g : FnCfg → FnCfg) : State :=
  { s with host := { s.host with cfg := s.host.cfg.set f (g s.host.cfg[f]) } }

/-- The pending vectors of a function that may be sent now are sent. -/
def flushMsix (s : State) (f : FnId) : State :=
  (List.range 128).foldl (fun s i =>
    let v := BitVec.ofNat 7 i
    if s.host.pba.get (pbaIdx f v) != 0#1 && s.host.cfg[f].msixEn && !msixMasked s f v && s.host.cfg[f].bme then
      sendMsix { s with host := { s.host with pba := s.host.pba.set (pbaIdx f v) 0#1 } } f v
    else s) s

/-- A doubleword of the MSI-X table is written; the mask bit is the only bit of doubleword 3. -/
def msixWrite (s : State) (f : FnId) (v : BitVec 7) (dw : Fin 4) (val : BitVec 32) : State :=
  let x := if dw = 3 then (val &&& 1#32) ^^^ 1#32 else val
  flushMsix { s with host := { s.host with msix := s.host.msix.set (msixIdx f v dw.val) x } } f

/-- MSIX_TABLE_WRITE: the host writes an entry through BAR2 of the function (R456). -/
def execMsixTableWrite (f : FnId) (v : BitVec 7) (dw : Fin 4) (val : BitVec 32) (s : State) : Out :=
  match s.reach f with
  | .ok => .next (msixWrite s f v dw val)
  | r => .next (refuseWrite s r)

/-- Configuration requests are answered: READY was reached, which halt-safe and the vendor state do not undo (R375, R453,
R480). -/
def State.answersConfig (s : State) : Bool :=
  match s.stw.bst with | .ready => true | .haltsafe => true | .vendor => true | _ => false

/-- A configuration request to a function: none comes without a link; the device answers it with Configuration Request Retry Status
until it is ready, and one to a function that is absent as an Unsupported Request (R453). -/
def configRequest (s : State) (f : FnId) (act : State → State) : State :=
  if !s.host.lup then s
  else if !s.answersConfig then s.send .cplRetry
  else if !s.hasFn f then s.send .cplUnsupported
  else act s

/-- BUS_MASTER_ENABLE: cleared while a fetch waits, it stops the owner's queue pairs; set, it lets pending vectors go (R458,
R466, R468). -/
def execBusMasterEnable (f : FnId) (v : Bool) (s : State) : Out :=
  .next (configRequest s f (fun s =>
    let s1 := s.modFn f (fun x => { x with bme := v })
    if v then flushMsix s1 f
    else
      (List.finRange 256).foldl (fun t n =>
        if (s.qp n).act.fn == f && (fetchDue s n || (s.qp n).fetched.isSome) then stopQp t n 4 else t) s1))

/-! ### Function and link resets (R468, R469) -/

/-- A queue pair of a function that is reset stops with WHY 0x4 and is disabled; core completions for it that come later are
dropped without OVF. -/
def flrQp (s : State) (n : QpId) : State :=
  let s1 := stopQp s n 4
  (disableQp (s1.modQp n (fun x => { x with sqn := 0, cqn := 0, flr := true })) n)

/-- A function's own registers after its reset: its configuration space, but for Max Payload Size, and its MSI-X table (R453). -/
def resetFn (s : State) (f : FnId) : State :=
  { s with host := { s.host with
    cfg := s.host.cfg.set f { FnCfg.reset with mps := s.host.cfg[f].mps }
    msix := s.host.msix.clearRange (512 * f.val) (512 * f.val + 512)
    pba := s.host.pba.clearRange (128 * f.val) (128 * f.val + 128) } }

/-- FLR_VF (R469). -/
def execFlrVf (f : FnId) (s : State) : Out :=
  if f = 0 then .next s
  else
    .next (configRequest s f (fun s => resetFn ((List.finRange 256).foldl (fun t n =>
      if (s.qp n).en && (s.qp n).act.fn == f then flrQp t n else t) s) f))

/-- A ring descriptor with a HOST address that has not ended ends with status 0x16 (R469). -/
def Engine.loseHost (x : Engine) : Engine :=
  match x.cur with
  | some r =>
    let d := descOf r.words
    if r.cam.isNone && r.ended.isNone && r.record.isNone && (skind d.src == .host || (!d.slot && skind d.dst == .host))
    then { x with cur := some { r with ended := some (0x16, 0) } } else x
  | none => x

/-- FLR_PF: every queue pair of every function; the drain stops; VF Enable is cleared (R469). -/
def execFlrPf (s : State) : Out :=
  .next (configRequest s 0 (fun s =>
    let s1 := (List.finRange 256).foldl (fun t n => if (s.qp n).en then flrQp t n else t) s
    let s2 := (List.finRange 16).foldl resetFn s1
    { s2 with
      jnl := { s2.jnl with hde := false }
      engines := s2.engines.map (fun (x : Engine) => x.loseHost)
      host := { s2.host with nvf := 0, vfBar := 0 } }))

/-- The link goes down: every queue pair stops (R468, R469, R470). -/
def linkFalls (s : State) : State :=
  if !s.host.lup then s
  else
    let s1 := { s with
      host := { s.host with lup := false, lw := 0, ls := 0, reads := [] }
      accs := s.accs.filter (fun x => x.who != .host) }
    hostEvent ((List.finRange 256).foldl (fun t n => if (s.qp n).en then stopQp t n 5 else t) s1) evLdn

/-- LINK_DOWN. -/
def execLinkDown (s : State) : Out := .next (linkFalls s)

/-- LINK_UP: a link of 4, 8 or 16 lanes at one of five speeds (R452, R469, R470). -/
def execLinkUp (width : BitVec 6) (speed : BitVec 4) (s : State) : Out :=
  let okW := width == 4#6 || width == 8#6 || width == 16#6
  let okS := decide (1 ≤ speed.toNat) && decide (speed.toNat ≤ 5)
  .next (if okW && okS && s.awake && s.pins.perstN then
      { s with host := { s.host with lup := true, lw := width, ls := speed } }
    else s)

/-- COMPLETION_TIMEOUT of a read of an engine's descriptor from a ring, or of a submission fetch (R289, R458, R468). -/
def execCompletionTimeout (e : Option EngId) (n : Option QpId) (s : State) : Out :=
  let s1 := match e with
    | some e =>
      (match (s.eng e).cur with
        | some r => if skind (descOf r.words).src == .host then s.modEng e Engine.loseHost else s
        | none => s)
    | none => s
  .next (match n with
    | some n => if fetchDue s1 n then stopQp s1 n 3 else s1
    | none => s1)

/-! ### Configuration space (R452, R453) -/

/-- The size of a BAR as the number of its address bits, and its type bits: a 64-bit memory BAR, BAR4 prefetchable (R454). -/
def barBits : BarNo → Nat
  | .bar0 => 26
  | .bar2 => 14
  | .bar4 => 25
/-- The base of a BAR that takes a value written: the bits within its size stay 0. -/
def barBase (b : BarNo) (v : W64) : W64 := (v >>> barBits b) <<< barBits b
/-- A BAR as it reads: its base, memory space of 64 bits, and whether it is prefetchable (R454). -/
def FnCfg.barReads (x : FnCfg) : BarNo → W64
  | .bar0 => x.bar0 ||| 4#64
  | .bar2 => x.bar2 ||| 4#64
  | .bar4 => x.bar4 ||| 0xC#64
/-- A BAR takes a value written. -/
def FnCfg.setBar (x : FnCfg) (b : BarNo) (v : W64) : FnCfg :=
  match b with
  | .bar0 => { x with bar0 := barBase b v }
  | .bar2 => { x with bar2 := barBase b v }
  | .bar4 => { x with bar4 := barBase b v }

/-- A register of a function's configuration space: the identity and command bits and the BARs that the spec gives, where PCIe
has them. A VF's own BARs read 0: their base stands with SR-IOV. -/
def configRead (s : State) (f : FnId) (reg : BitVec 12) : BitVec 32 :=
  let other := Config.configReg f.val reg.toNat
  let x := s.host.cfg[f]
  let bar := fun (b : BarNo) (hi : Bool) => if f = 0 then (x.barReads b).extractLsb' (if hi then 32 else 0) 32 else 0#32
  if reg = 0x000#12 then (if f = 0 then 0x0640#16 else 0x0641#16) ++ Config.vendorId
  else if reg = 0x004#12 then (other &&& 0xFFFFFFF9#32) ||| ((bit64 x.mse 1 ||| bit64 x.bme 2).setWidth 32)
  else if reg = 0x008#12 then 0x120000#24 ++ Config.revisionId
  else if reg = 0x010#12 then bar .bar0 false
  else if reg = 0x014#12 then bar .bar0 true
  else if reg = 0x018#12 then bar .bar2 false
  else if reg = 0x01C#12 then bar .bar2 true
  else if reg = 0x020#12 then bar .bar4 false
  else if reg = 0x024#12 then bar .bar4 true
  else other

/-- CONFIG_REQUEST: Configuration Request Retry Status until the device is ready. -/
def execConfigRequest (f : FnId) (r : CfgReq) (s : State) : Out :=
  .next (configRequest s f (fun s => match r with
    | .read reg => s.send (.cplConfig f reg (configRead s f reg))
    | .memSpace v => s.modFn f (fun x => { x with mse := v })
    | .bar b v => if f = 0 then s.modFn f (fun x => x.setBar b v) else s
    | .vfBar v => if f = 0 then { s with host := { s.host with vfBar := barBase .bar2 v } } else s
    | .payload v => s.modFn f (fun x => { x with mps := v })
    | .readReq v => s.modFn f (fun x => { x with mrrs := v })
    | .msix en m => flushMsix (s.modFn f (fun x => { x with msixEn := en, fnMask := m })) f
    | .vfEnable n =>
      if f = 0 then
        let s1 := ((List.finRange 16).filter (fun g => decide (n < g))).foldl resetFn s
        { s1 with host := { s1.host with nvf := BitVec.ofNat 4 n.val } }
      else s.send .cplUnsupported))

/-! ### BAR2 as it reads (R456) -/

/-- A doubleword of the BAR2 of function f: doorbells as accepted from their owner, the MSI-X table, the pending bits, and 0
elsewhere. The table has no command that reads BAR2. -/
def bar2Read (s : State) (f : FnId) (off : Nat) : BitVec 32 :=
  let bell := fun (n : Nat) (v : QueuePair → BitVec 13) =>
    if h : n < 256 then
      let x := s.qp ⟨n, h⟩
      if x.act.fn == f && off % 8 == 0 then (v x).setWidth 32 else 0#32
    else 0#32
  if off % 4 ≠ 0 then 0
  else if off < 0x800 then bell (off / 8) (fun x => x.sqt)
  else if off < 0x1000 then bell ((off - 0x800) / 8) (fun x => x.cqh)
  else if 0x2000 ≤ off ∧ off < 0x2800 then
    let v : BitVec 7 := BitVec.ofNat 7 ((off - 0x2000) / 16)
    let d := s.host.msix.get (msixIdx f v ((off - 0x2000) % 16 / 4))
    if off % 16 = 12 then (d &&& 1#32) ^^^ 1#32 else d
  else if 0x3000 ≤ off ∧ off < 0x3010 then
    (List.range 32).foldl (fun (a : BitVec 32) i =>
      let p := s.host.pba.get (pbaIdx f (BitVec.ofNat 7 ((off - 0x3000) * 8 + i)))
      if p = 0#1 then a else a ||| (1#32 <<< i)) 0#32
  else 0

/-! ### BAR4 (R457) -/

/-- The Vat lines that a run of BAR4 bytes touches. -/
def bar4Lines (off len : Nat) : List Nat := (List.range ((off % 64 + len + 63) / 64)).map (fun i => off / 64 + i)

/-- Byte b of the BAR4 window. -/
def bar4Byte (s : State) (b : Nat) : Byte :=
  let w := s.phys.get (vatBase + b / 2)
  if b % 2 = 0 then w.extractLsb' 8 8 else w.extractLsb' 0 8

/-- One line of a BAR4 read is served: its bytes, with the check of R214. -/
def bar4Line (s : State) (r : Bar4Read) (l : Nat) : State × Bar4Read :=
  let (s1, bad) := vatCheck s unitHost l
  let bytes := ((List.range 64).map (fun i => 64 * l + i)).filter (fun b => decide (r.off ≤ b) && decide (b < r.off + r.len))
  (s1, { r with
    todo := r.todo.filter (fun x => x != l), bad := r.bad || bad
    data := bytes.foldl (fun (m : Cells 8) b => m.set b (bar4Byte s1 b)) r.data })

/-- The lines of a BAR4 read that nothing holds are served, each as one request in age order (R17, R246, R457). -/
def bar4Lines1 (r : Bar4Read) (s : State) : State × Bar4Read :=
  r.todo.foldl (fun (p : State × Bar4Read) l =>
    if p.1.blocked ⟨r.cycle, srcPcie, r.ord, r.ord⟩ (vatBase / 32 + l) then p else bar4Line p.1 p.2 l) (s, r)

/-- The BAR4 reads that wait are served as far as they can be; one with all its lines completes, with EP where a line could not be
trusted (R457). -/
def bar4Serve (s : State) : State :=
  s.host.reads.foldl (fun s r0 =>
    let (s1, r) := bar4Lines1 r0 s
    let rest := s1.host.reads.filter (fun x => x.ord != r.ord)
    if r.todo.isEmpty then
      ({ s1 with host := { s1.host with reads := rest } }).send (.cplData (r.data.read r.off r.len) r.bad)
    else
      { s1 with host := { s1.host with reads := s1.host.reads.map (fun x => if x.ord == r.ord then r else x) } }) s

/-- BAR4_READ: its requests enter the mesh, and are served now or as lines are unlocked (R17, R246, R457). -/
def execBar4Read (off len : Nat) (s : State) : Out :=
  match s.reach 0 with
  | .ok =>
    if !s.host.b4e || decide (0x2000000 < off + len) then .next (s.send .cplUnsupported)
    else
      let r : Bar4Read := { off := off, len := len, cycle := s.now, ord := s.stamp, todo := bar4Lines off len, bad := false, data := [] }
      .next (bar4Serve { s.stamped with host := { s.host with reads := s.host.reads ++ [r] } })
  | r => .next (refuseRead s r)

/-- BAR4_WRITE: discarded and reported as an Unsupported Request (R457). -/
def execBar4Write (_off : Nat) (_bytes : List Byte) (s : State) : Out :=
  match s.reach 0 with
  | .ok => .next (s.send .aerUnsupported)
  | r => .next (refuseWrite s r)

end Sys2Proof.Machine
end

