-- ==== Sys2Proof/Machine/Returns.lean ====
section
/-! DEFINITION. The return from an exception, trap or interrupt (R352), and the re-issue of a stopped DSU operation (R181,
R182, R400). -/
namespace Sys2Proof.Machine

/-- What re-issuing the operation of DKTL comes to. -/
inductive Reissue where
  | none
  /-- the entry slot holds no ENTRY (R390, R401) -/
  | vacant (xad : BitVec 40)
  | go (k : Core)
  | fault (cause : BitVec 8) (xad : BitVec 40)
deriving DecidableEq, Repr

/-- Re-issues the operation that DKTL.OP and DKTL.MOD name when ST is 0x1; IA is unchanged (R181). -/
def reissueDsu (s : State) (c : CoreId) (k : Core) : Reissue :=
  let t := k.dk.tl
  if t.st ≠ 1#4 then .none
  else
    match dsuProg (s.quire (coreQuire c)).image t.op t.md with
    | Option.none => .vacant (t.ia.setWidth 40)
    | some p =>
      match p.check k with
      | some (cause, xad) => .fault cause xad
      | Option.none => .go (dsuStart s c k t.op t.md t.ia)

/-- A fault of the re-issued instruction: the X set keeps XPC, XRS, XDS and XLP as they were before the XRET, and XMS holds the MS
that the XRET has written (R71, R182). -/
def Core.reissueFault (k : Core) (x : XSet) (cause : BitVec 8) (xad : BitVec 40) : Core :=
  let t := k.enterX cause x.xpc xad 0 (if x.xds then some x.xtgt else none) x.xlp true
  { t with sys := { t.sys with x := { t.sys.x with xms := { k.settle.sys with mode := k.sys.mode, ie := k.sys.ie }.ms } } }

/-- XRET (R352). The MS that it restores stands over a SETMS that falls due with it (R71). -/
def execXret (c : CoreId) (s : State) : Out :=
  issue s c (.xret c) ⟨true, true⟩ (fun s k =>
    let x := k.sys.x
    if x.xrs && k.dsuBusy then .hold
    else
      let k1 := { k with fl := x.xfl, sys := { k.sys with mode := x.xms.getLsbD 0, ie := x.xms.getLsbD 1 } }
      let own := wrMs (x.xms.getLsbD 0) (x.xms.getLsbD 1)
      let nx : Next :=
        if x.xds then .slotAt x.xpc ⟨x.xtgt, k.pc, .none, some (k.sys.mode, k.sys.ie)⟩ else .jump x.xpc
      if x.xrs then
        let fault := fun (cause : BitVec 8) (xad : BitVec 40) => match k.fpAtEntry with
          | some r => Res.left s (k.enterFloat r)
          | none => .left s (k1.reissueFault x cause xad)
        match reissueDsu s c k1 with
        | .none => .done s k1 own nx
        | .vacant xad => fault 0x01 xad
        | .go k2 => .done s.stamped k2 own nx
        | .fault cause xad => fault cause xad
      else .done s k1 own nx)

end Sys2Proof.Machine
end

