-- ==== Sys2Proof/Machine/CoreEvents.lean ====
section
/-!
DEFINITION. Events at a core's boundary: traps, interrupts, machine checks, checkstop and reload; the warden's delivery,
timer, mailbox and gating (12_exceptions_interrupts.md R342 to R373; R22, R23, R513).
-/
namespace Sys2Proof.Machine

/-! ### Entries at a boundary (R345, R359, R364) -/

/-- The core executes and stands at an interruptible boundary: not between a branch and its slot, nor in the wait of FBAR, nor
inside a customer instruction that has written (R359, R386). -/
def State.interruptible (s : State) (c : CoreId) : Bool :=
  let k := s.core c
  s.runs c && k.branch.isNone && k.micro.isNone && !k.ctl.fbWait

/-- The same, and no quiesce holds the core there (R400). -/
def State.openBoundary (s : State) (c : CoreId) : Bool :=
  s.interruptible c && !(s.quire (coreQuire c)).quiesced

/-- DECIMAL_OVERFLOW_TRAP (R151, R364). -/
def execDecimalOverflowTrap (c : CoreId) (s : State) : Out :=
  let k := s.core c
  match k.ovf with
  | some a =>
    if s.openBoundary c && k.ctl.asyncMc.isEmpty then
      .next (s.setCore c { k.enterX 0x15 k.pc (a.setWidth 40) 0 none false false with ovf := none, fpDue := [] })
    else .next s
  | none => .next s

/-- FLOATING_TRAP: the oldest request, once one is due (R206, R207, R364). -/
def execFloatingTrap (c : CoreId) (s : State) : Out :=
  let k := s.core c
  if s.openBoundary c && k.ctl.asyncMc.isEmpty && k.ovf.isNone && !k.fpDue.isEmpty then
    match k.fpAtEntry with
    | some r => .next (s.setCore c (k.enterFloat r))
    | none => .next s
  else .next s

/-- A stop is requested of an outstanding DSU instruction (R178). -/
def Core.stopDsu (k : Core) : Core :=
  k.modLong .dsu (fun o => match o.op with
    | .dsu x md ia svc _ run => { o with op := .dsu x md ia svc true run }
    | _ => o)

/-- The interrupt that the core would take: the highest pending level at or above IPL.MIN while IE is 1 (R358). -/
def interruptLevel (s : State) (c : CoreId) : Option (BitVec 3) :=
  let k := s.core c
  match topSrc (pendingSrcs s c) with
  | some x => if k.sys.ie && decide (k.irq.ipl.toNat ≤ x.lvl.toNat) then some x.lvl else none
  | none => none

/-- Entry for an interrupt at a level: a walk that the instruction waits for goes on in the background, and a DSU
instruction is stopped (R178, R348, R358, R359). -/
def Core.enterInterrupt (k : Core) (lvl : BitVec 3) : Core :=
  let k1 := { k with ctl := { k.ctl with walkBg := match k.ctl.need with | some w => some w | none => k.ctl.walkBg } }
  (k1.enterX (0x20#8 + lvl.setWidth 8) k.pc 0 0 none k.atLoopEnd k.dsuBusy).stopDsu

/-- INTERRUPT_ENTRY: at an interruptible boundary, after the other events of R364; a floating request that completes at the
entry is reported first (R208, R209). -/
def execInterruptEntry (c : CoreId) (s : State) : Out :=
  let k := s.core c
  if s.openBoundary c && s.atBoundary c then
    match interruptLevel s c, k.fpAtEntry with
    | some _, some r => .next (s.setCore c (k.enterFloat r))
    | some lvl, none => .next (s.setCore c (k.enterInterrupt lvl))
    | none, _ => .next s
  else .next s

/-! ### Machine checks (R365 to R371) -/

/-- An asynchronous machine check waits for the next interruptible boundary of its core (R367). -/
def Core.queueMc (k : Core) (m : MCause) : Core := { k with ctl := { k.ctl with asyncMc := k.ctl.asyncMc ++ [m] } }

/-- MACHINE_CHECK: an asynchronous one that waits is taken at the next interruptible boundary, before every other event of
R364 and, while a quiesce runs, before the core stops (R404); a core-state error waits for that boundary in the same way;
control-store parity stops the core for its reload; any other cause is synchronous at the instruction at the pc. The level
of a walk's error is open here. -/
def execMachineCheck (c : CoreId) (m : MCause) (s : State) : Out :=
  let k := s.core c
  if k.ctl.asyncMc.contains m then
    if s.interruptible c then
      .next (machineCheckAt (s.modCore c (fun k => { k with ctl := { k.ctl with asyncMc := k.ctl.asyncMc.erase m } })) c m 0 false)
    else .next s
  else
    match m with
    | .coreState =>
      if s.interruptible c then .next (machineCheckAt s c m 0 false)
      else .next (if k.ctl.run && !k.ctl.cks && !k.ctl.iso then s.setCore c (k.queueMc m) else s)
    | .csParity => .next (if s.canTake c then s.modCore c (fun k => { k with ctl := { k.ctl with reload := some false } }) else s)
    | .walkData => .next (if s.canTake c then machineCheckAt s.drawn c m (s.free.setWidth 2) true else s)
    | _ => .next (if s.canTake c then machineCheckAt s c m 0 true else s)

/-- CHECKSTOP: a machine check raised while MCIP is 1 (R371, R372). -/
def execCheckstop (c : CoreId) (s : State) : Out :=
  let k := s.core c
  .next (if k.ctl.run && !k.ctl.cks && !k.ctl.iso && k.sys.m.mcip then checkstopCore s c else s)

/-- A reload that fails verification: the core checkstops, and the failure is one fatal fault (R369, R374). -/
def reloadFailed (s : State) (c : CoreId) : State := detectFatal (stopCore s c) (.reload c)

/-- CONTROL_STORE_RELOAD: after a parity error of a pipe instruction, the Steward reloads the stores and the core takes
cause 0x33; after one of a DSU microword, the DSU instruction has delivered with ST 0x1, at the word that was read with wrong
parity or, for an error that the outside brings, before an open number of units, and the cause is taken asynchronously (R369,
R370). -/
def execControlStoreReload (c : CoreId) (dsu ok : Bool) (s : State) : Out :=
  let k := s.core c
  if dsu then
    let reloaded := fun (s : State) => if ok then s else reloadFailed s c
    if k.ctl.reload = some true then
      .next (reloaded (s.setCore c ({ k with ctl := { k.ctl with reload := none } }.queueMc .csParity)))
    else
    match k.long? .dsu with
    | some { op := .dsu x md ia svc _ run, .. } =>
      if k.discards || !k.ctl.run || k.ctl.reload.isSome then .next s
      else
        let left := dsuAll k.dk
        match dsuEndAt (s.quire (coreQuire c)).image k x md ia svc run (some (if left = 0 then 0 else s.free.toNat % left)) with
        | some k1 =>
          .next (reloaded (s.drawn.setCore c ({ k1 with ctl := { k1.ctl with reload := none } }.queueMc .csParity)))
        | none => .next s
    | _ => .next s
  else if k.ctl.reload = some false || s.canTake c then
    let s1 := s.modCore c (fun k => { k with ctl := { k.ctl with reload := none } })
    .next (if ok then machineCheckAt s1 c .csParity 0 true else reloadFailed s1 c)
  else .next s

/-! ### The warden (R353 to R362) -/

/-- INT_SOURCE_EVENT (R355, R570); a gated warden takes none (R19). -/
def execIntSourceEvent (q : QuireId) (i : BitVec 6) (s : State) : Out :=
  .next (if s.spineRuns then sourceEvent s q ⟨i.toNat, by omega⟩ else s)

/-- The cores of a quire that a route may deliver to (R355). -/
def eligible (s : State) (q : QuireId) (r : Route) : List (Fin 8) :=
  (List.finRange 8).filter (fun i =>
    let t := (s.core (coreOf q i)).ctl
    r.cores.getLsbD i.val && !t.cks && !t.iso)
/-- The next of some cores after the one that received last, wrapping; the first after reset starts from 0 (R355). -/
def nextAfter (last : Option (Fin 8)) (l : List (Fin 8)) : Option (Fin 8) :=
  match last with
  | none => l.head?
  | some p =>
    match l.find? (fun i => decide (p < i)) with
    | some i => some i
    | none => l.head?

/-- A source reaches a core: its IPND bit, and the Steward's messages that go with it (R355, R570). -/
def giveSource (s : State) (c : CoreId) (i : Nat) (msgs : List (BitVec 56)) : State :=
  let s1 := s.modCore c (fun k => { k with irq := { k.irq with ipnd := k.irq.ipnd ||| (1#64 <<< i) } })
  msgs.foldl (fun s m => mailboxPut s c 0x80 m) s1

/-- INT_DELIVER (R355). -/
def execIntDeliver (q : QuireId) (i : BitVec 6) (s : State) : Out :=
  let x := s.quire q
  let n : Fin 64 := ⟨i.toNat, by omega⟩
  let r := x.routes[n]
  let es := eligible s q r
  let cores := if r.one then (nextAfter r.last es).toList else es
  if !r.pnd || !r.en || cores.isEmpty || !s.spineRuns then .next s
  else
    let r1 := { r with pnd := false, msgs := [], last := if r.one then cores.head? else r.last }
    .next (cores.foldl (fun s j => giveSource s (coreOf q j) i.toNat r.msgs)
      (s.setQuire q { x with routes := x.routes.set n r1 }))

/-- A write of INT_SET: sources 48 to 63 (R354). -/
def intSetWrite (s : State) (q : QuireId) (v : W64) : State :=
  ((List.finRange 64).filter (fun i => decide (48 ≤ i.val) && v.getLsbD i.val)).foldl (fun s i => raiseIn s q i none) s

/-- INT_SET. -/
def execIntSet (q : QuireId) (v : W64) (s : State) : Out :=
  .next (anyCommand s (some q) (fun s => intSetWrite s q v))

/-- TIMER_MATCH (R361). -/
def execTimerMatch (c : CoreId) (s : State) : Out :=
  .next (if s.spineRuns then s.modCore c (fun k => { k with irq := k.irq.timerCheck s.tmr }) else s)

/-- The sender byte of a message (R362). -/
def senderOf : Accessor → BitVec 8
  | .core c => BitVec.ofNat 8 c.val
  | .steward => 0x80
  | .host => 0x81

/-- MBX_SEND (R362). -/
def execMbxSend (who : Accessor) (c : CoreId) (v : W64) (s : State) : Out :=
  .next (portCommand s (who == .host) (some (coreQuire c)) (fun s => mailboxPut s c (senderOf who) (v.setWidth 56)))

/-! ### Gating (R363, R400, R513) -/

/-- The warden gates a core: it stops at its next boundary; a DSU instruction is stopped at a unit boundary and re-issued
later (R400, R513). -/
def Core.gate (k : Core) (noWake : Bool) : Core :=
  let k1 := if k.dsuBusy then k.stopDsu else k
  { k1 with ctl := { k1.ctl with
      gated := true, noWake := noWake, woken := false, dlv := false, dsuStopped := k1.ctl.dsuStopped || k.dsuBusy } }

/-- A DSU instruction that a gating or a quiesce stopped goes on: re-issued by R181 once it has delivered, or not stopped
after all. A fault of the re-issue is taken at the core's boundary with XRS 1, so that its return re-issues again (R182, R400);
an empty slot re-issues nothing (R401), and neither does a core that is checkstopped or isolated (R23, R372). One that an interrupt had stopped before the gating goes on here too, in the mode then
in force, and does not wait for the XRET (both DESIGN CHOICE, notes/assumptions/170.md). -/
def resumeDsu (s : State) (c : CoreId) : State :=
  let k := s.core c
  if !k.ctl.dsuStopped || k.discards then s
  else
    let k1 := { k with ctl := { k.ctl with dsuStopped := false } }
    if k.dsuBusy then
      s.setCore c (k1.modLong .dsu (fun o => match o.op with
        | .dsu x md ia svc _ run => { o with op := .dsu x md ia svc false run }
        | _ => o))
    else
      match reissueDsu s c k1 with
      | .go k2 => s.stamped.setCore c k2
      | .fault cause xad => s.setCore c (k1.enterX cause k1.pc xad 0 none k1.atLoopEnd true)
      | _ => s.setCore c k1

/-- The warden ungates a core: recorded broadcasts apply first (R338, R363, R513). -/
def ungateCore (s : State) (c : CoreId) (woken : Bool) : State :=
  let k := (s.core c).ungate
  resumeDsu (s.setCore c { k with ctl := { k.ctl with noWake := false, woken := woken, dlv := false, stallSince := none } }) c

/-- A source is pending at level WLVL or above (R363, R513). -/
def pendingAtWlvl (s : State) (c : CoreId) : Bool :=
  (pendingSrcs s c).any (fun x => decide ((s.core c).ctl.wlvl.toNat ≤ x.lvl.toNat))

/-- Such a source wakes the core: WEN is 1 (R363). -/
def wakeDue (s : State) (c : CoreId) : Bool := (s.core c).ctl.wen && pendingAtWlvl s c

/-- CORE_WAKE (R363, R513). -/
def execCoreWake (c : CoreId) (s : State) : Out :=
  let t := (s.core c).ctl
  .next (if s.spineRuns && t.gated && !t.noWake && !(s.quire (coreQuire c)).quiesced && (wakeDue s c || t.dlv) then ungateCore s c true else s)

/-- The power state gates the cores of a quire (R510, R513). -/
def gatesQuire (p : Power) (q : QuireId) : Bool :=
  match p.st with
  | .run => false
  | .trim => p.gq.getLsbD q.val
  | _ => true

/-- CORE_REGATE: a woken core that has been stalled on a long op, LWAIT or VFENCE for GT us with nothing pending at WLVL is
gated again (R513). -/
def execCoreRegate (c : CoreId) (s : State) : Out :=
  let k := s.core c
  let gt := s.pwr.gt.toNat
  let waited := match k.ctl.stallSince with
    | some t => decide (t + gt * 900 ≤ s.now) && k.ctl.opStall
    | none => false
  .next (if k.ctl.woken && !k.ctl.gated && gatesQuire s.pwr (coreQuire c) && gt != 0 && waited && !pendingAtWlvl s c && s.openBoundary c
    then s.setCore c (k.gate false) else s)

/-! ### Core reset and a failed warden (R22 to R24, R373) -/

/-- Nothing that the core issued is still on its way (R372). -/
def Core.quiet (k : Core) : Bool :=
  k.pushq.isEmpty && k.outq.isEmpty && k.sbuf.all SbEntry.isLoc
    && k.longs.all (fun o => o.res.isSome || (match o.op with | .dsu _ _ _ _ _ _ => true | .calc => true | _ => false))

/-- The core as reset leaves it, with its RAMs and what the warden keeps of CORE_CTL (R30, R373). -/
def Core.resetKeep (k : Core) (dir : DirCfg) : Core :=
  { Core.reset with
    loc := k.loc, locBad := k.locBad, locOne := k.locOne, iram := k.iram, iramBad := k.iramBad, dir := dir
    ctl := { Ctl.reset with wen := k.ctl.wen, wlvl := k.ctl.wlvl, run := true } }

/-- A core that its reset releases while the power state gates its quire comes out gated (R19, R510). -/
def Core.gatedBy (k : Core) (p : Power) (q : QuireId) : Core :=
  if gatesQuire p q then { k with ctl := { k.ctl with gated := true } } else k

/-- A reset that CORE_CTL.RST asked for takes place once the core's outstanding requests are done (R372, R373); in halt-safe every core
stays stopped (R375). -/
def settleReset (s : State) (c : CoreId) : State :=
  let k := s.core c
  if k.ctl.rstDue && k.ctl.cks && !k.ctl.iso && k.quiet && !s.stw.hsf then s.setCore c ((k.resetKeep s.dir).gatedBy s.pwr (coreQuire c)) else s

/-- A write of CORE_CTL.RST: ignored while CKS is 0, by an isolated core and in halt-safe (R24, R373, R375). -/
def coreRst (s : State) (c : CoreId) : State :=
  let k := s.core c
  if k.ctl.cks && !k.ctl.iso && !s.stw.hsf then settleReset (s.setCore c { k with ctl := { k.ctl with rstDue := true } }) c else s

/-- CORE_RESET. -/
def execCoreReset (c : CoreId) (s : State) : Out :=
  .next (anyCommand s (some (coreQuire c)) (fun s => coreRst s c))

/-- A core of a failed warden is isolated: it stops as a checkstopped core does (R23). -/
def isolateCore (s : State) (c : CoreId) : State :=
  coreStops (s.modCore c (fun k =>
    { k with micro := none, branch := none, ctl := { k.ctl.proceed with iso := true, run := false, reload := none } })) c

/-- WARDEN_FAILED, of a warden that is clocked: the quire's cores are isolated, its engines halt, the Camwin queues bound to them stop (R22, R23). -/
def execWardenFailed (q : QuireId) (s : State) : Out :=
  if (s.quire q).failed || !s.spineRuns then .next s
  else
    let s1 := (List.finRange 8).foldl (fun s i => isolateCore s (coreOf q i)) s
    let s2 := { s1 with quires := s1.quires.map (fun (x : Quire) =>
      { x with shoot := { x.shoot with waiting := x.shoot.waiting.filter (fun t => t != ShootTarget.quire q) } }) }
    let s3 := s2.setQuire q { s2.quire q with failed := true }
    let s4 := (List.finRange 16).foldl (fun s e =>
      if engQuire e = q then s.modEng e (fun x => { x with halt := true }) else s) s3
    let s5 := (List.finRange 256).foldl (fun s n =>
      if (s.qp n).en && engQuire (s.qp n).act.eng == q then stopQp s n 2 else s) s4
    .next (detectFatal s5 (.warden q))

end Sys2Proof.Machine
end

