-- ==== Sys2Proof/Machine/Ring.lean ====
section
/-!
DEFINITION. The ring's commands: joining and leaving, HELLO and CENSUS, keys, calibration, lost ports and relocks
(15_pliry_ring.md R433 to R450).
-/
namespace Sys2Proof.Machine

/-! ### The pins and RING_CTL (R443, R446, R448) -/

/-- RING_JEN_SET: a write of port 0x50_0000, which Dormant discards (R448, R516). -/
def execRingJenSet (s : State) : Out := .next (anyCommand s none jenSet)
/-- RING_JEN_CLEAR. -/
def execRingJenClear (s : State) : Out := .next (anyCommand s none (fun s => if s.ring.jen then jenClear s else s))
/-- RING_RJR (R443). -/
def execRingRjr (s : State) : Out := .next (anyCommand s none (fun s => s.modRing (fun g => { g with rjn := 0 })))
/-- RING_EN_LOW: the bypass closes and the device is in OFF; LEFT stays (R446, R448). -/
def execRingEnLow (s : State) : Out :=
  let s1 := { s with pins := { s.pins with ringEn := false } }
  .next (match s.ring.st with
    | .off => s1
    | .left => s1
    | _ => leaveOff s1 whyRingEn)
/-- RING_EN_HIGH. -/
def execRingEnHigh (s : State) : Out := .next (tryListen { s with pins := { s.pins with ringEn := true } })

/-! ### Lanes (R442, R448) -/

/-- In LISTEN, 1 ms of clean traffic counts from the moment at which both ports are locked. -/
def lockChanged (s : State) : State :=
  s.modRing (fun g =>
    if g.st == .listen then
      { g with clean := if g.pa.locked && g.pb.locked then some (g.clean.getD s.now) else none }
    else g)

/-- LANES_LOCKED: a port's receive lanes lock and align. -/
def execLanesLocked (p : RPort) (s : State) : Out :=
  .next (lockChanged (s.modRp p (fun r => { r with lk := 0xF, algn := true })))
/-- LOSS_OF_LOCK: a port's receive lanes lose lock and alignment. -/
def execLossOfLock (p : RPort) (s : State) : Out :=
  .next (lockChanged (s.modRp p (fun r => { r with lk := 0, algn := false })))

/-- RELOCK: the lanes of a port lock again; the relock is counted unless the port was lost, and HELLO is sent again
(R442). -/
def execRelock (p : RPort) (s : State) : Out :=
  .next (if s.ring.byp || !s.ring.st.talks then s
    else
      sendHello (s.modRp p (fun r => { r with lk := 0xF, algn := true, rlk := if r.lost.isNone then sat16 r.rlk else r.rlk }))
        p false false)

/-- A port becomes lost: 100 us without a valid sheet, or 16 tags in a row that fail (R442). -/
def portLostDue (s : State) (p : RPort) : Bool :=
  let r := s.rp p
  !s.ring.byp && r.lost.isNone && (decide (r.lastRx + 90000 ≤ s.now) || decide (16 ≤ r.tagRun))

/-- The number by which a log entry names a ring port (R491 gives the source field no numbering of ports:
DESIGN CHOICE, log 159). -/
def portNumber : RPort → BitVec 16
  | .a => 0
  | .b => 1

/-- PORT_LOST: a lost port A ends replication; the Steward raises source 43 (R442). -/
def execPortLost (p : RPort) (s : State) : Out :=
  if !portLostDue s p then .next s
  else
    let s1 := s.modRp p (fun r => { r with up := false, hello := false, lost := some s.now, tagRun := 0 })
    let s2 := if p == .a then updateRep s1 else s1
    .next (raiseAll (logEvent s2 .portLost (portNumber p)) 43 (some (stwMsg 0x02 0)))

/-- A port has stayed lost for LVT milliseconds (R443). -/
def RingPort.lostFor (r : RingPort) (now ms : Nat) : Bool :=
  match r.lost with
  | some t => decide (t + ms * 900000 ≤ now)
  | none => false

/-- RING_LEAVE (R443). -/
def execRingLeave (s : State) : Out :=
  let g := s.ring
  let ms := g.lvt.toNat
  .next (if !g.byp && (g.pa.lostFor s.now ms || g.pb.lostFor s.now ms) then leaveRetry s whyLost else s)

/-! ### Joining (R448) -/

/-- LISTEN is over: POS x 100 us after 1 ms of clean traffic, or 2 ms and POS x 1 ms after entry. -/
def insertDue (s : State) : Bool :=
  let g := s.ring
  g.st == .listen &&
    ((match g.clean with
      | some t => decide (t + 900000 + g.pos.toNat * 90000 ≤ s.now)
      | none => false) || decide (g.since + 1800000 + g.pos.toNat * 900000 ≤ s.now))

/-- A port as its bypass opens: the lanes relock, and encryption takes effect (R444, R446). -/
def RingPort.inserted (r : RingPort) (enc : Bool) (now : Nat) : RingPort :=
  { r.down with lk := 0, algn := false, enc := enc, lastRx := now, lastTx := now }

/-- RING_INSERT: the bypass opens. -/
def execRingInsert (s : State) : Out :=
  .next (if insertDue s then
      (enterRing s .insert).modRing (fun g => { g with
        byp := false, pa := g.pa.inserted g.enca s.now, pb := g.pb.inserted g.encb s.now })
    else s)

/-- Both ports have exchanged HELLO in state HELLO: the census begins. -/
def helloDone (s : State) : State :=
  if s.ring.st == .hello && s.ring.pa.hello && s.ring.pb.hello then startCensus (enterRing s .census) else s

/-- INSERT is over: both ports are aligned. The rule gives INSERT no other way out (R448, notes/assumptions/156.md). -/
def helloDue (s : State) : Bool := s.ring.st == .insert && s.ring.pa.locked && s.ring.pb.locked

/-- RING_HELLO_START: HELLO on both ports. -/
def execRingHelloStart (s : State) : Out :=
  .next (if helloDue s then
      helloDone (sendHello (sendHello (enterRing s .hello) .a false false) .b false false)
    else s)

/-- HELLO_TIMEOUT: 1 ms without both exchanges. -/
def execHelloTimeout (s : State) : Out :=
  .next (if s.ring.st == .hello && decide (s.ring.since + 900000 ≤ s.now) then leaveRetry s whyHello else s)

/-! ### HELLO (R433, R442, R448, R449) -/

/-- What a HELLO carries. -/
structure HelloMsg where
  serial : W64
  pos : BitVec 4
  enc : Bool
  reply : Bool
  acc : Bool
  dur : W64
deriving DecidableEq, Repr

/-- Reads the payload of a HELLO (R433). -/
def helloOf (ws : List W16) : HelloMsg :=
  let w := ws.getD 4 0
  { serial := quadOf (ws.take 4), pos := w.extractLsb' 0 4, enc := w.getLsbD 4, reply := w.getLsbD 5, acc := w.getLsbD 6
    dur := quadOf ((ws.drop 8).take 4) }

/-- The neighbours' encryption settings differ: they do not come up, and a device that is joining leaves (R444, R448). -/
def encMismatch (s : State) (p : RPort) : State :=
  let s1 := updateRep ((s.modRing (fun g => { g with encm := true })).modRp p (fun r => { r with up := false, nKnown := false, hello := false }))
  match s.ring.st with
  | .hello => leaveRetry s1 whyEnc
  | _ => s1

/-- After a relock with an unchanged serial number, whichever end saw it, sending begins again from JNL_REPL + 1 (R442). -/
def sendAgain (s : State) : State :=
  if s.jnl.rep && decide (s.jnl.repl.toNat + 1 < s.jnl.sendPos.toNat) then
    { s with jnl := s.jnl.sendFrom (s.jnl.repl + 1#64) s.now }
  else s

/-- A HELLO at port A: its sender is the successor, which accepts this device when a reply says so (R442, R449). -/
def helloAtA (s : State) (m : HelloMsg) (same : Bool) : State :=
  let s1 := if same then s else updateRep (s.modRing (fun g => { g with acc := false }))
  if !m.reply then updateRep (sendHello (if same then sendAgain s1 else s1) .a true false)
  else updateRep ((if same && m.acc then sendAgain s1 else s1).modRing (fun g => { g with acc := m.acc }))

/-- A HELLO at port B: its sender is the predecessor, whose JNL_DUR it brings and which may become the mirror source; one that is
the source keeps E over a relock (R258, R266, R437, R442, R449). -/
def helloAtB (s : State) (m : HelloMsg) (same : Bool) : State :=
  let s1 := heardDur s m.dur
  let s2 := if same && s.jnl.mv then askFreed s1 else heardDur (acceptSource s1) m.dur
  if m.reply then s2 else sendHello s2 .b true (sourceOk s2)

/-- A device takes a HELLO at a port. -/
def takeHello (s : State) (p : RPort) (m : HelloMsg) : State :=
  let r := s.rp p
  let same := r.nKnown && r.nSerial == m.serial
  if m.enc != r.enc then encMismatch s p
  else
    let s1 := s.modRp p (fun r => { r with
      nPos := m.pos, nSerial := m.serial, nKnown := true, up := true, hello := true, lost := none })
    let s2 := match p with
      | .a => helloAtA s1 m same
      | .b => helloAtB s1 m same
    if s.ring.st == .joined && !same then startCensus s2 else helloDone s2

/-- A HELLO whose blocks are those of the other encryption setting, with a good CRC: its header is in clear, and the settings
differ (R444). -/
def helloInOtherForm (s : State) (p : RPort) (bs : List Block) : Bool :=
  match bs with
  | [] => false
  | b :: rest =>
    let h := Hdr.ofBits b.bits
    let n := if (s.rp p).enc then 17 else 19
    let tr := ((rest.drop 16).map (·.bits)).headD 0#64
    let low : BitVec 32 := tr.setWidth 32
    b.sync == 2#2 && isControlCode 1 h && h.p && rest.length == n && rest.all (fun x => x.sync == 1#2)
      && crcOf (b.bits :: (rest.take 16).map (·.bits) ++ [low.setWidth 64]) == tr.extractLsb' 32 32

/-- HELLO at a port, from HELLO on; in INSERT the transmitters send no sheets, and a HELLO is only heard (R448). -/
def execHello (p : RPort) (sheet : List Block) (s : State) : Out :=
  let active := s.ring.st.talks
  if s.ringHears && !s.ring.byp && active && helloInOtherForm s p sheet then .next (encMismatch s p)
  else
    onSheet s p sheet (isControlCode 1) (fun s h ws => if h.p && active then takeHello s p (helloOf ws) else s)

/-! ### CENSUS (R448) -/

/-- Two members of a list with different serial numbers hold the same position. -/
def censusDup : List (BitVec 4 × BitVec 56) → Bool
  | [] => false
  | e :: rest => rest.any (fun x => x.1 == e.1 && x.2 != e.2) || censusDup rest

/-- The device's own census has come back: it takes the list, and joins or leaves. -/
def takeCensus (s : State) (l : List (BitVec 4 × BitVec 56)) : State :=
  let dup := censusDup l
  let s1 := s.modRing (fun g => { g with
    censusSent := false, members := l, nmem := BitVec.ofNat 5 l.length, dup := g.dup || dup })
  if s.ring.st != .census then s1
  else if dup then leaveRetry s1 whyDup
  else updateRep (raiseAll (logEvent (enterRing s1 .joined) .ringJoin noSource) 43 (some (stwMsg 0x01 0)))

/-- CENSUS at port B: its own comes back, or the device adds its entry and forwards it; a census that it has already forwarded has
been round the ring and goes no further. -/
def execCensus (sheet : List Block) (s : State) : Out :=
  onSheet s .b sheet (isControlCode 2) (fun s h ws =>
    let l := censusList ws
    if !h.p || !s.ring.st.talks then s
    else if h.src == s.ring.pos && l.contains (ownEntry s) then (if s.ring.censusSent then takeCensus s l else s)
    else if l.contains (ownEntry s) then s
    else sendCensus s h.src (l ++ [ownEntry s]))

/-! ### Keys and keepalive (R434, R444) -/

/-- KEYSW: the receiver switches to the key slot named and counts from 0 again. -/
def execKeysw (p : RPort) (sheet : List Block) (s : State) : Out :=
  onSheet s p sheet (isControlCode 5) (fun s h _ =>
    let k := h.sseq.toNat % 4
    if hk : k < 2 then
      s.modRp p (fun r => { r with rxSlot := ⟨k, hk⟩, rx := r.rx.set k { r.rx[k] with count := 0 } })
    else s)

/-- KEEPALIVE: a port that has sent nothing for 1 us sends one. -/
def execKeepalive (p : RPort) (s : State) : Out :=
  .next (if s.ring.st.talks && s.awake && decide ((s.rp p).lastTx + 900 ≤ s.now) then sendSheet s p 3 s.ring.pos 0 0 none
    else s)

/-! ### Calibration (R445) -/

/-- One of the trim steps -1, 0 and +1, chosen by a value that the spec leaves open. -/
def trimStep (v : Nat) : Byte := if v % 3 = 0 then 0 else if v % 3 = 1 then 1 else 0xFF
/-- The payload of a calibration sheet: the trims for the other end, which are open, and this end's margins. -/
def calWords (trims : W64) (mrg : BitVec 32) : List W16 :=
  (List.range 4).map (fun l => trimStep (fieldN trims (16 * l + 8) 8) ++ trimStep (fieldN trims (16 * l) 8))
    ++ (List.range 4).map (fun l => (mrg.extractLsb' (8 * l) 8).setWidth 16)

/-- Sends one calibration sheet. -/
def sendCal (s : State) (p : RPort) : State :=
  sendSheet s.drawn p 4 s.ring.pos 0 0 (some (calWords s.free (s.rp p).mrg))

/-- CALENDER_SLOT: each 1 ms of TMR_NOW, while the bypass is open and no power failure runs, 2 calibration sheets. -/
def execCalenderSlot (p : RPort) (s : State) : Out :=
  if s.ring.byp || !s.ring.st.talks || s.jnl.pf || !s.awake || s.tmr == 0#64 || s.tmr.toNat % 900000 != 0 || (s.rp p).calAt == s.tmr
  then .next s
  else
    let s1 := s.drawn.modRp p (fun r => { r with calAt := s.tmr, mrg := s.free.setWidth 32 })
    .next ((sendCal (sendCal s1 p) p).modRp p (fun r => { r with slots := r.slots + 1#32 }))

/-- The trims of a calibration sheet added to a transmitter's, byte by byte. -/
def addTrims (t : W64) (ws : List W16) : W64 :=
  (List.range 4).foldl (fun (acc : W64) l =>
    let w := ws.getD l 0
    let hi := t.extractLsb' (16 * l + 8) 8 + w.extractLsb' 8 8
    let lo := t.extractLsb' (16 * l) 8 + w.extractLsb' 0 8
    acc ||| at64 (hi ++ lo : BitVec 16).toNat (16 * l)) 0#64

/-- CALIBRATION_SHEET: the transmitter applies the trims; the margins of the other end are kept. -/
def execCalibrationSheet (p : RPort) (sheet : List Block) (s : State) : Out :=
  onSheet s p sheet (isType 4) (fun s h ws =>
    if !h.p then s
    else s.modRp p (fun r => { r with
      trim := addTrims r.trim ws
      txEye := (List.range 4).foldl (fun (acc : BitVec 32) l => acc ||| ((ws.getD (4 + l) 0).setWidth 8).setWidth 32 <<< (8 * l)) 0#32 }))

end Sys2Proof.Machine
end

