-- ==== Sys2Proof/Machine/Steward.lean ====
section
/-!
DEFINITION. Fatal faults and halt-safe (12_exceptions_interrupts.md R374, R375), the Steward's watchdog and its persistent
log (17_steward_security.md R471, R475, R491).
-/
namespace Sys2Proof.Machine

/-! ### Halt-safe (R375) -/

/-- The bypass closes and the ring is OFF, without a LEAVE and without using an attempt (R375, R443, R446). -/
def haltRing (s : State) : State :=
  match s.ring.st with
  | .off => s
  | .left => s
  | _ => leaveOff s whyHaltSafe

/-- Every core stops as at a checkstop; what its long ops bring is discarded (R372, R375). -/
def haltCores (s : State) : State :=
  (List.finRange 64).foldl (fun s c =>
    coreStops (s.modCore c (fun k =>
      { k with micro := none, branch := none, ctl := { k.ctl.proceed with cks := true, run := false, reload := none, rstDue := false } })) c) s

/-- Every stream engine halts. -/
def haltEngines (s : State) : State := { s with engines := s.engines.map (fun (e : Engine) => { e with halt := true }) }

/-- The source that a log entry names for a fatal fault (R491). -/
def faultSource : FatalKind → BitVec 16
  | .checkstop c => BitVec.ofNat 16 c.val
  | .warden q => BitVec.ofNat 16 q.val
  | .reload c => BitVec.ofNat 16 c.val
  | _ => noSource

/-- Fatal faults are logged, and the new C is signed with the watermark key unless the fuses did not read (R480, R491, R492). -/
def logFaults (s : State) (fs : List FatalKind) : State :=
  if fs.isEmpty then s
  else
    let s1 := fs.foldl (fun s k => logEvent s .fatal (faultSource k)) s
    { s1 with stw := { s1.stw with
        fatalSig := if s1.stw.bfc = 4#8 then none else some (s1.stw.chain, Config.watermarkSign s1.stw.chain) } }

/-- The device enters halt-safe (R375, R489, R490); the faults that were still to be handled are logged, and C signed (R491,
R492). -/
def haltSafe (s : State) : State :=
  if s.stw.hsf then s
  else
    let s1 := haltEngines (haltCores (haltRing (logFaults s s.stw.faults)))
    let s2 := { s1 with
      jnl := { s1.jnl with frz := true }
      hbm := { s1.hbm with cal := false }
      stw := { s1.stw with bst := .haltsafe, hsf := true, alrt := true } }
    (logEvent s2 .haltSafe noSource).send .errFatal

/-! ### Fatal faults (R374) -/

/-- A second fatal fault while one is handled puts the device in halt-safe (R374). -/
def secondFault (s : State) : State := if 2 ≤ s.stw.faults.length then haltSafe s else s

/-- A machine check of the Steward: a fatal fault, or halt-safe while it handles one (R374). -/
def stewardCheck (s : State) : State :=
  if s.stw.hsf || !s.awake then s
  else secondFault (detectFatal s .steward)

/-- The Steward has handled a fatal fault: it is logged, C is signed, and the host interrupted (R374, R492). -/
def fatalHandled (s : State) (k : FatalKind) : State :=
  let s1 := interruptHost (logFaults s [k])
  let fs := s1.stw.faults.erase k
  { s1 with stw := { s1.stw with faults := fs, fat := !fs.isEmpty } }

/-- FATAL_FAULT: the Steward handles a fault that it has detected; a second one puts the device in halt-safe. Its own machine
check is detected here. -/
def execFatalFault (k : FatalKind) (s : State) : Out :=
  .next (if s.stw.hsf then s
    else if 2 ≤ s.stw.faults.length then haltSafe s
    else if s.stw.faults.contains k then fatalHandled s k
    else if k == .steward then stewardCheck s
    else s)

/-- STEWARD_WATCHDOG: its expiry is a machine check of the Steward (R471). -/
def execStewardWatchdog (s : State) : Out := .next (stewardCheck s)

/-! ### The persistent log (R475, R491) -/

/-- Where entry q lies in flash. -/
def logFlashAt (q : Nat) : Nat := 0x900000 + q % 65536 * 64

/-- LOG_FLUSH: the entries in RAM that are not in flash yet are copied; in a reset the SPI pins are idle (R544). -/
def execLogFlush (s : State) : Out :=
  if s.pins.phase != .running then .next s else
  let new := s.stw.log.filter (fun e => decide (s.stw.flushed.toNat ≤ e.seq.toNat))
  let fl := new.foldl (fun (m : Cells 8) e => m.write (logFlashAt e.seq.toNat) e.bytes) s.stw.flash
  .next { s with stw := { s.stw with flash := fl, flushed := s.stw.logNext } }

end Sys2Proof.Machine
end

