-- ==== Sys2Proof/Machine/Keys.lean ====
section
/-!
DEFINITION. What the Steward decides about keys: measurement registers (R482), signature blocks (R395, R473), owner keys
(R474), ring keys (R493), passwords (R496, R497) and the vendor unlock (R498, R499).
-/
namespace Sys2Proof.Machine

/-! ### Bytes, digests and measurements (R482) -/

/-- SHA-384 of bytes, as the spec names it. -/
def digestOf (bs : List Byte) : BitVec 384 := Config.sha384 bs
/-- A digest as 48 bytes. -/
def digestBytes (d : BitVec 384) : List Byte := natBytesBE 48 d.toNat
/-- Changes the Steward. -/
def State.modStw (s : State) (f : Steward → Steward) : State := { s with stw := f s.stw }
/-- Extends a measurement register by a digest (R482). -/
def extendMr (s : State) (i : Fin 8) (d : BitVec 384) : State :=
  s.modStw (fun w => { w with mr := w.mr.set i (digestOf (digestBytes w.mr[i] ++ digestBytes d)) })
/-- The event descriptor that MR6 is extended by (R482). -/
def eventBytes (s : State) (event : Byte) : List Byte :=
  [event] ++ natBytesBE 8 s.tmr.toNat ++ List.replicate 39 0

/-! ### Signature blocks (R395, R473) -/

/-- What the check of a signature block gives. -/
inductive SigRes where
  | ok (slot : Nat)
  | badKey
  | badSig
deriving DecidableEq, Repr

/-- Bit i of a set of slots. -/
def slotBit (v : BitVec 4) (i : Nat) : Bool := v.getLsbD i
/-- An owner key slot is programmed and not revoked. -/
def Fuses.valid (f : Fuses) (i : Nat) : Bool := slotBit f.prog i && !slotBit f.rev i
/-- The device is owned (R472). -/
def Fuses.owned (f : Fuses) : Bool := f.prog != 0#4

/-- Whether a 200-byte block is a Noward block that verifies over a digest (R395, R396). -/
def nowardOk (blk : List Byte) (d : BitVec 384) : Bool :=
  blk.length == 200 && blk.headD 0 == 1#8 && ((blk.drop 4).take 97).all (fun b => b == 0#8)
    && Config.ecdsaVerify Config.nowardKey d ((blk.drop 104).take 96)
/-- Whether a 200-byte block is an owner block that verifies over a digest under a valid key (R395, R473). -/
def ownerCheck (f : Fuses) (blk : List Byte) (d : BitVec 384) : SigRes :=
  let slot := ((blk.drop 1).headD 0).toNat
  let key := (blk.drop 4).take 97
  if blk.length ≠ 200 ∨ blk.headD 0 ≠ 2#8 then .badSig
  else if h : slot < 4 then
    (if !f.valid slot || digestOf key != f.hash[slot] then .badKey
     else if Config.ecdsaVerify key d ((blk.drop 104).take 96) then .ok slot
     else .badSig)
  else .badKey

/-! ### Statuses of management commands (R486) -/

/-- The statuses that a management command answers with. -/
def stDone : Byte := 0x00
def stMalformed : Byte := 0x01
def stPath : Byte := 0x02
def stSignature : Byte := 0x03
def stDelay : Byte := 0x04
def stLocked : Byte := 0x05
def stNoPassword : Byte := 0x06
def stBusy : Byte := 0x07
def stRefused : Byte := 0x08
def stExhausted : Byte := 0x09
def stUnsigned : Byte := 0x0A

/-! ### Owner keys (R474) -/

/-- The slot whose valid key signed a record, other than slot k. -/
def signedByOther (f : Fuses) (signer : Option (List Byte)) (d : BitVec 384) (k : Nat) : Option Byte :=
  match signer with
  | none => some stSignature
  | some blk =>
    match ownerCheck f blk d with
    | .ok i => if i = k then some stSignature else none
    | _ => some stSignature

/-- OWNER_KEY: the record is accepted, or refused with no fuse changed. -/
def ownerKeyAct (s : State) (r : OwnerKeyRecord) : State × Byte :=
  let f := s.stw.fuses
  let d := digestOf (Config.ownerKeyBytes r)
  let put := fun (f : Fuses) => (logEvent (s.modStw (fun w => { w with fuses := f })) .ownerKey noSource, stDone)
  match r with
  | .program k h signer =>
    if slotBit f.prog k then (s, if f.hash[k] = h then stDone else stRefused)
    else if h = 0 then (s, stRefused)
    else
      let f1 := { f with hash := f.hash.set k h, prog := f.prog ||| (1#4 <<< k.val) }
      if !f.owned then put f1
      else
        match signedByOther f signer d k with
        | some st => (s, st)
        | none => put f1
  | .revoke k signer =>
    if slotBit f.rev k then (s, stDone)
    else if !slotBit f.prog k then (s, stRefused)
    else
      match signedByOther f signer d k with
      | some st => (s, st)
      | none =>
        if (List.range 4).any (fun i => i != k.val && f.valid i) then put { f with rev := f.rev ||| (1#4 <<< k.val) }
        else (s, stRefused)

/-! ### Ring keys (R444, R493) -/

/-- Installs a ring key; after a transmit key with SW the port sends KEYSW and uses its slot from then on. -/
def installRingKey (s : State) (r : RingKeyRecord) (key : BitVec 256) : State :=
  let slot : KeySlot := ⟨some key, r.salt, 0⟩
  let s1 := extendMr s 5 (digestOf (Config.ringKeyBytes r))
  if r.tx then
    let s2 := s1.modRp r.port (fun p => { p with tx := p.tx.set r.slot slot })
    if r.sw && s2.ringTalks then
      (sendControl s2 r.port 5 (BitVec.ofNat 40 r.slot.val) none).modRp r.port (fun p => { p with txSlot := r.slot })
    else s2
  else s1.modRp r.port (fun p => { p with rx := p.rx.set r.slot slot })

/-- What the Steward makes of a ring key record. -/
def ringKeyAct (s : State) (r : RingKeyRecord) : State × Byte :=
  let p := s.rp r.port
  match ownerCheck s.stw.fuses r.signer (digestOf (Config.ringKeyBytes r)), Config.unsealRingKey r.ephemeral r.sealedKey with
  | .ok _, some key =>
    if r.serial ≠ s.serial then (s, stRefused)
    else if r.tx && p.enc && p.txSlot == r.slot then (s, stRefused)
    else (installRingKey s r key, stDone)
  | .ok _, none => (s, stRefused)
  | _, _ => (s, stSignature)

/-! ### The debug password (R496, R497) -/

/-- The delay after the n-th failure in a row, in mesh cycles: 0.5 s x 2^(n - 1). -/
def passwordDelay (n : Nat) : Nat := 450000000 * 2 ^ (n - 1)

/-- An attempt with a password. -/
def passwordAct (s : State) (pw : List Byte) : State × Byte :=
  let w := s.stw
  match w.cfg.hash with
  | none => (s, stNoPassword)
  | some h =>
    if w.plk then (s, stLocked)
    else if s.now < w.pwUntil then (s, stDelay)
    else if digestOf (w.cfg.salt ++ [BitVec.ofNat 8 pw.length] ++ pw) = h then
      let s1 := s.modStw (fun w => { w with pwf := 0, dbg := if w.dbg = 2#2 then 2 else 1 })
      (logEvent (extendMr s1 6 (digestOf (eventBytes s 1))) .debugOpen noSource, stDone)
    else
      let n := w.pwf.toNat + 1
      let s1 := s.modStw (fun w => { w with
        pwf := BitVec.ofNat 4 n, plk := decide (10 ≤ n), pwUntil := if n < 10 then s.now + passwordDelay n else w.pwUntil })
      (logEvent s1 .password noSource, stRefused)

/-- Customer debug closes (R486, R495). -/
def debugLock (s : State) : State := s.modStw (fun w => { w with dbg := if w.dbg = 1#2 then 0 else w.dbg })

/-! ### Vendor unlock (R498, R499) -/

/-- STW_FUSE.UNL. -/
def Fuses.unl (f : Fuses) : BitVec 5 := BitVec.ofNat 5 f.unlocks

/-- A fresh challenge, or none with 16 unlocks counted. -/
def vendorChallenge (s : State) : State × Option (List Byte) :=
  if 16 ≤ s.stw.fuses.unlocks then (s, none)
  else
    let n := Config.randomNonce s.stw.challenges
    (s.modStw (fun w => { w with nonce := some n, challenges := w.challenges + 1 }),
      some (digestBytes n ++ natBytesBE 8 s.serial.toNat ++ [s.stw.fuses.unl.setWidth 8]))

/-- A value as n bytes. -/
def bvBytes {w : Nat} (n : Nat) (v : BitVec w) : List Byte := natBytesBE n v.toNat

/-- The erase marker in flash (R475, R499). -/
def eraseMarker : Nat := 0x810000

/-- An image without its customer area, its parity and its digest to be made anew (R397). -/
def Image.unloaded (g : Image) : Image :=
  { g with
    dispatch := g.dispatch.clearRange 0xE0 0xF0, micro := g.micro.clearFrom 3072, nano := g.nano.clearFrom 448
    dsu := g.dsu.clearFrom 1536 }

/-- The stores of a quire laid end to end, 26,368 bytes (R398). -/
def imageBytes (g : Image) : List Byte :=
  (g.dispatch.read 0 256).flatMap (bvBytes 3) ++ (g.micro.read 0 4096).flatMap (bvBytes 3)
    ++ (g.nano.read 0 512).flatMap (bvBytes 14) ++ (g.dsu.read 0 2048).flatMap (bvBytes 3)
/-- An image with its digest. -/
def Image.sealed (g : Image) : Image := { g with digest := digestOf (imageBytes g) }

/-- An image with the parity bits of all its words, which the Steward computes when it writes them (R392). -/
def Image.paired (g : Image) : Image :=
  let of := fun (store n : Nat) => (List.range n).flatMap (fun i => parityBits store i (g.word store i))
  { g with parity := (of 1 256 ++ of 2 4096 ++ of 3 512 ++ of 4 2048).foldl (fun m x => m.set x.1 x.2) [] }

/-- Everything that the erasure of R499 clears: memories, local RAMs, the owner configuration, and the other owner values in the
Steward's RAM: the password record with its count of failures, the customer areas of the images kept and of a load, the
in-band buffer (DESIGN CHOICE, notes/assumptions/177.md: what counts as an owner value). -/
def eraseOwner (s : State) : State :=
  let keyless := fun (p : RingPort) => { p with tx := Vector.replicate 2 KeySlot.empty, rx := Vector.replicate 2 KeySlot.empty }
  { s with
    phys := [], vatMark := [], hbmEcc := [], jnlMark := [], keys := [], keyMark := [], reports := [], waits := []
    cores := s.cores.map (fun k => { k with loc := [], locBad := [], locOne := [], iram := [], iramBad := [], sbuf := k.sbuf.filter (fun e => !e.isLoc) })
    ring := { s.ring with pa := keyless s.ring.pa, pb := keyless s.ring.pb }
    quires := s.quires.map (fun (q : Quire) =>
      { q with image := Image.sealed (Image.paired { q.image.unloaded with custId := 0, custVer := 0 }) })
    stw := { s.stw with
      flash := s.stw.flash.clearRange 0x800000 0x810000, cfg := OwnerCfg.none, mcOcs := false, pwf := 0, plk := false, pwUntil := 0
      buf := [], cmdLen := 0, rlen := 0, mcTodo := [], mcGo := false, mcBusy := false, mcDigest := 0 } }

/-- Steps 3 to 6 of R499: erasure, the count, MR6, the log, and the erase marker cleared. -/
def vendorErase (s : State) : State :=
  let s1 := (eraseOwner s).modStw (fun w => { w with fuses := { w.fuses with unlocks := min 16 (w.fuses.unlocks + 1) } })
  (logEvent (extendMr s1 6 (digestOf (eventBytes s 2))) .vendorUnlock noSource).modStw (fun w =>
    { w with flash := w.flash.clearRange eraseMarker (eraseMarker + 4096) })

/-- An accepted response: postings stop, LEAVE goes out and the bypass closes, streams and Camwin halt, the owner's data are
erased, and the vendor state is entered (R499). -/
def vendorUnlock (s : State) : State :=
  let s1 := s.modStw (fun w => { w with flash := w.flash.set eraseMarker 1#8 })
  let s2 := { s1 with jnl := { s1.jnl with pen := false } }
  let s3 := if s2.ring.byp then s2 else sendControl (sendControl s2 .a 6 0 none) .b 6 0 none
  let s4 := haltEngines (haltRing s3)
  (vendorErase s4).modStw (fun w => { w with bst := .vendor, dbg := 2, nonce := none })

/-- A response to the challenge: valid once. -/
def vendorResponse (s : State) (sig : List Byte) : State × Byte :=
  match s.stw.nonce with
  | none => (s, stRefused)
  | some n =>
    let d := digestOf (digestBytes n ++ natBytesBE 8 s.serial.toNat ++ [s.stw.fuses.unl.setWidth 8])
    if Config.ecdsaVerify Config.debugAuthorityKey d sig then (vendorUnlock s, stDone)
    else (s.modStw (fun w => { w with nonce := none }), stSignature)

end Sys2Proof.Machine
end

