-- ==== Sys2Proof/Machine/Load.lean ====
section
/-!
DEFINITION. Control-store images and their loading: bundles, the Steward's checks and the run of a load (13_control_store.md
R376, R384, R391 to R405).
-/
namespace Sys2Proof.Machine

/-! ### Images as bytes (R398) -/

/-- Words of n bytes from a run of bytes into a store from index i on. -/
def putWords {w : Nat} (m : Cells w) (i n : Nat) (bs : List Byte) : (count : Nat) → Cells w
  | 0 => m
  | c + 1 => putWords (m.set i (BitVec.ofNat w (beNat (bs.take n)))) (i + 1) n (bs.drop n) c
/-- The image that a base microcode image holds (R398, R476). -/
def imageOfBytes (bs : List Byte) : Image :=
  Image.sealed (Image.paired
    { dispatch := putWords [] 0 3 bs 256, micro := putWords [] 0 3 (bs.drop 768) 4096
      nano := putWords [] 0 14 (bs.drop 13056) 512, dsu := putWords [] 0 3 (bs.drop 20224) 2048
      parity := [], base := Config.baseVersion bs, patch := 0, custId := 0, custVer := 0, digest := 0 })

/-! ### Bundles (R394) -/

/-- A number in bytes i to i + n - 1. -/
def numAt (bs : List Byte) (i n : Nat) : Nat := beNat ((bs.drop i).take n)

/-- One word that a section gives: its store (1 dispatch, 2 microstore, 3 nano-store, 4 DSU store), index and value. -/
structure SecWord where
  store : Nat
  idx : Nat
  val : BitVec 112
deriving DecidableEq, Repr

/-- The words of a store, and the bytes of one in a section (R376, R394). -/
def storeWords (store : Nat) : Nat := match store with | 1 => 256 | 2 => 4096 | 3 => 512 | _ => 2048
def storeBytes (store : Nat) : Nat := match store with | 1 => 4 | 3 => 14 | _ => 3

/-- The words of a section's data. A dispatch entry names its own opcode. -/
def secWords (store first : Nat) (bs : List Byte) : (count : Nat) → List SecWord
  | 0 => []
  | c + 1 =>
    let n := storeBytes store
    let w : SecWord :=
      if store = 1 then ⟨1, numAt bs 0 1, BitVec.ofNat 112 (numAt bs 1 3)⟩ else ⟨store, first, BitVec.ofNat 112 (numAt bs 0 n)⟩
    w :: secWords store (first + 1) (bs.drop n) c

/-- The words of n sections that fill a run of bytes exactly; none where one is malformed. -/
def sections : (n : Nat) → List Byte → Option (List SecWord)
  | 0, bs => if bs.isEmpty then some [] else none
  | n + 1, bs =>
    let store := numAt bs 0 1
    let first := numAt bs 2 2
    let count := numAt bs 4 2
    let len := count * storeBytes store
    let pad := (4 - len % 4) % 4
    let data := bs.drop 8
    if bs.length < 8 ∨ store = 0 ∨ 4 < store ∨ numAt bs 1 1 ≠ 0 ∨ numAt bs 6 2 ≠ 0 ∨ data.length < len + pad
        ∨ (store ≠ 1 ∧ storeWords store < first + count) ∨ ((data.drop len).take pad).any (fun b => b != 0#8) then none
    else (sections n (data.drop (len + pad))).map (fun ws => secWords store first data count ++ ws)

/-- A bundle. -/
structure Bundle where
  customer : Bool
  base : W16
  patch : W16
  custId : W16
  custVer : W16
  mask : BitVec 8
  words : List SecWord
  noward : Option (List Byte)
  owner : Option (List Byte)
  digest : BitVec 384

/-- Reads a bundle by its header, sections and signature blocks; none where it is malformed (R394, R395). -/
def bundleOf (bs : List Byte) : Option Bundle :=
  let typ := numAt bs 6 1
  let sg := numAt bs 7 1
  let nb := sg % 2 + sg / 2 % 2
  let len := numAt bs 20 4
  let body := len - 200 * nb
  let block := fun (i : Nat) => ((bs.drop (body + 200 * i)).take 200)
  let zero := fun (i n : Nat) => ((bs.drop i).take n).all (fun b => b == 0#8)
  let okType := if typ = 1 then zero 12 4 && zero 16 1 else typ == 2 && zero 10 2
  if bs.length < 64 ∨ (bs.take 4 ≠ [0x4B#8, 0x4C, 0x4D, 0x43]) ∨ numAt bs 4 2 ≠ 1 ∨ !okType ∨ 3 < sg ∨ nb = 0 ∨ !zero 17 1 ∨ !zero 24 40
      ∨ len < 64 + 200 * nb ∨ bs.length ≠ len then none
  else
    (sections (numAt bs 18 2) ((bs.take body).drop 64)).map (fun ws =>
      { customer := typ == 2, base := BitVec.ofNat 16 (numAt bs 8 2), patch := BitVec.ofNat 16 (numAt bs 10 2)
        custId := BitVec.ofNat 16 (numAt bs 12 2), custVer := BitVec.ofNat 16 (numAt bs 14 2)
        mask := BitVec.ofNat 8 (numAt bs 16 1), words := ws
        noward := if sg % 2 = 1 then some (block 0) else none
        owner := if 2 ≤ sg then some (block (nb - 1)) else none
        digest := digestOf (bs.take body) })

/-- A word of a section lies in the customer area (R376). -/
def SecWord.inCustomer (w : SecWord) : Bool :=
  match w.store with
  | 1 => decide (0xE0 ≤ w.idx) && decide (w.idx ≤ 0xEF)
  | 2 => decide (3072 ≤ w.idx)
  | 3 => decide (448 ≤ w.idx)
  | _ => decide (1536 ≤ w.idx)

/-- Writes a word into an image. -/
def Image.put (g : Image) (w : SecWord) : Image :=
  match w.store with
  | 1 => { g with dispatch := g.dispatch.set w.idx (w.val.setWidth 24) }
  | 2 => { g with micro := g.micro.set w.idx (w.val.setWidth 24) }
  | 3 => { g with nano := g.nano.set w.idx w.val }
  | _ => { g with dsu := g.dsu.set w.idx (w.val.setWidth 24) }
/-- The image that a bundle makes of another; identifier and version read 0 where it unloads the customer area (R66, R397). -/
def Bundle.apply (b : Bundle) (g : Image) : Image :=
  let g1 := b.words.foldl Image.put (if b.customer then g.unloaded else g)
  let ver := if b.custId = 0#16 then 0 else b.custVer
  Image.sealed (Image.paired (if b.customer then { g1 with custId := b.custId, custVer := ver } else { g1 with patch := b.patch }))

/-! ### The rules of R384 and R391 -/

/-- R384: at most one result besides the ALU's, at most one store-buffer entry, no write of MS, KRR or LRB. A DST of 5 to 8
words and a DQST make two entries (R82, R192). -/
def nanoOk (w : BitVec 112) : Bool :=
  let n := nanoOf w
  let load := decide (1 ≤ n.mem) && decide (n.mem ≤ 5)
  let store := decide (6 ≤ n.mem) && decide (n.mem ≤ 8)
  let dst := n.dec == 0x0F
  let dqst := n.fp == 0x3B
  let results := [load, n.port == 1, n.long != 0, n.dec != 0 && !dst, n.fp != 0 && !dqst].filter id
  let entries := (if store then 1 else 0) + (if dst then (if 4 ≤ fieldN n.lit 0 3 then 2 else 1) else 0)
    + (if dqst then 2 else 0) + (if n.long == 2 then 1 else 0)
  decide (results.length ≤ 1) && decide (entries ≤ 1) && !(n.dst == 6 && decide (0xD ≤ n.xr))

/-- A DSU slot of the customer area (R388). -/
def isDsuSlot (a : Nat) : Bool := (decide (1545 ≤ a) && decide (a ≤ 1551)) || (decide (1561 ≤ a) && decide (a ≤ 1567))
/-- DOP of a DSU word (R387). -/
def dopOf (w : BitVec 24) : Nat := fieldN w 19 5
/-- A slot holds ENTRY for an operation. -/
def slotLoaded (g : Image) (op : Nat) (md : Bool) : Bool :=
  dopOf (g.dsu.get (1536 + (if md then 16 else 0) + op)) == 1

/-- A target of a customer microword at an address (R391, rule 2). -/
def microTarget (own t : Nat) : Bool := decide (3072 ≤ t) && decide (t < 4096) && decide (own < t)
/-- Rule 2 for a customer microword. -/
def microOk (g : Image) (a : Nat) : Bool :=
  let w := g.micro.get a
  let nano := fieldN w 0 9
  let nx := fieldN w 9 12
  decide (448 ≤ nano) &&
    (match fieldN w 21 3 with
      | 1 => microTarget a nx
      | 2 => microTarget a (a / 256 * 256 + fieldN w 9 8)
      | 3 => (List.range 16).all (fun i => microTarget a (nx / 16 * 16 + i))
      | 5 =>
        let op := fieldN w 9 4
        decide (9 ≤ op) && decide (fieldN w 15 6 = 0) &&
          (match fieldN w 13 2 with
            | 0 => slotLoaded g op false
            | 1 => slotLoaded g op true
            | 2 => slotLoaded g op false && slotLoaded g op true
            | _ => false)
      | 6 =>
        let cause := fieldN w 9 8
        (cause == 1 || cause == 2 || cause == 0x13) && fieldN w 17 4 == 0
      | 7 => false
      | _ => true)

/-- Rule 3: every path from a microword ends within a number of microwords. -/
def microEnds (g : Image) (a : Nat) : Nat → Bool
  | 0 => false
  | n + 1 =>
    if a < 3072 ∨ 4095 < a then false
    else
      let w := g.micro.get a
      let nx := fieldN w 9 12
      match fieldN w 21 3 with
      | 0 => microEnds g (a + 1) n
      | 1 => microEnds g nx n
      | 2 => microEnds g (a / 256 * 256 + fieldN w 9 8) n && microEnds g (a + 1) n
      | 3 => (List.range 16).all (fun i => microEnds g (nx / 16 * 16 + i) n)
      | 7 => false
      | _ => true

/-- A target of a DSU word (R391, rule 5). -/
def dsuTarget (t : Nat) : Bool := decide (1536 ≤ t) && decide (t < 2048) && !isDsuSlot t
/-- Rule 5 for a word of the customer DSU area. -/
def dsuOk (g : Image) (a : Nat) : Bool :=
  let w := g.dsu.get a
  let d := dopOf w
  if isDsuSlot a then d == 0 || (d == 1 && dsuTarget (fieldN w 0 11))
  else
    d != 1 && d != 0x10 && d != 0x11 && (!(d == 2 || d == 3) || dsuTarget (fieldN w 0 11))
      && (d != 0x12 || [0, 2, 3, 4, 5, 6].contains (fieldN w 0 4))

/-- An ESTEP that repeats until the pattern is used up ends the operation: no word follows it (R387). -/
def dsuRepeats (w : BitVec 24) : Bool := dopOf w == 0x0F && w.getLsbD 2

/-- Rule 6: every path from a DSU word reaches END or a word with B = 1 within a number of words. -/
def dsuReaches (g : Image) (a : Nat) : Nat → Bool
  | 0 => false
  | n + 1 =>
    let w := g.dsu.get a
    let d := dopOf w
    if d = 0x12 ∨ dsuRepeats w then true
    else if d = 0 ∨ d = 1 ∨ d = 0x0D ∨ 0x13 ≤ d ∨ 2047 < a then false
    else if w.getLsbD 18 then true
    else if d = 2 then dsuReaches g (fieldN w 0 11) n
    else if d = 3 then dsuReaches g (fieldN w 0 11) n && dsuReaches g (a + 1) n
    else dsuReaches g (a + 1) n
/-- Rule 6 from a word with B = 1: on every path after it. -/
def dsuAfter (g : Image) (a : Nat) : Bool :=
  let w := g.dsu.get a
  let d := dopOf w
  if !w.getLsbD 18 || d == 0x12 || dsuRepeats w || d == 0 || d == 1 then true
  else if d = 2 then dsuReaches g (fieldN w 0 11) 60
  else if d = 3 then dsuReaches g (fieldN w 0 11) 60 && dsuReaches g (a + 1) 60
  else dsuReaches g (a + 1) 60

/-- The customer words that a bundle gives a store. -/
def Bundle.given (b : Bundle) (store : Nat) : List Nat := (b.words.filter (fun w => w.store == store)).map (·.idx)

/-- Rules 1 to 6 of R391 for the image that a customer bundle makes. -/
def customerOk (b : Bundle) (g : Image) : Bool :=
  let entries := (List.range 16).map (fun i => g.entry (0xE0 + i))
  let live := entries.filter (fun e => fieldN e 12 2 != 0)
  live.all (fun e => decide (3072 ≤ fieldN e 0 12)) && (b.given 2).all (microOk g)
    && live.all (fun e => microEnds g (fieldN e 0 12) 128)
    && (b.given 3).all (fun i =>
      let w := g.nano.get i
      (w.extractLsb' 76 36 == 0#36) && fieldN w 32 6 != 0x10 && fieldN w 32 6 != 0x11)
    && ((List.range 512).map (· + 1536)).all (fun a =>
      dsuOk g a && (!isDsuSlot a || dopOf (g.dsu.get a) != 1 || dsuReaches g (fieldN (g.dsu.get a) 0 11) 60) && (isDsuSlot a || dsuAfter g a))

/-- The rules that an image made by a bundle must obey. -/
def rulesOk (b : Bundle) (g : Image) : Bool :=
  (b.given 3).all (fun i => nanoOk (g.nano.get i)) && (!b.customer || customerOk b g)

/-! ### The checks of a bundle (R396, R399) -/

/-- The quires that a bundle would change: its mask and MC_CTL.QM, without those of a failed warden. -/
def bundleQuires (s : State) (b : Bundle) : List QuireId :=
  (List.finRange 8).filter (fun q => (b.mask == 0#8 || b.mask.getLsbD q.val) && s.stw.mcQm.getLsbD q.val && !(s.quire q).failed)

/-- The owner block of a bundle. -/
def ownerErr (s : State) (b : Bundle) : Option (BitVec 8) :=
  match b.owner with
  | none => some 0x02
  | some blk =>
    match ownerCheck s.stw.fuses blk b.digest with
    | .ok _ => none
    | .badKey => some 0x03
    | .badSig => some 0x02

/-- The checks of R394 to R396 in the order of their codes: the first that fails, or the new image of each quire. -/
def bundleCheck (s : State) (bs : List Byte) : Except (BitVec 8) (Bundle × List (QuireId × Image)) :=
  match bundleOf bs with
  | none => .error 0x01
  | some b =>
    let qs := bundleQuires s b
    let all := (List.finRange 8).map (fun q => (s.quire q).image)
    let sig : Option (BitVec 8) :=
      if b.customer then ownerErr s b
      else
        match b.noward with
        | none => some 0x02
        | some blk =>
          if !nowardOk blk b.digest then some 0x02
          else if !s.stw.mcOcs then none
          else if b.owner.isNone then some 0x07
          else ownerErr s b
    let higher :=
      if b.customer then
          qs.all (fun q => (s.quire q).image.custId != b.custId || decide ((s.quire q).image.custVer.toNat < b.custVer.toNat))
      else all.all (fun g => decide (g.patch.toNat < b.patch.toNat))
    let images := qs.map (fun q => (q, b.apply (s.quire q).image))
    if b.words.any (fun w => w.inCustomer != b.customer) || (b.customer && b.custId == 0#16 && !b.words.isEmpty) then .error 0x01
    else
      match sig with
      | some e => .error e
      | none =>
        if all.any (fun g => g.base != b.base) then .error 0x04
        else if !higher then .error 0x05
        else if images.any (fun x => !rulesOk b x.2) then .error 0x06
        else .ok (b, images)

/-! ### A load (R400 to R404) -/

/-- The bursts of n bytes from an HBM word address. -/
def bundleBursts (a n : Nat) : List Nat := (List.range ((a % 16 + (n + 1) / 2 + 15) / 16)).map (fun i => a / 16 + i)

/-- The length in bytes of a bundle in HBM, as its header gives it: no less than the header (R394). -/
def bundleLen (s : State) (a : Nat) : Nat := max 64 (numAt (bytesOfWords (s.seen a 32)) 20 4)

/-- Reads bursts one after another, each as one read with its effects (R413); it stops at the first that cannot be trusted. -/
def readBursts (s : State) : List Nat → State × Bool
  | [] => (s, true)
  | b :: rest =>
    match hbmRead s b with
    | (s1, true) => (s1, false)
    | (s1, false) => readBursts s1 rest

/-- The first line of a bundle whose read must wait (R17, R421). -/
def bundleHeld (s : State) (a : Nat) : Option Nat :=
  if a + 32 ≤ hbmWords s.part ∧ a + (bundleLen s a + 1) / 2 ≤ hbmWords s.part then
    ((bundleBursts a (bundleLen s a)).find? (fun b => s.mustWait srcSteward (16 * b))).map (fun b => lineOf (16 * b))
  else none

/-- The bytes of a bundle in HBM: none where they leave the HBM or a burst cannot be trusted. -/
def bundleFromHbm (s : State) (a : Nat) : State × Option (List Byte) :=
  let n := bundleLen s a
  if hbmWords s.part < a + 32 then (s, none)
  else
    let r := readBursts s (bundleBursts a (if a + (n + 1) / 2 ≤ hbmWords s.part then n else 64))
    (r.1, if r.2 && decide (a + (n + 1) / 2 ≤ hbmWords s.part) then some ((bytesOfWords (s.seen a ((n + 1) / 2))).take n) else none)

/-- The bundle that the Steward copies into its RAM: from HBM, or what the host's reads bring. -/
def bundleBytes (s : State) (r : HostReply) : State × Option (List Byte) :=
  if s.stw.mcHbm then bundleFromHbm (s.gotTask srcSteward .data) s.stw.mcAddr.toNat
  else if !s.host.lup then (s, none)
  else
    match r with
    | .data bs => (s, if bs.length < max 64 (numAt bs 20 4) then none else some (bs.take (max 64 (numAt bs 20 4))))
    | _ => (s, none)

/-- A load ends with a result; the Steward logs it (R399, R491). -/
def endLoad (s : State) (err : BitVec 8) : State :=
  let s1 := if err = 0#8 then extendMr s 4 s.stw.mcDigest else s
  logEvent (s1.modStw (fun w => { w with mcGo := false, mcBusy := false, mcDone := true, mcErr := err, mcTodo := [] })) .load noSource

/-- Steps 1 and 2: the checks; only a bundle that passes them makes MC_STAT.BUSY 1. -/
def startLoad (s : State) (r : HostReply) : State :=
  let s1 := s.modStw (fun w => { w with mcGo := false, mcQd := 0 })
  match bundleBytes s1 r with
  | (s2, none) => endLoad s2 0x08
  | (s2, some bs) =>
    match bundleCheck s2 bs with
    | .error e => endLoad s2 e
    | .ok (b, images) => s2.modStw (fun w => { w with mcBusy := true, mcDigest := b.digest, mcTodo := images })

/-- Step 3: the warden asks its cores to stop, and a DSU operation to stop at a unit boundary. -/
def quiesceQuire (s : State) (q : QuireId) : State :=
  if (s.quire q).quiesced then s
  else
    (List.finRange 8).foldl (fun s i => s.modCore (coreOf q i) (fun k =>
      if k.ctl.gated || !k.dsuBusy then k else { k.stopDsu with ctl := { k.stopDsu.ctl with dsuStopped := true } }))
      (s.setQuire q { s.quire q with quiesced := true })

/-- A core has stopped: at a boundary that R359 allows, with no long op but a SWAIT outstanding (R400), once it has taken the
machine checks that wait for that boundary (R404). A core that does not
execute counts as stopped (R404). -/
def Core.stopped (k : Core) : Bool :=
  !k.ctl.run || k.ctl.cks || k.ctl.iso
    || (k.branch.isNone && k.micro.isNone && !k.ctl.fbWait && k.ctl.asyncMc.isEmpty && k.longs.all (fun o => match o.op with | .swait _ => true | _ => false))
/-- Every core of a quire has stopped. -/
def quireStopped (s : State) (q : QuireId) : Bool := (List.finRange 8).all (fun i => (s.core (coreOf q i)).stopped)

/-- Step 7: stopped DSU operations are re-issued through the new image, and the cores go on (R400, R401). -/
def releaseQuire (s : State) (q : QuireId) : State :=
  (List.finRange 8).foldl (fun s i => if (s.core (coreOf q i)).ctl.gated then s else resumeDsu s (coreOf q i))
    (s.setQuire q { s.quire q with quiesced := false })

/-- Steps 4 to 6: the image of a quire. -/
def installImage (s : State) (q : QuireId) (g : Image) : State :=
  (s.setQuire q { s.quire q with image := g }).modStw (fun w => { w with mcQd := w.mcQd ||| (1#8 <<< q.val) })

/-- How the verification ends of one quire: only the quire that the outcome names fails. -/
def verifyAt (v : LoadVerify) (q : QuireId) : LoadVerify :=
  match v with
  | .ok => .ok
  | .restored u => if u = q then v else .ok
  | .failed c => if coreQuire c = q then v else .ok

/-- Steps 3 to 7 for the quires in ascending order, as far as their cores have stopped. Where the verification fails the
previous image stands, and a core whose stores do not verify with that one either has a failed reload: it checkstops (R369,
R374, R403). The quires loaded before it keep the new image. -/
def runLoad (s : State) (v : LoadVerify) : List (QuireId × Image) → State
  | [] => endLoad s 0
  | (q, g) :: rest =>
    if s.jnl.pf then endLoad (if (s.quire q).quiesced then releaseQuire s q else s) 0x0A
    else
      let s1 := quiesceQuire s q
      if !quireStopped s1 q then s1.modStw (fun w => { w with mcTodo := (q, g) :: rest })
      else
        match verifyAt v q with
        | .ok => runLoad (releaseQuire (installImage s1 q g) q) v rest
        | .restored _ => endLoad (releaseQuire s1 q) 0x09
        | .failed c => endLoad (releaseQuire (reloadFailed s1 c) q) 0x09

/-- CONTROL_STORE_LOAD: the load that MC_CTL.GO asked for, or the rest of one whose cores had still to stop. A parity reload
runs first (R404). -/
def execControlStoreLoad (bundle : HostReply) (v : LoadVerify) (s : State) : Out :=
  if !s.live || s.pwr.st == .dormant || s.stw.bst != .ready || s.cores.toList.any (fun k => k.ctl.reload.isSome) then .next s
  else
    match (if !s.stw.mcBusy && s.stw.mcGo && s.stw.mcHbm then bundleHeld s s.stw.mcAddr.toNat else none) with
    | some ln => .next (s.await srcSteward .data ln)
    | none =>
      let s1 := if !s.stw.mcBusy && s.stw.mcGo then startLoad s bundle else s
      .next (if s1.stw.mcBusy then runLoad s1 v s1.stw.mcTodo else s1)

end Sys2Proof.Machine
end

