-- ==== Sys2Proof/Machine/Power.lean ====
section
/-!
DEFINITION. Power states, the thermal supervisor, the reference clock and the rails (18_clocks_power_reset.md R507, R510 to
R523, R532 to R537).
-/
namespace Sys2Proof.Machine

/-! ### Power states (R510 to R517) -/

/-- Requests for a power state are acted on: the firmware runs, and the device is neither frozen nor tripped (R270, R375, R519,
R537). -/
def State.powerServes (s : State) : Bool := s.live && !s.jnl.frz

/-- The cores of the quires selected are gated, and those of the others ungated (R513, R514). -/
def powerGate (s : State) (noWake : Bool) (sel : QuireId → Bool) : State :=
  (List.finRange 64).foldl (fun s c =>
    let t := (s.core c).ctl
    if !sel (coreQuire c) then (if t.gated || t.woken then ungateCore s c false else s)
    else if !t.run || t.cks || t.iso then s
    else if t.gated then s.modCore c (fun k => { k with ctl := { k.ctl with noWake := noWake } })
    else s.modCore c (fun k => k.gate noWake)) s

/-- The stream pairs run, but in Idle those with nothing to run are gated (R513). -/
def powerStreams (s : State) : State :=
  (List.finRange 16).foldl gateIdlePair { s with engines := s.engines.map (fun (x : Engine) => { x with gated := false }) }

/-- A core that a gating has been asked of has stopped, or has woken since, or does not execute (R513; DESIGN CHOICE,
notes/assumptions/174.md: outstanding long ops do not keep it from its gating, since their delivery wakes it). -/
def Core.gateDone (k : Core) : Bool :=
  !k.ctl.run || k.ctl.cks || k.ctl.iso || k.ctl.woken || (k.clockOff && !k.dsuBusy)

/-- Run, Trim or Idle is in effect once the cores that it gates have stopped (R512, R513, R514). -/
def finishActive (s : State) : State :=
  if (List.finRange 64).all (fun c => !s.pwr.goalQ.getLsbD (coreQuire c).val || (s.core c).gateDone) then
    powerStreams { s with pwr := { s.pwr with st := s.pwr.goal, gq := s.pwr.goalQ, move := .still } }
  else s

/-- The transition to Run, Trim or Idle begins. -/
def enterActive (s : State) (st : PwrSt) : State :=
  let gq : BitVec 8 := match st with | .trim => s.pwr.tq | .idle => 0xFF | _ => 0
  finishActive (powerGate { s with pwr := { s.pwr with move := .toActive, goal := st, goalQ := gq } } false
    (fun q => gq.getLsbD q.val))

/-- Why Dormant is refused, if it is (R512, R515). -/
def dormantWhy (s : State) : Option (BitVec 3) :=
  if s.jnl.pen || jnlInfl s then some 1
  else if s.jnl.held != 0 then some 2
  else if s.engines.toList.any (fun (x : Engine) => !x.hlt) then some 3
  else if s.stw.mcBusy then some 4
  else none

/-- Steps 1 and 2 of R515: LEAVE, the bypass closes, the cores are gated without wake. -/
def beginDormant (s : State) : State :=
  let s1 := if s.ring.byp then s else sendControl (sendControl s .a 6 0 none) .b 6 0 none
  let s2 := enterRing (closeBypass s1) .off
  powerGate { s2 with pwr := { s2.pwr with move := .toDormant, goal := .dormant, goalQ := 0xFF } } true (fun _ => true)

/-- Everything that the cores have under way is done (R400, R513). -/
def coresQuiet (s : State) : Bool :=
  s.cores.toList.all (fun k => k.stopped && k.sbuf.isEmpty && k.pushq.isEmpty && k.outq.isEmpty)

/-- Steps 3 to 5 of R515: streams gated, an open window completed, the stack in self-refresh, the spine gated. -/
def enterDormant (s : State) : State :=
  { s with
    engines := s.engines.map (fun (x : Engine) => { x with gated := true })
    hbm := { s.hbm with cal := false, win := if s.hbm.cal then s.hbm.win + 1#32 else s.hbm.win, sr := true }
    pwr := { s.pwr with st := .dormant, gq := 0xFF, move := .still } }

/-- The last steps of R517: the cores that the requested state leaves running are ungated, doorbells are served, and a ring
that is enabled joins. -/
def leaveDormant (s : State) : State :=
  tryListen (serveLate (enterActive { s with pwr := { s.pwr with st := .run } } s.pwr.goal))

/-- The request in PWR_CTL is acted on (R512 to R517). -/
def actPower (s : State) : State :=
  let refuse := fun (w : BitVec 3) => { s with pwr := { s.pwr with ref := true, why := w } }
  let active := fun (st : PwrSt) =>
    if s.pwr.st == .dormant then { s with pwr := { s.pwr with move := .outSpine, goal := st } } else enterActive s st
  match s.pwr.req.toNat with
  | 0 => active .run
  | 1 => active .trim
  | 2 => active .idle
  | 3 =>
    if s.pwr.st == .dormant then s
    else
      match dormantWhy s with
      | some w => refuse w
      | none =>
        let s1 := beginDormant s
        if coresQuiet s1 then enterDormant s1 else s1
  | _ => refuse 5

/-- A transition has ended: a request held meanwhile is acted on (R512). -/
def endMove (s : State) : State :=
  if s.pwr.late then actPower { s with pwr := { s.pwr with late := false } } else s

/-- A transition goes on by a step: to its end once the cores that it gates have stopped (R512, R515), and out of Dormant
through the mesh spine, the retraining of the stack and the cores (R517). A frozen device stays at its step (R519). -/
def settlePower (s : State) : State :=
  if !s.powerServes then s
  else
    match s.pwr.move with
    | .still => s
    | .toActive =>
      let s1 := finishActive s
      if s1.pwr.busy then s1 else endMove s1
    | .toDormant => if coresQuiet s then endMove (enterDormant s) else s
    | .outSpine => { s with hbm := { s.hbm with sr := false }, pwr := { s.pwr with move := .outStack } }
    | .outStack =>
      let s1 := leaveDormant s
      if s1.pwr.busy then s1 else endMove s1

/-- The depth that CLK_CFG.SSC asks for: 6 and 7 act as 0 (R504). -/
def Power.sscGoal (p : Power) : BitVec 3 := if 6 ≤ p.ssc.toNat then 0 else p.ssc

/-- The spread depth takes a step of 0.1 % towards the depth set, one in each modulation period of 31.5 kHz, which is 28,572
mesh cycles (R504; DESIGN CHOICE, notes/assumptions/175.md: the rule bounds the step). -/
def Power.sscStep (p : Power) (now : Nat) : Power :=
  if p.ssca = p.sscGoal ∨ now < p.sscSince + 28572 then p
  else { p with ssca := if p.ssca.toNat < p.sscGoal.toNat then p.ssca + 1 else p.ssca - 1, sscSince := now }

/-- The DSUs go on beside the pipes, one step in a cycle (R156, R157; DESIGN CHOICE, notes/assumptions/32.md). -/
def dsuTicks (s : State) : State :=
  if s.live then
    { s with cores := Vector.ofFn (fun (c : CoreId) =>
        let k := s.core c
        if k.dsuBusy && k.ctl.run && !k.clockOff && !k.ctl.cks && !k.ctl.iso then k.dsuTick (s.quire (coreQuire c)).image else k) }
  else s

/-- The core resets that CORE_CTL.RST asked for, of the cores whose requests are done (R373). -/
def settleResets (s : State) : State := (List.finRange 64).foldl settleReset s

/-- PWR_CTL takes REQ and TQ; while BUSY they are held (R512). -/
def powerRequest (s : State) (req : BitVec 3) (tq : BitVec 8) : State :=
  let s1 := { s with pwr := { s.pwr with req := req, tq := tq } }
  if !s.powerServes then s1
  else if s.pwr.busy then { s1 with pwr := { s1.pwr with late := true } }
  else actPower s1

/-- PWR_CTL takes a value written. -/
def pwrCtlWrite (s : State) (v : W64) : State :=
  powerRequest { s with pwr := { s.pwr with gt := v.extractLsb' 16 8 } } (v.setWidth 3) (v.extractLsb' 8 8)

/-- POWER_RUN (R514). -/
def execPowerRun (s : State) : Out := .next (powerRequest s 0 s.pwr.tq)
/-- POWER_TRIM (R513). -/
def execPowerTrim (tq : BitVec 8) (s : State) : Out := .next (powerRequest s 1 tq)
/-- POWER_IDLE (R513). -/
def execPowerIdle (s : State) : Out := .next (powerRequest s 2 s.pwr.tq)
/-- POWER_DORMANT (R515). -/
def execPowerDormant (s : State) : Out := .next (powerRequest s 3 s.pwr.tq)

/-! ### Thermal (R532 to R537) -/

/-- TON as it acts: 70 to 100 (R535). -/
def Power.tonOf (p : Power) : Int := ((max 70 (min 100 p.ton.toNat) : Nat) : Int)

/-- Since when TJ has been at TON + 3 or above, and below TON - 5 (R534). -/
def Power.tracked (p : Power) (now : Nat) : Power :=
  let t := p.tj.toInt
  { p with
    hotSince := if p.tjV && decide (p.tonOf + 3 ≤ t) then some (p.hotSince.getD now) else none
    coolSince := if p.tjV && decide (t < p.tonOf - 5) then some (p.coolSince.getD now) else none }

/-- The Steward's firmware runs (R471, R489). -/
def State.firmware (s : State) : Bool := s.awake && !s.stw.hsf

/-- THERMAL_SENSOR_READ: the hottest of the sixteen sensors (R532). -/
def execThermalSensorRead (t : BitVec 8) (s : State) : Out :=
  .next (if s.firmware then { s with pwr := { s.pwr with tj := t, tjV := true }.tracked s.now } else s)

/-- Something has held for 1 ms (R534). -/
def heldMs (since : Option Nat) (now : Nat) : Bool :=
  match since with
  | some t => decide (t + 900000 ≤ now)
  | none => false

/-- Enters level 1 or returns to level 0, which raises source 47 and is logged (R353, R534). -/
def throttleEvent (s : State) : State := raiseAll (logEvent s .thermal noSource) 47 none

/-- THROTTLE_CHANGE (R534): the 1 ms of a further change counts from this one. -/
def execThrottleChange (s : State) : Out :=
  let p := s.pwr
  let again := fun (since : Option Nat) => since.map (fun _ => s.now)
  let fall := { s with pwr := { p with lvl := p.lvl - 1#2, coolSince := again p.coolSince } }
  .next (if !s.firmware || !p.tjV then s
    else
      match p.lvl.toNat with
      | 0 =>
        if p.tonOf ≤ p.tj.toInt then
          throttleEvent { s with pwr := { p with lvl := 1, tcnt := p.tcnt + 1#16, hotSince := again p.hotSince } }
        else s
      | 1 =>
        if heldMs p.hotSince s.now then { s with pwr := { p with lvl := 2 } }
        else if heldMs p.coolSince s.now then throttleEvent fall
        else s
      | _ => if heldMs p.coolSince s.now then fall else s)

/-- The cores and the streams are held gated, whatever they were about (R537). -/
def tripGate (s : State) : State :=
  { s with
    cores := s.cores.map (fun (k : Core) => { k with ctl := { k.ctl with gated := true, noWake := true } })
    engines := s.engines.map (fun (x : Engine) => { x with gated := true }) }

/-- THERMAL_TRIP: THERMTRIP_N falls, cores and streams are gated, and the device freezes by R269; one that is frozen already
puts its stack in self-refresh (R537). Which of the two comparators tripped first is kept. -/
def execThermalTrip (stack : Bool) (s : State) : Out :=
  if s.pins.phase == .off || s.pwr.trip then .next s
  else
    let s1 := tripGate (powerFail { s with
      pwr := { s.pwr with trip := true, htrip := stack, trp := true }, pins := { s.pins with thermtripN := false } })
    .next (if s1.jnl.frz || !s.awake then { s1 with hbm := { s1.hbm with sr := true } } else s1)

/-! ### REFCLK and rails (R507, R523) -/

/-- REFCLK_LOSS. -/
def execRefclkLoss (s : State) : Out :=
  .next (if s.pins.phase == .off then s else linkFalls (powerFail { s with pwr := { s.pwr with rfl := true } }))

/-- UNDERVOLTAGE of a rail other than VDD_AON, while PWRGOOD is high: a rail that falls again has been above its limit since. -/
def execUndervoltage (rail : Fin 10) (s : State) : Out :=
  .next (if rail = 0 || !s.pins.pwrgood then s
    else powerFail { s with
      pwr := { s.pwr with uvr := s.pwr.uvr ||| (1#10 <<< rail.val) }
      pins := { s.pins with uvSince := s.pins.uvSince.set rail (some s.now) } })

/-- UNDERVOLTAGE_HOLD: a rail that is still below its limit 50 us later; the device holds itself in reset with the bypass
closed, ALERT_N is released, and the link goes down (R453, R523, R529). -/
def execUndervoltageHold (s : State) : Out :=
  let due := s.pins.uvSince.toList.any (fun t => t.any (fun t => decide (t + 45000 ≤ s.now)))
  .next (if due && s.pins.pwrgood && !s.pins.uvHold then
      let s1 := linkFalls (enterRing (closeBypass s) .off)
      { s1 with pins := { s1.pins with phase := .asserted, uvHold := true }, stw := { s1.stw with alrt := false } }
    else s)

/-! ### The outputs that the pins show (R446, R490, R529) -/

/-- ALERT_N, low while STW_STAT.ALRT is 1; it is released from the start of every reset (R490, R529). -/
def State.alertN (s : State) : Bool := !(s.stw.alrt && s.pins.phase == .running)
/-- RING_JOINED: high exactly while the bypass is open (R446). -/
def State.ringJoined (s : State) : Bool := !s.ring.byp

end Sys2Proof.Machine
end

