-- ==== Sys2Proof/Machine/Reset.lean ====
section
/-!
DEFINITION. Cold and warm resets: the pins, what a reset keeps and what it clears (00_scope.md R10; 18_clocks_power_reset.md
R523 to R529).
-/
namespace Sys2Proof.Machine

/-! ### Power good (R524) -/

/-- Everything but VDD_AON state and what outlasts a loss of power is at its cold-reset value: fuses and flash stay, the pins
stand at their levels (R10, R472, R475, R487, R524, R529). -/
def State.cold (s : State) : State :=
  let r := State.reset
  { r with
    part := s.part, now := s.now, stamp := s.stamp, nextPost := s.nextPost, freeCount := s.freeCount, out := s.out
    pending := s.pending
    stw := { r.stw with
      fuses := s.stw.fuses, flash := s.stw.flash, badA := s.stw.badA, badB := s.stw.badB, badCfg := s.stw.badCfg
      challenges := s.stw.challenges }
    pwr := { r.pwr with uvr := s.pwr.uvr }
    pins := { r.pins with rstN := s.pins.rstN, perstN := s.pins.perstN, pfailN := s.pins.pfailN, ringEn := s.pins.ringEn
                          trstN := s.pins.trstN, straps := s.pins.straps } }

/-- PWRGOOD_FALL: everything but the always-on state is reset, and THERMTRIP_N is released (R524, R537). -/
def execPwrgoodFall (s : State) : Out :=
  let r := s.cold
  .next { r with pins := { r.pins with pwrgood := false, phase := .off } }

/-- PWRGOOD_RISE: a cold reset starts, and the straps are sampled (R524, R525, R528). -/
def execPwrgoodRise (s : State) : Out :=
  .next (if s.pins.pwrgood then s
    else
      let r := s.cold
      { r with
        pins := { r.pins with pwrgood := true, phase := .asserted, cold := true }
        stw := { r.stw with straps := r.pins.straps } })

/-! ### The reset pins (R526) -/

/-- Steps 1 and 2 of R526: the bypass closes, postings stop, nothing more is issued; ALERT_N is released (R529). -/
def startStopping (s : State) (why : ResetPin) : State :=
  let s1 := enterRing (closeBypass s) .off
  { s1 with pins := { s1.pins with phase := .stopping why, stopSince := s.now } }

/-- A reset pin has fallen: the first starts the stop, and a second within 50 ns is one with it (R529). -/
def pinFalls (s : State) (why : ResetPin) : State :=
  match s.pins.phase with
  | .running => startStopping s why
  | .stopping w =>
    if w != why && decide (s.now ≤ s.pins.stopSince + 45) then { s with pins := { s.pins with phase := .stopping .both } } else s
  | _ => s

/-- RST_N_ASSERT. -/
def execRstNAssert (s : State) : Out := .next (pinFalls { s with pins := { s.pins with rstN := false } } .rst)
/-- PERST_N_ASSERT. -/
def execPerstNAssert (s : State) : Out := .next (pinFalls { s with pins := { s.pins with perstN := false } } .perst)

/-- RST_STAT.WS of a pin. -/
def wsOf : ResetPin → BitVec 2
  | .rst => 1 | .perst => 2 | .both => 3

/-- A core after a warm reset: its RAMs are kept (R527). -/
def Core.warm (k : Core) : Core :=
  { Core.reset with loc := k.loc, locBad := k.locBad, locOne := k.locOne, iram := k.iram, iramBad := k.iramBad }

/-- The journal after a warm reset: the sequence ports, and what belongs to the mirror that its SRAM holds, are kept; its
control and configuration are cleared (R273, R274). -/
def Journal.warm (j : Journal) : Journal :=
  { Journal.reset with
    next := j.next, repl := j.repl, hbm := j.hbm, host := j.host, dur := j.dur, mhi := j.mhi, msrc := j.msrc, mv := j.mv
    mslots := j.mslots, expect := j.expect, pdur := j.pdur, sendPos := j.next }

/-- The Steward after a warm reset: the log, the password record of failures, the fuses and the flash are kept; the vendor
state ends only with PWRGOOD (R480, R490, R491, R495, R497, R527). -/
def Steward.warm (w : Steward) : Steward :=
  let r := Steward.reset
  { r with
    bst := if w.bst == .vendor then .vendor else .rom, dbg := if w.dbg = 2#2 then 2 else 0, pwf := w.pwf, plk := w.plk
    pwUntil := w.pwUntil, fuses := w.fuses, log := w.log, logNext := w.logNext, chain := w.chain, chains := w.chains, flushed := w.flushed, fatalSig := w.fatalSig
    flash := w.flash, badA := w.badA, badB := w.badB, badCfg := w.badCfg, challenges := w.challenges }

/-- The power, thermal and reset ports after a warm reset (R523, R529, R537). -/
def Power.warm (p : Power) (ws : BitVec 2) : Power :=
  { Power.reset with
    cld := false, ws := ws, nwr := p.nwr + 1#16, uvr := p.uvr, trip := p.trip, htrip := p.htrip, trp := p.trp }

/-- A warm reset is asserted: what R527 keeps, and the reset value of every other field. The stack enters self-refresh
(R425). -/
def warmReset (s : State) (ws : BitVec 2) : State :=
  let r := State.reset
  { r with
    part := s.part, phys := s.phys, vatMark := s.vatMark, hbmEcc := s.hbmEcc, jnlMark := s.jnlMark, keys := s.keys
    keyMark := s.keyMark, now := s.now, stamp := s.stamp, nextPost := s.nextPost, freeCount := s.freeCount, out := s.out
    pending := s.pending, tmr := s.tmr
    cores := s.cores.map Core.warm
    jnl := s.jnl.warm
    hbm := { r.hbm with pos := s.hbm.pos, sr := s.hbm.rdy || s.hbm.sr }
    ring := { r.ring with pos := s.ring.pos, pv := s.ring.pv }
    stw := s.stw.warm
    pwr := s.pwr.warm ws
    pins := { s.pins with phase := .asserted } }

/-- WARM_RESET_ASSERT: at the first moment with no POST in flight (R526). -/
def execWarmResetAssert (s : State) : Out :=
  match s.pins.phase with
  | .stopping why => .next (if jnlInfl s then s else warmReset s (wsOf why))
  | _ => .next s

end Sys2Proof.Machine
end

