-- ==== Sys2Proof/Machine/Boot.lean ====
section
/-!
DEFINITION. Boot: images in flash and their checks, the owner configuration, and the stages from the release of a reset to READY
(17_steward_security.md R472 to R482; 13_control_store.md R405; 14_hbm_memory.md R425).
-/
namespace Sys2Proof.Machine

/-! ### Images (R475 to R477) -/

/-- The bytes of a slot. -/
def slotBytes : Nat := 0x400000
/-- Where a slot lies in flash. -/
def slotBase (slot : Nat) : Nat := if slot = 0 then 0 else 0x400000

/-- What the check of an image gives: its header fields and the place of its signature block; a failure of the security-version
floor alone; another failure. -/
inductive ImageRes where
  | ok (sv : Nat) (fwv : W16) (base : Nat) (bundles : List Nat) (sigAt : Nat)
  | floor
  | bad
deriving DecidableEq, Repr

/-- The offsets of the listed bundles. -/
def bundleOffsets (h : List Byte) : List Nat := (List.range (numAt h 28 2)).map (fun i => numAt h (32 + 2 * i) 2 * 4096)

/-- A header is well formed (R476). -/
def headerOk (h : List Byte) : Bool :=
  (h.take 4 == [0x4B#8, 0x4C, 0x46, 0x57]) && numAt h 4 2 == 1 && decide (numAt h 6 1 ≤ 63) && numAt h 7 1 == 0
    && numAt h 10 2 == 0 && decide (numAt h 16 4 ≤ 98304) && numAt h 24 4 == 26368 && decide (numAt h 28 2 ≤ 16)
    && numAt h 30 2 == 0

/-- Where the areas of an image end: firmware, base image with its Noward block, bundles. -/
def areasEnd (fl : Cells 8) (b : Nat) (h : List Byte) : Nat :=
  ((bundleOffsets h).map (fun o => o + beNat (fl.read (b + o + 20) 4))).foldl max
    (max (numAt h 12 4 + numAt h 16 4) (numAt h 20 4 + 26568))

/-- An image's signature block verifies: an owner block under a valid key when the device is owned, else a Noward block. -/
def imageSigned (f : Fuses) (blk : List Byte) (d : BitVec 384) : Bool :=
  if f.owned then (match ownerCheck f blk d with | .ok _ => true | _ => false) else nowardOk blk d

/-- The check of the image in a slot by R477. -/
def imageCheck (f : Fuses) (fl : Cells 8) (slot : Nat) : ImageRes :=
  let b := slotBase slot
  let h := fl.read b 64
  let sigAt := areasEnd fl b h
  let starts := numAt h 12 4 :: numAt h 20 4 :: bundleOffsets h
  if !headerOk h || starts.any (fun o => decide (o < 64)) || decide (slotBytes < sigAt + 200) then .bad
  else if !imageSigned f (fl.read (b + sigAt) 200) (digestOf (fl.read b sigAt)) then .bad
  else if numAt h 6 1 < f.floor then .floor
  else .ok (numAt h 6 1) (BitVec.ofNat 16 (numAt h 8 2)) (numAt h 20 4) (bundleOffsets h) sigAt

/-- The image in a slot, which is not acceptable while an update has left it invalid (R487). -/
def slotImage (s : State) (slot : Nat) : ImageRes :=
  if (if slot = 0 then s.stw.badA else s.stw.badB) then .bad else imageCheck s.stw.fuses s.stw.flash slot

/-! ### The owner configuration (R481) -/

/-- The bytes of the owner configuration block that its signature covers, when it is acceptable; it holds 0 to 8 ring key
records. -/
def configCheck (f : Fuses) (fl : Cells 8) : Option (List Byte) :=
  if fl.read 0x800000 4 ≠ [0x4B#8, 0x4C, 0x4F, 0x43] then none
  else
    let area := fl.read 0x800000 0x10000
    match Config.cfgSigned area with
    | none => none
    | some n =>
      if 0x10000 < n + 200 ∨ 8 < (Config.cfgRingKeys (area.take n)).length then none
      else
        match ownerCheck f ((area.drop n).take 200) (digestOf (area.take n)) with
        | .ok _ => some (area.take n)
        | _ => none

/-- The configuration that a block carries. -/
def configOf (bs : List Byte) : OwnerCfg :=
  let fl := Config.cfgFlags bs
  { ocs := fl.getLsbD 0, rba := fl.getLsbD 1, pv := fl.getLsbD 2, pos := BitVec.ofNat 4 (numAt bs 9 1)
    salt := natBytesBE 16 (Config.cfgSalt bs).toNat, hash := Config.cfgHash bs }

/-- The configuration block in effect at this boot. -/
def bootConfig (s : State) : Option (List Byte) :=
  if s.stw.badCfg then none else configCheck s.stw.fuses s.stw.flash

/-! ### The stages (R480) -/

/-- BOOTFAIL with a code. -/
def bootFail (s : State) (code : BitVec 8) : State :=
  logEvent (s.modStw (fun w => { w with bst := .bootfail, bfc := code, alrt := true })) .boot noSource

/-- The fuse fields other than the private key, in the order of their table (R472, R482). -/
def fuseBytes (f : Fuses) : List Byte :=
  natBytesBE 8 f.serial.toNat ++ f.hash.toList.flatMap digestBytes ++ [f.rev.setWidth 8]
    ++ natBytesBE 8 (2 ^ f.floor - 1) ++ natBytesBE 2 (2 ^ f.unlocks - 1)

/-- Stage 0x0: an erasure that a power loss cut short is done again (R499), and MR0 is extended. -/
def romStage (s : State) : State :=
  let s1 := if s.stw.flash.get eraseMarker != 0#8 then vendorErase s else s
  extendMr s1 0 (digestOf (Config.romBytes ++ fuseBytes s1.stw.fuses))

/-- The slots in the order in which they are tried (R479). -/
def slotOrder (strap : BitVec 2) : Nat × Nat := if strap = 0#2 then (0, 1) else (1, 0)

/-- Stage 0x1: the slot that boots, or the failure code. -/
def pickSlot (s : State) (strap : BitVec 2) : Except (BitVec 8) (Nat × ImageRes) :=
  let (a, b) := slotOrder strap
  match slotImage s a with
  | .ok sv fwv base bl sg => .ok (a, .ok sv fwv base bl sg)
  | r =>
    match slotImage s b with
    | .ok sv fwv base bl sg => .ok (b, .ok sv fwv base bl sg)
    | r2 => .error (if r = .floor ∧ r2 = .floor then 5 else 1)

/-- The rest of stage 0x1: MR1, the owner configuration and MR2. -/
def verifyStage (s : State) (slot sigAt sv : Nat) (fwv : W16) : State :=
  let s1 := (extendMr s 1 (digestOf (s.stw.flash.read (slotBase slot) sigAt))).modStw (fun w =>
    { w with bst := .verify, slot := BitVec.ofNat 2 slot, fwv := fwv, sv := BitVec.ofNat 6 sv })
  match bootConfig s with
  | some bs => (extendMr s1 2 (digestOf bs)).modStw (fun w => { w with cfg := configOf bs })
  | none => (logEvent (extendMr s1 2 (digestOf (List.replicate 48 0#8))) .skipped noSource).modStw (fun w => { w with cfg := OwnerCfg.none })

/-- Stage 0x2: the stack trained, lanes repaired; it leaves self-refresh (R425). -/
def hbmStage (s : State) (b : BootInput) : State :=
  { s with hbm := { s.hbm with tf := !b.trained, nrep := b.nrep, rdy := b.trained, sr := s.hbm.sr && !b.trained } }

/-- The zero fill of a cold reset (R215, R425, R527). -/
def fillStage (s : State) : State :=
  if s.pins.cold then
    { s with
      phys := [], vatMark := [], hbmEcc := [], jnlMark := [], keys := [], keyMark := []
      cores := s.cores.map (fun (k : Core) => { k with loc := [], locBad := [], locOne := [], iram := [], iramBad := [] }) }
  else s

/-- The base image of a slot, when its Noward block verifies and its words obey R384. -/
def baseImage (s : State) (slot base : Nat) : Option (List Byte × Image) :=
  let b := slotBase slot + base
  let bs := s.stw.flash.read b 26368
  let g := imageOfBytes bs
  if nowardOk (s.stw.flash.read (b + 26368) 200) (digestOf bs) && (List.range 512).all (fun i => nanoOk (g.nano.get i)) then
    some (bs, g)
  else none

/-- A listed bundle is loaded, or skipped and logged (R405). -/
def bootBundle (s : State) (b : Nat) : State :=
  let bs := s.stw.flash.read b (max 64 (beNat (s.stw.flash.read (b + 20) 4)))
  match bundleCheck s bs with
  | .error _ => logEvent s .skipped noSource
  | .ok (bd, images) => extendMr (images.foldl (fun s x => s.setQuire x.1 { s.quire x.1 with image := x.2 }) s) 4 bd.digest

/-- The owner configuration is applied: MC_POL.OCS, the ring position, the ring keys (R481, R493). -/
def applyConfig (s : State) : State :=
  let c := s.stw.cfg
  let s1 := s.modStw (fun w => { w with mcOcs := c.ocs })
  let s2 := if c.pv then s1.modRing (fun g => { g with pos := c.pos, pv := true }) else s1
  match bootConfig s with
  | some bs => (Config.cfgRingKeys bs).foldl (fun s r => (ringKeyAct s r).1) s2
  | none => s2

/-- Stage 0x4: the cores are released, and the floor follows the image (R30, R478, R480). -/
def readyStage (s : State) : State :=
  let s1 := { s with cores := s.cores.map (fun (k : Core) => { k with ctl := { k.ctl with run := true } }) }
  s1.modStw (fun w => { w with
    bst := .ready
    fuses := if w.cfg.rba then { w.fuses with floor := max w.fuses.floor w.sv.toNat } else w.fuses })

/-- Stages 0x2 to 0x4 for an image that is acceptable. -/
def bootImage (s : State) (b : BootInput) (slot base : Nat) (bundles : List Nat) : State :=
  let s1 := hbmStage s b
  if !b.trained then bootFail s1 2
  else
    let s2 := fillStage s1
    match baseImage s2 slot base with
    | none => bootFail s2 3
    | some (bs, g) =>
      let m := extendMr s2 3 (digestOf bs)
      let s3 := { m with quires := m.quires.map (fun (q : Quire) => { q with image := g }) }
      readyStage (applyConfig (bundles.foldl (fun s o => bootBundle s (slotBase slot + o)) s3))

/-- Boot from the release of a reset: the straps are those sampled at the rise of PWRGOOD, or for a warm reset at its release
(R479, R480, R528). -/
def boot (s : State) (b : BootInput) : State :=
  let s0 := s.modStw (fun w => { w with straps := if s.pins.cold then w.straps else s.pins.straps, slot := 2 })
  let strap : BitVec 2 := s0.stw.straps.setWidth 2
  if s0.stw.bst == .vendor then s0
  else
    let s1 := romStage s0
    if !b.fuseOk then bootFail s1 4
    else if strap = 3#2 then s1.modStw (fun w => { w with bst := .held })
    else if strap = 2#2 then s1.modStw (fun w => { w with bst := .recovery })
    else
      match pickSlot s1 strap with
      | .ok (slot, .ok sv fwv base bundles sigAt) => bootImage (verifyStage s1 slot sigAt sv fwv) b slot base bundles
      | .ok _ => bootFail s1 1
      | .error e => bootFail s1 e

/-- RESET_RELEASE: the last of PWRGOOD, RST_N and PERST_N is high; the PLLs lock and the device boots. One that is held by a rail
or after a thermal trip stays in reset, and a loss of REFCLK that came meanwhile is past (R502, R507, R523, R525, R537). The
levels of the straps and of TRST_N come with it; a low TRST_N puts the TAP in Test-Logic-Reset (R528, R544; DESIGN CHOICE,
notes/assumptions/182.md). -/
def execResetRelease (b : BootInput) (s : State) : Out :=
  if s.pins.pwrgood && s.pins.phase == .asserted && !s.pins.uvHold && !s.pwr.trip then
    let s1 := { s with
      pwr := { s.pwr with lock := true, plock := true, rfl := false }
      stw := { s.stw with tap := if b.trstN then s.stw.tap else .idcode } }
    let s2 := boot { s1 with pins := { s1.pins with
      rstN := true, perstN := true, trstN := b.trstN, straps := b.strapAddr ++ b.strapBoot, phase := .running } } b
    .next { s2 with pins := { s2.pins with cold := false } }
  else .next s

end Sys2Proof.Machine
end

