-- ==== Sys2Proof/Machine/Hbm.lean ====
section
/-!
DEFINITION. The HBM controller's own activity: scrub, refresh, temperature and calender windows (14_hbm_memory.md R415 to
R424).
-/
namespace Sys2Proof.Machine

/-- The scrub's position after a burst: ascending, and a pass ends with the last burst (R415, R417). -/
def scrubNext (s : State) : State :=
  let next := s.hbm.pos.toNat + 16
  if next < hbmWords s.part then { s with hbm := { s.hbm with pos := BitVec.ofNat 36 next } }
  else { s with hbm := { s.hbm with pos := 0, pass := s.hbm.pass + 1#20 } }

/-- What the scrub does to a burst, as one act with its write-back (R415). -/
def scrubBurst (s : State) (b : Nat) : State :=
  match hbmCommand s b with
  | (s, .clean, _) => s
  | (s, .corrected _, _) => hbmStored (fixBurst (countCorrected s b) b) b false
  | (s, .uncorrectable, ue) => hbmStored (countUncorrectable s b ue true) b true
  | (s, .poisoned, _) => s

/-- SCRUB_READ: the next burst, in its turn among the requests to the controller and after the unlock of its line (R17, R246,
R415, R424). -/
def execScrubRead (s : State) : Out :=
  let pa := s.hbm.pos.toNat / 16 * 16
  .next (if s.hbm.per == 0#8 || !s.stackRuns then s
    else if s.mustWait srcHbm pa then s.await srcHbm .data (lineOf pa)
    else scrubNext (scrubBurst (s.gotTask srcHbm .data) (pa / 16)))

/-- HBM_REFRESH: rows are refreshed; their contents stay, and a request waits at most for a time that no state shows
(R418). -/
def execHbmRefresh (s : State) : Out := .next s

/-- The refresh interval of a temperature in two's complement (R418). -/
def refreshOf (t : BitVec 8) : BitVec 2 := if t.toInt < 85 then 0 else if t.toInt < 95 then 1 else 2

/-- HBM_TEMP_READ: the Steward writes the stack's temperature to HC_TEMP, and the interval follows it, while the controller is
clocked (R19, R418, R419). -/
def execHbmTempRead (t : BitVec 8) (s : State) : Out :=
  .next (if s.hbm.rdy && s.pwr.spine then { s with hbm := { s.hbm with temp := t, tempV := true, tr := refreshOf t } } else s)

/-- The period of calender windows in mesh cycles (R421). -/
def calPeriod : Nat := 3600000

/-- CALENDER_WINDOW_OPEN: at a non-zero whole multiple of 3,600,000, while the stack is ready and out of self-refresh and no
power failure runs (R421, R424). -/
def execCalenderWindowOpen (s : State) : Out :=
  let due := s.tmr != 0#64 && decide (s.tmr.toNat % calPeriod = 0)
  .next (if due && s.stackRuns && !s.hbm.cal && !s.jnl.pf then { s with hbm := { s.hbm with cal := true, calOpened := s.now } }
    else s)

/-- CALENDER_WINDOW_CLOSE: after 900 mesh cycles, with the margins found; the Steward logs each rise of LOW (R417, R421). -/
def execCalenderWindowClose (wmin rmin : BitVec 8) (low : Bool) (s : State) : Out :=
  if s.hbm.cal && decide (s.hbm.calOpened + 900 ≤ s.now) then
    let s1 := { s with hbm := { s.hbm with
      cal := false, win := s.hbm.win + 1#32, wmin := wmin, rmin := rmin, low := low } }
    .next (if low && !s.hbm.low then logEvent s1 .eyeLow noSource else s1)
  else .next s

end Sys2Proof.Machine
end

