-- ==== Sys2Proof/Machine/Ports.lean ====
section
/-!
DEFINITION. The device ports: which register a port number names, what it reads, what a write does, and how cores and the host
reach it (20_register_summary.md R560 to R566; 03_pipeline_timing.md R77; 16_host_interface.md R455).
-/
namespace Sys2Proof.Machine

/-! ### The port map (R560, R566) -/

/-- The registers behind device ports. -/
inductive Port where
  | coreCtl (c : CoreId)
  | mbxSend (c : CoreId)
  | intRoute (q : QuireId) (i : Fin 64)
  | intSet (q : QuireId)
  | cxt (c : CoreId)
  | tlbShoot (q : QuireId)
  | swinCfg (c : CoreId) (w : WinId)
  | se (e : EngId) (n : Fin 11)
  | dirCfg | dirSeed1 | dirSeed2 | postCnt | postRef
  | jnl (n : Fin 13)
  | hc (n : Fin 9)
  | hcEc (p : Fin 16)
  | ring (n : Fin 6)
  | rp (p : RPort) (n : Fin 3)
  | hi (n : Fin 8)
  | cq (n : QpId) (i : Fin 9)
  | stw (n : Fin 5)
  | stwCmd | stwLogn
  | stwMr (m : Fin 8) (w : Fin 6)
  | mc (n : Fin 4)
  | buf (i : Fin 512)
  | clkCfg | clkStat | pwrCtl | pwrStat | thmStat | thmCfg | rstStat | ioCfg
deriving DecidableEq, Repr

/-- o lies in the n ports from b up: its place among them. -/
def inRun (o b n : Nat) [NeZero n] : Option (Fin n) := if b ≤ o ∧ o < b + n then some (Fin.ofNat n (o - b)) else none

/-- A port of warden q at offset o. -/
def wardenPort (q : QuireId) (o : Nat) : Option Port :=
  (inRun o 0x100 8).map (fun k => .coreCtl (coreOf q k))
    <|> (inRun o 0x200 8).map (fun k => .mbxSend (coreOf q k))
    <|> (inRun o 0x1000 64).map (.intRoute q)
    <|> (if o = 0x1040 then some (.intSet q) else none)
    <|> (inRun o 0x3000 8).map (fun k => .cxt (coreOf q k))
    <|> (if o = 0x3010 then some (.tlbShoot q) else none)
    <|> (inRun o 0x4000 128).map (fun i => .swinCfg (coreOf q (Fin.ofNat 8 (i.val / 16))) (Fin.ofNat 16 i.val))

/-- A port of block 0x30 at offset o: directory, posting counters, journal. -/
def vatPort (o : Nat) : Option Port :=
  match o with
  | 0 => some .dirCfg
  | 1 => some .dirSeed1
  | 2 => some .dirSeed2
  | 8 => some .postCnt
  | 9 => some .postRef
  | _ => (inRun o 0x100 13).map .jnl

/-- A port of block 0x60 at offset o. -/
def hostPort (o : Nat) : Option Port :=
  (inRun o 0 8).map .hi
    <|> (if 0x1000 ≤ o ∧ o < 0x2000 ∧ o % 16 < 9 then some (.cq (Fin.ofNat 256 ((o - 0x1000) / 16)) (Fin.ofNat 9 (o % 16))) else none)

/-- A port of block 0x70 at offset o. -/
def stewardPort (o : Nat) : Option Port :=
  match o with
  | 0x10 => some .stwCmd
  | 0x11 => some .stwLogn
  | 0x400 => some .clkCfg
  | 0x401 => some .clkStat
  | 0x402 => some .pwrCtl
  | 0x403 => some .pwrStat
  | 0x404 => some .thmStat
  | 0x405 => some .thmCfg
  | 0x406 => some .rstStat
  | 0x407 => some .ioCfg
  | _ =>
    (inRun o 0 5).map .stw
      <|> (inRun o 0x40 48).map (fun i => .stwMr (Fin.ofNat 8 (i.val / 6)) (Fin.ofNat 6 i.val))
      <|> (inRun o 0x100 4).map .mc
      <|> (inRun o 0x200 512).map .buf

/-- The register of a device port; none where the port is unassigned. -/
def devPort (p : Nat) : Option Port :=
  let b := p / 0x10000
  let o := p % 0x10000
  match b with
  | 0x20 => (inRun (o % 0x1000) 0 11).map (.se (Fin.ofNat 16 (o / 0x1000)))
  | 0x30 => vatPort o
  | 0x40 => (inRun o 0 9).map .hc <|> (inRun o 0x10 16).map .hcEc
  | 0x50 => (inRun o 0 6).map .ring <|> (inRun o 0x10 3).map (.rp .a) <|> (inRun o 0x20 3).map (.rp .b)
  | 0x60 => hostPort o
  | 0x70 => stewardPort o
  | _ => (inRun b 0x10 8).bind (fun q => wardenPort q o)

/-- The host reaches a register through BAR0 (R566). -/
def Port.host : Port → Bool
  | .swinCfg _ _ => false
  | .dirCfg => false
  | .dirSeed1 => false
  | .dirSeed2 => false
  | .postCnt => false
  | .postRef => false
  | .hc n => n != 7
  | .hi n => n != 0
  | _ => true

/-- The quire of a port in the block of a failed warden (R562). -/
def failedBlock (s : State) (p : Nat) : Option QuireId :=
  (inRun (p / 0x10000) 0x10 8).bind (fun q => if (s.quire q).failed then some q else none)

/-! ### What a port reads -/

/-- CORE_CTL: GATED once the core's clock is off (R363). -/
def Core.ctlBits (k : Core) : W64 :=
  let t := k.ctl
  bit64 t.wen 0 ||| at64 t.wlvl.toNat 1 ||| bit64 k.clockOff 4 ||| bit64 t.cks 5 ||| bit64 t.iso 6 ||| bit64 t.run 7
/-- INT_ROUTE (R354). -/
def Route.bits (r : Route) : W64 :=
  at64 r.cores.toNat 0 ||| at64 r.lvl.toNat 8 ||| bit64 r.one 11 ||| bit64 r.en 12 ||| bit64 r.pnd 13
/-- CXT and SE_XCTX (R316). -/
def Ctx.bits (x : Ctx) : W64 := at64 x.root.toNat 0 ||| at64 x.tag.toNat 24 ||| bit64 x.v 36
/-- A context written (R316). -/
def Ctx.ofBits (v : W64) : Ctx := ⟨v.setWidth 24, v.extractLsb' 24 12, v.getLsbD 36⟩
/-- The ports of an engine (R284). -/
def seRead (x : Engine) (n : Nat) : W64 :=
  match n with
  | 0 => bit64 x.en 0 ||| bit64 x.halt 1 ||| bit64 x.pfe 3 ||| bit64 x.cen 4
  | 1 => bit64 x.busy 0 ||| bit64 x.hlt 1 ||| bit64 x.err 2 ||| bit64 x.mwe 3 ||| at64 x.lst.toNat 8
  | 2 => x.rbaseNew.getD x.rbase
  | 3 => (x.rcfgNew.getD x.rcfg).setWidth 64
  | 4 => x.head.setWidth 64
  | 5 => x.tail.setWidth 64
  | 6 => (x.xctxNew.getD x.xctx).bits
  | 7 => x.krr.setWidth 64
  | 8 => x.maddr.setWidth 64
  | 10 => x.fail ++ x.done
  | _ => 0
/-- DIR_CFG (R229). -/
def DirCfg.bits (d : DirCfg) : W64 := at64 d.logn.toNat 0 ||| at64 d.base.toNat 5
/-- The journal ports (R262). -/
def jnlRead (s : State) (n : Nat) : W64 :=
  let j := s.jnl
  match n with
  | 0 => bit64 j.pen 0 ||| bit64 j.rpe 1 ||| bit64 j.hde 2
  | 1 => jnlStat s
  | 2 => j.next
  | 3 => j.repl
  | 4 => j.hbm
  | 5 => j.host
  | 6 => j.dur
  | 7 => at64 j.hbase.toNat 0 ||| at64 j.logh.toNat 40
  | 8 => at64 j.qaddr.toNat 12
  | 9 => j.logq.setWidth 64
  | 10 => j.mlo
  | 11 => j.mhi
  | 12 => at64 j.msrc.toNat 0 ||| bit64 j.mv 4
  | _ => 0
/-- HC_CALT: the next non-zero multiple of the period (R417, R421). -/
def calNext (s : State) : W64 :=
  if s.hbm.rdy then BitVec.ofNat 64 ((s.tmr.toNat / calPeriod + 1) * calPeriod) else 0
/-- The HBM controller's ports (R417). -/
def hcRead (s : State) (n : Nat) : W64 :=
  let h := s.hbm
  match n with
  | 0 => h.cm.setWidth 64
  | 1 =>
    bit64 h.rdy 0 ||| bit64 h.sr 1 ||| bit64 h.cal 2 ||| bit64 h.tf 3 ||| bit64 h.zf 4 ||| at64 h.tr.toNat 5
      ||| at64 h.nrep.toNat 8 ||| at64 h.parc.toNat 16
  | 2 => at64 h.temp.toNat 0 ||| bit64 h.tempV 8
  | 3 => at64 h.per.toNat 0 ||| at64 h.pos.toNat 8 ||| at64 h.pass.toNat 44
  | 4 => at64 h.win.toNat 0 ||| at64 h.wmin.toNat 32 ||| at64 h.rmin.toNat 40 ||| bit64 h.low 48
  | 5 => calNext s
  | 6 => h.thr.setWidth 64
  | 7 => at64 h.injAddr.toNat 0 ||| at64 h.injMode.toNat 36 ||| bit64 h.injArm 38
  | 8 =>
    at64 h.logAddr.toNat 0 ||| at64 h.logPc.toNat 36 ||| bit64 h.logUe 40 ||| bit64 h.logScr 41 ||| bit64 h.logV 63
  | _ => 0
/-- RING_STAT.ST (R448). -/
def RingSt.code : RingSt → Nat
  | .off => 0 | .listen => 1 | .insert => 2 | .hello => 3 | .census => 4 | .joined => 5 | .left => 6
/-- The ring ports (R451). -/
def ringRead (g : Ring) (n : Nat) : W64 :=
  match n with
  | 0 => bit64 g.jen 0 ||| bit64 g.enca 1 ||| bit64 g.encb 2
  | 1 =>
    at64 g.st.code 0 ||| bit64 g.byp 3 ||| bit64 g.pa.up 4 ||| bit64 g.pb.up 5 ||| bit64 g.dup 6 ||| bit64 g.encm 7
      ||| bit64 g.acc 8 ||| at64 g.nmem.toNat 16 ||| at64 g.rjn.toNat 24 ||| at64 g.why.toNat 28
  | 2 => at64 g.pos.toNat 0 ||| bit64 g.pv 4 ||| at64 g.lvt.toNat 8 ||| at64 g.rjmax.toNat 16
  | 3 => at64 g.pb.nPos.toNat 0 ||| bit64 g.pb.nKnown 4 ||| at64 g.pa.nPos.toNat 8 ||| bit64 g.pa.nKnown 12
  | 4 => g.pb.nSerial
  | 5 => g.pa.nSerial
  | _ => 0
/-- The ports of one ring port (R451). -/
def rpRead (r : RingPort) (n : Nat) : W64 :=
  match n with
  | 0 => at64 r.lk.toNat 0 ||| bit64 r.algn 4 ||| bit64 r.up 5 ||| bit64 r.enc 6 ||| at64 r.txSlot.val 7
  | 1 => r.rsnd ++ r.rlk ++ r.auth ++ r.she
  | 2 => r.slots ++ r.mrg
  | _ => 0
/-- The host interface's ports (R470). -/
def hiRead (s : State) (n : Nat) : W64 :=
  let h := s.host
  match n with
  | 0 => bit64 h.b4e 0
  | 1 => at64 h.lw.toNat 0 ||| at64 h.ls.toNat 6 ||| bit64 h.lup 10 ||| bit64 h.pwe 11 ||| at64 h.nvf.toNat 16
  | 2 => h.evt.setWidth 64
  | 3 => at64 h.evec.toNat 0 ||| bit64 h.een 7 ||| at64 h.emsk.toNat 8
  | _ =>
    (List.range 64).foldl (fun (acc : W64) i =>
      acc ||| bit64 ((s.qps.toList.getD (64 * (n - 4) + i) QueuePair.reset).stop) i) 0
/-- CQ_BIND (R459). -/
def Bind.bits (b : Bind) : W64 :=
  at64 b.mld.toNat 0 ||| at64 b.eng.val 6 ||| at64 b.win.val 10 ||| at64 b.ack.toNat 14 ||| at64 b.fn.val 16
    ||| at64 b.vec.toNat 20 ||| bit64 b.ve 27 ||| at64 b.qq.val 28 ||| at64 b.qs.toNat 31 ||| bit64 b.qe 36
/-- CQ_BIND written (R459). -/
def Bind.ofBits (v : W64) : Bind :=
  { mld := v.setWidth 6, eng := Fin.ofNat 16 (fieldN v 6 4), win := Fin.ofNat 16 (fieldN v 10 4), ack := v.extractLsb' 14 2
    fn := Fin.ofNat 16 (fieldN v 16 4), vec := v.extractLsb' 20 7, ve := v.getLsbD 27, qq := Fin.ofNat 8 (fieldN v 28 3)
    qs := v.extractLsb' 31 5, qe := v.getLsbD 36 }
/-- The ports of a queue pair (R459). -/
def cqRead (x : QueuePair) (n : Nat) : W64 :=
  match n with
  | 0 => at64 x.sqb.toNat 12
  | 1 => at64 x.cqb.toNat 12
  | 2 => at64 x.sqn.toNat 0 ||| at64 x.cqn.toNat 16
  | 3 => x.bind.bits
  | 4 => x.cores
  | 5 => at64 x.ith.toNat 0 ||| at64 x.itt.toNat 8
  | 6 =>
    at64 x.sqh.toNat 0 ||| at64 x.cqt.toNat 16 ||| bit64 x.en 29 ||| bit64 x.stop 30 ||| bit64 x.ph 31
      ||| at64 x.why.toNat 32 ||| bit64 x.ovf 36
  | 8 => x.dbv
  | _ => 0
/-- STW_STAT.BST (R480). -/
def Bst.code : Bst → Nat
  | .rom => 0 | .verify => 1 | .hbm => 2 | .fill => 3 | .ready => 4 | .held => 5 | .recovery => 6 | .bootfail => 7
  | .haltsafe => 8 | .vendor => 9
/-- STW_ID.PART (R490). -/
def Part.code : Part → Nat
  | .a24c => 1 | .a24e => 2 | .a16c => 3
/-- STW_ID, STW_SN, STW_STAT, STW_FW and STW_FUSE (R490). -/
def stwRead (s : State) (n : Nat) : W64 :=
  let w := s.stw
  match n with
  | 0 => at64 0xB0 0 ||| at64 s.part.code 8 ||| at64 Config.romVersion.toNat 16
  | 1 => s.serial
  | 2 =>
    at64 w.bst.code 0 ||| at64 w.slot.toNat 4 ||| bit64 w.fuses.owned 6 ||| at64 w.dbg.toNat 7 ||| at64 w.pwf.toNat 9
      ||| bit64 w.plk 13 ||| bit64 w.fat 14 ||| bit64 w.hsf 15 ||| bit64 w.alrt 16 ||| at64 w.bfc.toNat 24
  | 3 => at64 w.fwv.toNat 0 ||| at64 w.sv.toNat 16
  | 4 =>
    at64 w.fuses.prog.toNat 0 ||| at64 w.fuses.rev.toNat 4 ||| at64 w.fuses.unl.toNat 8 ||| at64 (w.fuses.floor % 64) 13
  | _ => 0
/-- STW_CMD (R490). -/
def stwCmdRead (w : Steward) : W64 :=
  at64 w.cmdLen.toNat 0 ||| bit64 w.cmdBusy 14 ||| bit64 w.cmdDone 15 ||| at64 w.rlen.toNat 16
/-- The ports of control-store loading (R399). -/
def mcRead (w : Steward) (n : Nat) : W64 :=
  match n with
  | 0 => at64 w.mcQm.toNat 8
  | 1 => at64 w.mcAddr.toNat 0 ||| bit64 w.mcHbm 63
  | 2 => bit64 w.mcBusy 0 ||| bit64 w.mcDone 1 ||| at64 w.mcErr.toNat 8 ||| at64 w.mcQd.toNat 16
  | 3 => bit64 w.mcOcs 0
  | _ => 0
/-- A quad of the in-band buffer, byte j in bits [8j + 7:8j] (R488). -/
def bufRead (w : Steward) (i : Nat) : W64 :=
  (List.range 8).foldl (fun (acc : W64) j => acc ||| at64 (w.buf.get (8 * i + j)).toNat (8 * j)) 0
/-- PWR_STAT.ST (R510). -/
def PwrSt.code : PwrSt → Nat
  | .run => 0 | .trim => 1 | .idle => 2 | .dormant => 3

/-- What a register reads; a write-only one reads 0 (R9). -/
def Port.read (s : State) : Port → W64
  | .coreCtl c => (s.core c).ctlBits ||| bit64 s.pwr.trip 4
  | .mbxSend _ => 0
  | .intRoute q i => (s.quire q).routes[i].bits
  | .intSet _ => 0
  | .cxt c => (s.core c).cxt.bits
  | .tlbShoot q => (s.quire q).shoot.bits
  | .swinCfg c w => (s.window c w).bits
  | .se e n => seRead (s.eng e) n.val
  | .dirCfg => s.dir.bits
  | .dirSeed1 => s.dir.seed1
  | .dirSeed2 => s.dir.seed2
  | .postCnt => s.postCnt
  | .postRef => s.postRef
  | .jnl n => jnlRead s n.val
  | .hc n => hcRead s n.val
  | .hcEc p => 0#16 ++ s.hbm.ec[p].pr ++ s.hbm.ec[p].ue ++ s.hbm.ec[p].ce
  | .ring n => ringRead s.ring n.val
  | .rp p n => rpRead (s.rp p) n.val
  | .hi n => hiRead s n.val
  | .cq n i => cqRead (s.qp n) i.val
  | .stw n => stwRead s n.val
  | .stwCmd => stwCmdRead s.stw
  | .stwLogn => s.stw.logNext.setWidth 64
  | .stwMr m w => s.stw.mr[m].extractLsb' (320 - 64 * w.val) 64
  | .mc n => mcRead s.stw n.val
  | .buf i => bufRead s.stw i.val
  | .clkCfg => s.pwr.ssc.setWidth 64
  | .clkStat => bit64 s.pwr.lock 0 ||| bit64 s.pwr.plock 1 ||| at64 s.pwr.ssca.toNat 2 ||| bit64 s.pwr.rfl 5
  | .pwrCtl => at64 s.pwr.req.toNat 0 ||| at64 s.pwr.tq.toNat 8 ||| at64 s.pwr.gt.toNat 16
  | .pwrStat =>
    at64 s.pwr.st.code 0 ||| bit64 s.pwr.busy 3 ||| bit64 s.pwr.ref 4 ||| at64 s.pwr.why.toNat 5 ||| at64 s.pwr.gq.toNat 8
      ||| bit64 s.pwr.dax 16
  | .thmStat =>
    at64 s.pwr.tj.toNat 0 ||| bit64 s.pwr.tjV 8 ||| at64 s.pwr.lvl.toNat 9 ||| bit64 s.pwr.trip 11 ||| bit64 s.pwr.htrip 12
      ||| at64 s.pwr.tcnt.toNat 16
  | .thmCfg => s.pwr.ton.setWidth 64
  | .rstStat =>
    bit64 s.pwr.cld 0 ||| at64 s.pwr.ws.toNat 1 ||| bit64 s.pwr.trp 3 ||| at64 s.pwr.uvr.toNat 16 ||| at64 s.pwr.nwr.toNat 32
  | .ioCfg => at64 s.pwr.drv.toNat 0 ||| at64 s.pwr.slw.toNat 2

/-! ### What a write does -/

/-- CORE_CTL takes a value written (R363, R373). -/
def coreCtlWrite (s : State) (c : CoreId) (v : W64) : State :=
  let s1 := s.modCore c (fun k => { k with ctl := { k.ctl with wen := v.getLsbD 0, wlvl := v.extractLsb' 1 3 } })
  if v.getLsbD 8 then coreRst s1 c else s1
/-- INT_ROUTE takes a value written; clearing PND takes the messages that would have gone with it (R354, R570). -/
def routeWrite (s : State) (q : QuireId) (i : Fin 64) (v : W64) : State :=
  let x := s.quire q
  let r := x.routes[i]
  let clear := v.getLsbD 13
  s.setQuire q { x with routes := x.routes.set i { r with
    cores := v.setWidth 8, lvl := v.extractLsb' 8 3, one := v.getLsbD 11, en := v.getLsbD 12, pnd := r.pnd && !clear
    msgs := if clear then [] else r.msgs } }
/-- The ports of an engine (R284). -/
def seWrite (s : State) (who : Accessor) (e : EngId) (n : Nat) (v : W64) : State :=
  match n with
  | 0 => seCtlWrite s e (v.getLsbD 0) (v.getLsbD 1) (v.getLsbD 2) (v.getLsbD 3) (v.getLsbD 4)
  | 1 => s.modEng e (fun x => { x with err := x.err && !v.getLsbD 2, mwe := x.mwe && !v.getLsbD 3 })
  | 2 => s.modEng e (fun x => if x.busy then { x with rbaseNew := some v } else { x with rbase := v, ahead := [] })
  | 3 => s.modEng e (fun x =>
      if x.busy then { x with rcfgNew := some (v.setWidth 4) } else { x with rcfg := v.setWidth 4, ahead := [] })
  | 4 => seHeadWrite (drainFor s who) e (v.setWidth 32)
  | 6 => s.modEng e (fun x => if x.busy then { x with xctxNew := some (Ctx.ofBits v) } else { x with xctx := Ctx.ofBits v })
  | 7 => s.modEng e (fun x => { x with krr := v.setWidth 32 })
  | 8 => s.modEng e (fun x => { x with maddr := v.setWidth 12 })
  | 9 => seMdataWrite s e v
  | _ => s
/-- The directory's configuration changes, in every core that uses it (R229). -/
def setDir (s : State) (d : DirCfg) : State := { s with dir := d, cores := s.cores.map (fun (k : Core) => { k with dir := d }) }
/-- The journal ports (R262). -/
def jnlWrite (s : State) (n : Nat) (v : W64) : State :=
  match n with
  | 0 => jnlCtlWrite s v
  | 2 => writeNext s v
  | 6 => writeDur s v
  | 7 => { s with jnl := { s.jnl with hbase := v.setWidth 36, logh := v.extractLsb' 40 5 } }
  | 8 => { s with jnl := { s.jnl with qaddr := v.extractLsb' 12 52 } }
  | 9 => { s with jnl := { s.jnl with logq := v.setWidth 5 } }
  | _ => s
/-- The HBM controller's ports (R417). -/
def hcWrite (s : State) (n : Nat) (v : W64) : State :=
  match n with
  | 0 => { s with hbm := { s.hbm with cm := v.setWidth 2 } }
  | 3 => { s with hbm := { s.hbm with per := v.setWidth 8 } }
  | 6 => { s with hbm := { s.hbm with thr := v.setWidth 16 } }
  | 7 => { s with hbm := { s.hbm with injAddr := v.setWidth 36, injMode := v.extractLsb' 36 2, injArm := v.getLsbD 38 } }
  | 8 => { s with hbm := { s.hbm with logV := s.hbm.logV && !v.getLsbD 63 } }
  | _ => s
/-- HC_EC of a pseudo-channel: source 46 may be raised again once CE is written below THR (R417). -/
def hcEcWrite (s : State) (p : Fin 16) (v : W64) : State :=
  let ce : W16 := v.setWidth 16
  modEc s p (fun e =>
    { e with ce := ce, ue := v.extractLsb' 16 16, pr := v.extractLsb' 32 16, raised := e.raised && decide (s.hbm.thr.toNat ≤ ce.toNat) })
/-- The ring ports (R451). A position written may let a device in OFF begin to join (R448). -/
def ringWrite (s : State) (n : Nat) (v : W64) : State :=
  match n with
  | 0 => ringCtlWrite s v
  | 2 => tryListen (s.modRing (fun g => { g with
      pos := v.setWidth 4, pv := v.getLsbD 4, lvt := v.extractLsb' 8 8, rjmax := v.extractLsb' 16 4 }))
  | _ => s
/-- RP_ERR of a ring port (R451). -/
def rpWrite (s : State) (p : RPort) (n : Nat) (v : W64) : State :=
  match n with
  | 1 => s.modRp p (fun r => { r with
      she := v.setWidth 16, auth := v.extractLsb' 16 16, rlk := v.extractLsb' 32 16, rsnd := v.extractLsb' 48 16 })
  | _ => s
/-- The host interface's ports (R470). -/
def hiWrite (s : State) (n : Nat) (v : W64) : State :=
  match n with
  | 0 => { s with host := { s.host with b4e := v.getLsbD 0 } }
  | 1 => { s with host := { s.host with pwe := s.host.pwe && !v.getLsbD 11 } }
  | 2 => { s with host := { s.host with evt := s.host.evt &&& ~~~(v.setWidth 6) } }
  | 3 => { s with host := { s.host with evec := v.setWidth 7, een := v.getLsbD 7, emsk := v.extractLsb' 8 6 } }
  | _ => s
/-- The ports of a queue pair (R459). The host's writes of CQ_CMPL are ignored. -/
def cqWrite (s : State) (who : Accessor) (n : QpId) (i : Nat) (v : W64) : State :=
  match i with
  | 0 => s.modQp n (fun x => { x with sqb := v.extractLsb' 12 52 })
  | 1 => s.modQp n (fun x => { x with cqb := v.extractLsb' 12 52 })
  | 2 => cqSizeWrite s n v
  | 3 => s.modQp n (fun x => { x with bind := Bind.ofBits v })
  | 4 => s.modQp n (fun x => { x with cores := v })
  | 5 => s.modQp n (fun x => { x with ith := v.setWidth 8, itt := v.extractLsb' 8 16 })
  | 6 => s.modQp n (fun x => { x with ovf := x.ovf && !v.getLsbD 36 })
  | 7 => if who == .host then s else cqCmplWrite s n v
  | _ => s
/-- STW_CMD: LEN, GO while BUSY is 0, and DONE cleared by a 1 (R488, R490). -/
def stwCmdWrite (s : State) (v : W64) : State :=
  s.modStw (fun w => { w with
    cmdLen := v.setWidth 13, cmdDone := w.cmdDone && !v.getLsbD 15, cmdBusy := w.cmdBusy || v.getLsbD 13 })
/-- The ports of control-store loading (R399). -/
def mcWrite (s : State) (n : Nat) (v : W64) : State :=
  match n with
  | 0 => s.modStw (fun w => { w with mcQm := v.extractLsb' 8 8, mcGo := w.mcGo || (v.getLsbD 0 && !w.mcBusy) })
  | 1 => s.modStw (fun w => { w with mcAddr := v.setWidth 63, mcHbm := v.getLsbD 63 })
  | 2 => s.modStw (fun w => { w with mcDone := w.mcDone && !v.getLsbD 1 })
  | _ => s
/-- A quad of the in-band buffer; ignored while a command runs (R488). -/
def bufWrite (s : State) (i : Nat) (v : W64) : State :=
  if s.stw.cmdBusy then s
  else s.modStw (fun w => { w with buf := w.buf.write (8 * i) (natBytesLE 8 v.toNat) })

/-- A write of a register; a read-only one ignores it (R9). A write of CXT leaves the core's instruction stream as it is: of the
words after VFENCE that may have been fetched under the old context, none counts as fetched ahead (R317; DESIGN CHOICE,
notes/assumptions/214.md). -/
def Port.write (s : State) (who : Accessor) (v : W64) : Port → State
  | .coreCtl c => coreCtlWrite s c v
  | .mbxSend c => mailboxPut s c (senderOf who) (v.setWidth 56)
  | .intRoute q i => routeWrite s q i v
  | .intSet q => intSetWrite s q v
  | .cxt c => s.modCore c (fun k => { k with cxt := Ctx.ofBits v })
  | .tlbShoot q => shootWrite s q v
  | .swinCfg c w => swinWrite s c w v
  | .se e n => seWrite s who e n.val v
  | .dirCfg => setDir s { s.dir with logn := v.setWidth 5, base := v.extractLsb' 5 19 }
  | .dirSeed1 => setDir s { s.dir with seed1 := v }
  | .dirSeed2 => setDir s { s.dir with seed2 := v }
  | .postCnt => s
  | .postRef => s
  | .jnl n => jnlWrite s n.val v
  | .hc n => hcWrite s n.val v
  | .hcEc p => hcEcWrite s p v
  | .ring n => ringWrite s n.val v
  | .rp p n => rpWrite s p n.val v
  | .hi n => hiWrite s n.val v
  | .cq n i => cqWrite s who n i.val v
  | .stw _ => s
  | .stwCmd => stwCmdWrite s v
  | .stwLogn => s
  | .stwMr _ _ => s
  | .mc n => mcWrite s n.val v
  | .buf i => bufWrite s i.val v
  | .clkCfg => { s with pwr := { s.pwr with ssc := v.setWidth 3, sscSince := s.now } }
  | .clkStat => s
  | .pwrCtl => pwrCtlWrite s v
  | .pwrStat => { s with pwr := { s.pwr with ref := s.pwr.ref && !v.getLsbD 4, dax := s.pwr.dax && !v.getLsbD 16 } }
  | .thmStat => s
  | .thmCfg => { s with pwr := { s.pwr with ton := v.setWidth 8 }.tracked s.now }
  | .rstStat => { s with pwr := { s.pwr with uvr := s.pwr.uvr &&& ~~~(v.extractLsb' 16 10) } }
  | .ioCfg => { s with pwr := { s.pwr with drv := v.setWidth 2, slw := v.extractLsb' 2 2 } }

/-! ### IN and OUT at the block that holds the port (R17, R77, R561, R562) -/

/-- The value that an IN brings, with the log of an access to a failed warden's block. -/
def devRead (s : State) (p : Nat) : State × W64 :=
  match failedBlock s p with
  | some q => (logEvent s .failedWardenAccess (BitVec.ofNat 16 q.val), 0xFFFFFFFFFFFFFFFF#64)
  | none => (s, match devPort p with | some r => r.read s | none => 0)
/-- What an OUT does. -/
def devWrite (s : State) (who : Accessor) (p : Nat) (v : W64) : State :=
  match failedBlock s p with
  | some q => logEvent s .failedWardenAccess (BitVec.ofNat 16 q.val)
  | none => match devPort p with | some r => r.write s who v | none => s

/-- The block of a port: an engine, a warden, or another block of R560. -/
def blockOf (p : Nat) : Nat := if p / 0x10000 = 0x20 then p / 0x1000 else p / 0x10000

/-- The ports that a run of BAR0 bytes touches. -/
def bar0Ports (off len : Nat) : List Nat := (List.range ((off % 8 + len + 7) / 8)).map (fun i => off / 8 + i)

/-- The number of a sender of accesses in the order of R17. -/
def accSource : Accessor → Nat
  | .core c => srcCore c
  | .steward => srcSteward
  | .host => srcPcie
/-- The age of an access. -/
def PortAcc.age (a : PortAcc) : Age := ⟨a.cycle, accSource a.who, a.ord, a.ord⟩
/-- The blocks that an access reaches. -/
def PortAcc.blocks (a : PortAcc) : List Nat := (bar0Ports a.off a.len).map blockOf

/-- An older access to a block has still to be served (R17, R455). -/
def olderAccess (s : State) (a : Age) (blk : Nat) : Bool :=
  s.accs.any (fun b => b.age.before a && b.blocks.contains blk)
    || (List.finRange 64).any (fun c =>
      (s.core c).outq.any (fun o => (o.entry.age (srcCore c) o.stamp).before a && blockOf o.port.toNat == blk)
        || (s.core c).longs.any (fun o =>
          match o.op, o.res, o.entry with
          | .devIn p, none, some t => (t.age (srcCore c) o.stamp).before a && blockOf p.toNat == blk
          | _, _, _ => false))

/-- An older access of the same sender has still to be served: a core's OUTs reach their ports in program order (R77), and the
accesses of the host and of the Steward are taken in the order in which they come (DESIGN CHOICE, notes/assumptions/217.md). -/
def olderOwn (s : State) (a : Age) (who : Accessor) : Bool :=
  s.accs.any (fun b => b.age.before a && b.who == who)
    || (match who with
      | .core c => (s.core c).outq.any (fun o => (o.entry.age (srcCore c) o.stamp).before a)
      | _ => false)

/-- DEVICE_IN_SERVE: the block reads the port for the IN that waits on an L register. -/
def execDeviceInServe (c : CoreId) (l : LRegId) (s : State) : Out :=
  match (s.core c).long? (.l l) with
  | some { op := .devIn p, res := none, stamp := st, entry := some t, .. } =>
    if olderAccess s (t.age (srcCore c) st) (blockOf p.toNat) || !s.spineRuns then .next s
    else
      let (s1, v) := devRead s p.toNat
      .next (s1.modCore c (fun k => k.modLong (.l l) (fun o => { o with res := some (.l v false) })))
  | _ => .next s

/-- DEVICE_OUT_ACCEPT: the block writes the port for the core's oldest OUT, whose entry leaves its partition. -/
def execDeviceOutAccept (c : CoreId) (s : State) : Out :=
  match (s.core c).outq with
  | [] => .next s
  | o :: _ =>
    let a := o.entry.age (srcCore c) o.stamp
    if olderAccess s a (blockOf o.port.toNat) || olderOwn s a (.core c) || !s.spineRuns then .next s
    else .next ((devWrite s (.core c) o.port.toNat o.val).modCore c (fun k => { k with outq := k.outq.tail }))

/-! ### What the host reaches (R516, R565) -/

/-- While the mesh spine is gated in Dormant the host reaches only the Steward's block and the journal ports (R516). -/
def dormantServes (p : Nat) : Bool :=
  decide (0x700000 ≤ p) || (match devPort p with | some (.jnl _) => true | _ => false)
/-- A port is one that BAR0 reaches (R565, R566). -/
def hostReg (p : Nat) : Option Port :=
  if p < 0x100000 then none else match devPort p with | some r => if r.host then some r else none | none => none
/-- What the host reads of a port. -/
def hostRead (s : State) (p : Nat) : W64 :=
  if !s.pwr.spine && !dormantServes p then 0 else match hostReg p with | some r => r.read s | none => 0
/-- A host access that Dormant does not serve sets DAX. -/
def markDax (s : State) (p : Nat) : State :=
  if !s.pwr.spine && !dormantServes p then { s with pwr := { s.pwr with dax := true } } else s
/-- What the host's write of a port does. -/
def hostWrite (s : State) (p : Nat) (v : W64) : State :=
  if !s.pwr.spine && !dormantServes p then markDax s p
  else match hostReg p with | some r => r.write s .host v | none => s

/-! ### Accesses that wait for older ones (R17, R455) -/

/-- The host's read of up to 64 bytes is served; one that reaches a port of a failed warden completes with Completer Abort
(R23, R455). -/
def hostReadDo (s : State) (off len : Nat) : State :=
  if (bar0Ports off len).any (fun p => (failedBlock s p).isSome) then s.send .cplAbort
  else
    let byte := fun (i : Nat) => (hostRead s ((off + i) / 8)).extractLsb' (8 * ((off + i) % 8)) 8
    ((bar0Ports off len).foldl markDax s).send (.cplData ((List.range len).map byte) false)

/-- The block serves an access: what a write does, or the host's read. -/
def accDo (s : State) (a : PortAcc) : State :=
  let p := a.off / 8
  match a.val, a.who with
  | none, _ => hostReadDo s a.off a.len
  | some v, .host => if (failedBlock s p).isSome then s else hostWrite s p v
  | some v, w => devWrite s w p v

/-- An access waits: an older one stands at one of its blocks, or one of its own sender. -/
def accWaits (s : State) (a : PortAcc) : Bool := a.blocks.any (olderAccess s a.age) || olderOwn s a.age a.who

/-- An access to a port, or of the host to a run of bytes, reaches its block: it is served, or it waits there. -/
def portAccess (s : State) (who : Accessor) (off len : Nat) (val : Option W64) : State :=
  let a : PortAcc := ⟨who, off, len, val, s.now, s.stamp⟩
  if accWaits s a then { s.stamped with accs := s.accs ++ [a] } else accDo s a

/-- The accesses that wait are served as far as they can be, oldest first. -/
def accServe (s : State) : State :=
  if !s.spineRuns then s
  else s.accs.foldl (fun s a => if accWaits s a then s else accDo { s with accs := s.accs.filter (· != a) } a) s

/-! ### BAR0 (R455, R516, R565) -/

/-- The size of BAR0. -/
def bar0Size : Nat := 0x4000000

/-- BAR0_READ of 1 to 64 bytes; a longer one reads no port. -/
def execBar0Read (off len : Nat) (s : State) : Out :=
  match s.reach 0 with
  | .ok =>
    .next (if bar0Size < off + len then s.send .cplUnsupported
      else if 64 < len then s.send .cplAbort
      else portAccess s .host off len none)
  | r => .next (refuseRead s r)

/-- BAR0_WRITE: exactly 8 bytes, aligned to 8. -/
def execBar0Write (off : Nat) (bytes : List Byte) (s : State) : Out :=
  match s.reach 0 with
  | .ok =>
    .next (if bar0Size < off + bytes.length then s.send .aerUnsupported
      else if bytes.length ≠ 8 ∨ off % 8 ≠ 0 then { s with host := { s.host with pwe := true } }
      else portAccess s .host off 8 (some (BitVec.ofNat 64 (beNat bytes.reverse))))
  | r => .next (refuseWrite s r)

/-! ### A plain field write (R9) -/

/-- REGISTER_WRITE of a core's own port below 0x1_0000, as its OUT writes it but for the return stack's spill (R36, R63). -/
def ownPortWrite (s : State) (c : CoreId) (p : Nat) (v : W64) : State :=
  let k := s.core c
  let set := fun (s : State) (k : Core) => s.setCore c ((corePortSet s k p v).commitAll (corePortOwn k p v))
  if k.portBusy p || (!k.sys.mode && tenantNoWrite p) then s
  else if p = 0x60 then set s.drawn { k with ahead := k.aheadFrom k.pc s.free }
  else set s k

/-- REGISTER_WRITE of a port by one of its accessors, device ports as an OUT or the host writes them, after the older accesses at
the block. A core writes while it executes, and in Tenant mode no port that is Service only (R17, R31, R36, R356). -/
def execRegisterWrite (who : Accessor) (port : BitVec 24) (v : W64) (s : State) : Out :=
  let p := port.toNat
  .next (match who with
    | .core c =>
      if !s.runs c then s
      else if p < 0x10000 then ownPortWrite s c p v
      else if (s.core c).sys.mode && s.pwr.spine then portAccess s who (8 * p) 8 (some v)
      else s
    | .steward => if p < 0x10000 ∨ (!s.pwr.spine && !dormantServes p) then s else portAccess s who (8 * p) 8 (some v)
    | .host => if p < 0x10000 then s else portAccess s who (8 * p) 8 (some v))

/-! ### A tick -/

/-- What the block does when no command waits: one mesh cycle passes; requests that waited are served, the DSUs make a step, resets
and transitions go on (R17, R373, R504, R512), stream pairs with nothing to run are gated in Idle (R513), and a second fatal fault
puts the device in halt-safe (R374). -/
def idleCycle (s : State) : State :=
  let t := tick s
  let s1 := accServe (bar4Serve (State.dropWaits { t with pwr := t.pwr.sscStep t.now }))
  secondFault (settlePower (settleResets ((List.finRange 16).foldl gateIdlePair (dsuTicks s1))))

end Sys2Proof.Machine
end

