-- ==== Sys2Proof/Machine/Mgmt.lean ====
section
/-!
DEFINITION. Management commands, on their transports and through the in-band buffer (17_steward_security.md R474, R482, R485 to
R489, R492, R493, R495 to R499).
-/
namespace Sys2Proof.Machine

/-! ### Paths and answers (R485, R486, R488, R489) -/

/-- The ROM monitor runs (R489). -/
def Bst.monitor : Bst → Bool
  | .bootfail => true | .recovery => true | .held => true | .haltsafe => true | _ => false

/-- Where a management command is served: by the firmware on its paths, and in which stages by the ROM monitor. -/
structure MgmtRule where
  smbus : Bool
  vdm : Bool
  inBand : Bool
  monitor : Bst → Bool

/-- Commands for every path, for MCTP, for SMBus and in-band, for SMBus alone. -/
def onAll (m : Bst → Bool) : MgmtRule := ⟨true, true, true, m⟩
def onMctp (m : Bst → Bool) : MgmtRule := ⟨true, true, false, m⟩
def onOwner (m : Bst → Bool) : MgmtRule := ⟨true, false, true, m⟩
def onSmbus : MgmtRule := ⟨true, false, false, fun _ => false⟩
/-- The firmware alone serves a command. -/
def noMonitor : Bst → Bool := fun _ => false
/-- The ROM monitor serves a command, but in HELD (R479). -/
def notHeld : Bst → Bool := fun b => b != .held
/-- The ROM monitor serves a command in RECOVERY. -/
def inRecovery : Bst → Bool := fun b => b == .recovery

/-- A path is one that the table gives. -/
def MgmtRule.allows (r : MgmtRule) : Path → Bool
  | .smbus => r.smbus | .vdm => r.vdm | .inBand => r.inBand | .doe => false

/-- A command arrives on a path: SMBus while the device is out of reset, PCIe VDM while the link is up, in-band once GO has been
written. DOE carries SPDM only. -/
def mgmtArrives (s : State) : Path → Bool
  | .smbus => s.awake
  | .vdm => s.awake && s.host.lup
  | .inBand => s.awake && s.stw.cmdBusy
  | .doe => false

/-- The 7-bit address at which the device answers on SMBus (R485). -/
def State.smbAddr (s : State) : BitVec 7 := 0x60#7 + (s.stw.straps.extractLsb' 2 3).setWidth 7
/-- The source that an answer on a path carries: the SMBus address; PCIe VDM has the PF's requester ID, 0 here. -/
def State.srcOf (s : State) : Path → BitVec 7
  | .smbus => s.smbAddr
  | _ => 0
/-- An answer as a vendor-defined PCI message: type 0x7E with Noward's PCI-SIG vendor ID (R485). -/
def vendorMessage (bytes : List Byte) : List Byte := 0x7E#8 :: natBytesBE 2 Config.vendorId.toNat ++ bytes

/-- The Steward answers: as a message over the transport, or in the buffer, where the response replaces the command. -/
def respond (s : State) (p : Path) (bytes : List Byte) : State :=
  match p with
  | .inBand => s.modStw (fun w => { w with
      buf := w.buf.write 0 bytes, rlen := BitVec.ofNat 13 bytes.length, cmdDone := true, cmdBusy := false })
  | p => s.send (.mgmt p (s.srcOf p) (vendorMessage bytes))

/-- A management command: no answer where nobody serves the path, status 0x02 where the path or the ROM monitor does not allow
it, else what it does. -/
def mgmt (s : State) (p : Path) (r : MgmtRule) (act : State → State × List Byte) : State :=
  let serve := fun (ok : Bool) =>
    if ok then (let (s1, bs) := act s; respond s1 p bs) else respond s p [stPath]
  if !mgmtArrives s p then s
  else if s.stw.bst.monitor then (if p == .smbus then serve (r.monitor s.stw.bst) else s)
  else serve (r.allows p)

/-! ### What each command does and answers (R486) -/

/-- A status alone. -/
def status (x : State × Byte) : State × List Byte := (x.1, [x.2])
/-- A quad in an answer, most significant byte first. -/
def quadBytes (v : W64) : List Byte := natBytesBE 8 v.toNat

/-- GET_STATUS. -/
def getStatusAct (s : State) : State × List Byte :=
  (s, stDone :: (List.range 5).flatMap (fun n => quadBytes (stwRead s n)))
/-- ACK_ALERT; the ROM monitor of BOOTFAIL and HALT-SAFE does not serve it. -/
def ackAlertAct (s : State) : State × List Byte := (s.modStw (fun w => { w with alrt := false }), [stDone])

/-- The bytes of log entry q, from RAM or from the persistent log (R491, R492). -/
def logBytes (s : State) (q : Nat) : Option (List Byte) :=
  let w := s.stw
  match w.log.find? (fun e => e.seq.toNat == q) with
  | some e => some e.bytes
  | none =>
    if q < w.flushed.toNat ∧ w.logNext.toNat ≤ q + 65536 then some (w.flash.read (logFlashAt q) 64) else none
/-- READ_LOG: the entries asked for, C after the highest of them, and the signature over C and the nonce. With no entry, C as it
stands. Without the fused key nothing is signed. -/
def readLogAct (first : BitVec 32) (count : Nat) (nonce : BitVec 384) (s : State) : State × List Byte :=
  if count = 0 ∨ 56 < count then (s, [stMalformed])
  else
    let qs := ((List.range count).map (fun i => first.toNat + i)).filter (fun q => (logBytes s q).isSome)
    let es := qs.flatMap (fun q => (logBytes s q).getD [])
    let c := match qs.getLast? with | some q => s.stw.chains.get q | none => s.stw.chain
    if s.stw.bfc = 4#8 then (s, stUnsigned :: es ++ digestBytes c)
    else (s, stDone :: es ++ digestBytes c ++ Config.watermarkSign (digestOf (digestBytes c ++ digestBytes nonce)))

/-- READ_JOURNAL: slots of the own tail or of the mirror, 32 bytes each. -/
def readJournalAct (mirror : Bool) (first : BitVec 16) (count : Nat) (s : State) : State × List Byte :=
  if count = 0 ∨ 64 < count ∨ 65536 < first.toNat + count then (s, [stMalformed])
  else
    let at_ := fun (i : Nat) => if mirror then mirrorSlot (first.toNat + i) else tailSlot (first.toNat + i)
    (s, stDone :: (List.range count).flatMap (fun i => bytesOfWords (s.phys.read (at_ i) 16)))

/-- READ_PORT: a port that BAR0 can read. -/
def readPortAct (port : BitVec 24) (s : State) : State × List Byte :=
  if (hostReg port.toNat).isNone || (failedBlock s port.toNat).isSome then (s, [stRefused])
  else (s, stDone :: quadBytes (hostRead s port.toNat))

/-- EXTEND_MR7. -/
def extendMr7Act (d : BitVec 384) (s : State) : State × List Byte := (extendMr s 7 (digestOf (digestBytes d)), [stDone])

/-- DEBUG_UNLOCK. -/
def debugUnlockAct (pw : List Byte) (s : State) : State × List Byte :=
  if pw.isEmpty || decide (32 < pw.length) then (s, [stMalformed]) else status (passwordAct s pw)

/-- VENDOR_CHALLENGE. -/
def vendorChallengeAct (s : State) : State × List Byte :=
  match vendorChallenge s with
  | (s1, some bs) => (s1, stDone :: bs)
  | (s1, none) => (s1, [stExhausted])

/-- The flash area of a target (R475). -/
def targetArea : ImageTarget → Nat × Nat
  | .slotA => (0, slotBytes) | .slotB => (slotBytes, slotBytes) | .ownerConfig => (0x800000, 0x10000)
/-- A target is the slot that the device booted from. -/
def isBooted (s : State) : ImageTarget → Bool
  | .slotA => s.stw.slot == 0#2 | .slotB => s.stw.slot == 1#2 | .ownerConfig => false
/-- Marks a target invalid, or not (R487). -/
def markTarget (s : State) (t : ImageTarget) (bad : Bool) : State :=
  s.modStw (fun w => match t with
    | .slotA => { w with badA := bad } | .slotB => { w with badB := bad } | .ownerConfig => { w with badCfg := bad })
/-- UPDATE_IMAGE: writes a part of the target, which is then invalid. -/
def updateImageAct (t : ImageTarget) (off : BitVec 32) (bytes : List Byte) (s : State) : State × List Byte :=
  let (base, len) := targetArea t
  if 4000 < bytes.length ∨ len < off.toNat + bytes.length then (s, [stMalformed])
  else if isBooted s t then (s, [stRefused])
  else
    ((markTarget s t true).modStw (fun w => { w with flash := w.flash.write (base + off.toNat) bytes }), [stDone])

/-- A target is acceptable by R477 or R481. -/
def targetOk (s : State) (t : ImageTarget) : Bool :=
  let img := fun (slot : Nat) => match imageCheck s.stw.fuses s.stw.flash slot with | .ok _ _ _ _ _ => true | _ => false
  match t with
  | .slotA => img 0
  | .slotB => img 1
  | .ownerConfig => (configCheck s.stw.fuses s.stw.flash).isSome
/-- COMMIT: the target is valid if it is acceptable. -/
def commitAct (t : ImageTarget) (s : State) : State × List Byte :=
  if isBooted s t then (s, [stRefused])
  else
    let ok := targetOk s t
    (markTarget s t !ok, [stDone, if ok then 1 else 0])
/-- In RECOVERY the ROM monitor resets the device once an image is accepted (R479). -/
def recoveryReset (s : State) (t : ImageTarget) (s1 : State) : State :=
  if s.stw.bst == .recovery && t != .ownerConfig && mgmtArrives s .smbus && targetOk s t then warmReset s1 0 else s1

/-! ### The commands on their paths -/

/-- GET_STATUS. -/
def execGetStatus (p : Path) (s : State) : Out := .next (mgmt s p (onAll Bst.monitor) getStatusAct)
/-- ACK_ALERT. -/
def execAckAlert (p : Path) (s : State) : Out := .next (mgmt s p (onAll noMonitor) ackAlertAct)
/-- READ_LOG (R492). -/
def execReadLog (p : Path) (first : BitVec 32) (count : Nat) (nonce : BitVec 384) (s : State) : Out :=
  .next (mgmt s p (onAll notHeld) (readLogAct first count nonce))
/-- READ_JOURNAL. -/
def execReadJournal (p : Path) (mirror : Bool) (first : BitVec 16) (count : Nat) (s : State) : Out :=
  .next (mgmt s p (onMctp notHeld) (readJournalAct mirror first count))
/-- READ_PORT. -/
def execReadPort (p : Path) (port : BitVec 24) (s : State) : Out := .next (mgmt s p (onMctp notHeld) (readPortAct port))
/-- OWNER_KEY (R474). -/
def execOwnerKey (p : Path) (r : OwnerKeyRecord) (s : State) : Out :=
  .next (mgmt s p (onOwner noMonitor) (fun s => status (ownerKeyAct s r)))
/-- RING_KEY (R493). -/
def execRingKey (p : Path) (r : RingKeyRecord) (s : State) : Out :=
  .next (mgmt s p (onAll noMonitor) (fun s => status (ringKeyAct s r)))
/-- EXTEND_MR7 (R482). -/
def execExtendMr7 (p : Path) (d : BitVec 384) (s : State) : Out := .next (mgmt s p (onAll noMonitor) (extendMr7Act d))
/-- DEBUG_UNLOCK (R496). -/
def execDebugUnlock (p : Path) (pw : List Byte) (s : State) : Out := .next (mgmt s p onSmbus (debugUnlockAct pw))
/-- DEBUG_LOCK (R495). -/
def execDebugLock (p : Path) (s : State) : Out := .next (mgmt s p (onOwner noMonitor) (fun s => (debugLock s, [stDone])))
/-- VENDOR_CHALLENGE (R498). -/
def execVendorChallenge (p : Path) (s : State) : Out := .next (mgmt s p onSmbus vendorChallengeAct)
/-- VENDOR_RESPONSE (R499). -/
def execVendorResponse (p : Path) (sig : List Byte) (s : State) : Out :=
  .next (mgmt s p onSmbus (fun s => status (vendorResponse s sig)))
/-- UPDATE_IMAGE (R487). -/
def execUpdateImage (p : Path) (t : ImageTarget) (off : BitVec 32) (bytes : List Byte) (s : State) : Out :=
  .next (mgmt s p (onOwner inRecovery) (updateImageAct t off bytes))
/-- COMMIT (R479, R487). -/
def execCommit (p : Path) (t : ImageTarget) (s : State) : Out :=
  let s1 := mgmt s p (onOwner inRecovery) (commitAct t)
  .next (if p == .smbus then recoveryReset s t s1 else s1)

/-! ### The in-band buffer (R488) -/

/-- A target by its code. -/
def targetOf : Nat → Option ImageTarget
  | 0 => some .slotA | 1 => some .slotB | 2 => some .ownerConfig | _ => none

/-- Runs a command that takes no arguments. -/
def noArgs (args : List Byte) (act : State → State × List Byte) (s : State) : State × List Byte :=
  if args.isEmpty then act s else (s, [stMalformed])

/-- The command of a code, with its argument bytes. -/
def inBandAct (code : Nat) (args : List Byte) (s : State) : State × List Byte :=
  let bad := (s, [stMalformed])
  match code with
  | 0x01 => noArgs args getStatusAct s
  | 0x02 => noArgs args ackAlertAct s
  | 0x03 =>
    if args.length = 53 then
      readLogAct (BitVec.ofNat 32 (numAt args 0 4)) (numAt args 4 1) (BitVec.ofNat 384 (numAt args 5 48)) s
    else bad
  | 0x06 => match Config.ownerKeyOf args with | some r => status (ownerKeyAct s r) | none => bad
  | 0x07 => match Config.ringKeyOf args with | some r => status (ringKeyAct s r) | none => bad
  | 0x08 => if args.length = 48 then extendMr7Act (BitVec.ofNat 384 (numAt args 0 48)) s else bad
  | 0x0A => noArgs args (fun s => (debugLock s, [stDone])) s
  | 0x0D =>
    match targetOf (numAt args 0 1) with
    | some t => if args.length < 5 then bad else updateImageAct t (BitVec.ofNat 32 (numAt args 1 4)) (args.drop 5) s
    | none => bad
  | 0x0E =>
    match targetOf (numAt args 0 1) with
    | some t => if args.length = 1 then commitAct t s else bad
    | none => bad
  | 0x04 => (s, [stPath])
  | 0x05 => (s, [stPath])
  | 0x09 => (s, [stPath])
  | 0x0B => (s, [stPath])
  | 0x0C => (s, [stPath])
  | _ => bad

/-- IN_BAND_COMMAND: the command in the buffer runs; the ROM monitor does not serve the buffer (R489). -/
def execInBandCommand (s : State) : Out :=
  if !mgmtArrives s .inBand || s.stw.bst.monitor then .next s
  else
    let len := s.stw.cmdLen.toNat
    let msg := s.stw.buf.read 0 len
    let (s1, bs) := if len = 0 ∨ 4096 < len then (s, [stMalformed]) else inBandAct (numAt msg 0 1) msg.tail s
    .next (respond s1 .inBand bs)

end Sys2Proof.Machine
end

