-- ==== Sys2Proof/Machine/Attest.lean ====
section
/-!
DEFINITION. SPDM attestation on its three transports, and the MCTP control messages (17_steward_security.md R483 to R485). The
message codes and the order that a connection must follow are those of the standards that the spec names (DSP0274, DSP0236;
PRESUMED, notes/assumptions/120.md and 121.md).
-/
namespace Sys2Proof.Machine

/-! ### Transports -/

/-- The connection of a transport: DOE, MCTP over SMBus, MCTP over PCIe VDM. -/
def connOf : Path → Option (Fin 3)
  | .doe => some 0 | .smbus => some 1 | .vdm => some 2 | .inBand => none

/-- An SPDM request arrives and is answered: by the firmware; in HELD by the ROM monitor over SMBus, where it is an identity
request (R479, R489, R500). -/
def spdmServes (s : State) (p : Path) (identity : Bool) : Bool :=
  let up := match p with | .smbus => s.awake | .inBand => false | _ => s.awake && s.host.lup
  up && (if s.stw.bst.monitor then p == .smbus && s.stw.bst == .held && identity else true)

/-- Changes a connection. -/
def modConn (s : State) (i : Fin 3) (f : Spdm → Spdm) : State := s.modStw (fun w => { w with spdm := w.spdm.set i (f w.spdm[i]) })

/-- ERROR, with a code. -/
def spdmError (s : State) (p : Path) (code : Byte) : State := s.send (.spdm p (s.srcOf p) 0x7F [code, 0])
/-- InvalidRequest, UnexpectedRequest, ResponseNotReady. -/
def errInvalid : Byte := 0x01
def errUnexpected : Byte := 0x04
def errNotReady : Byte := 0x42

/-- A request on a transport, answered by what it does. -/
def spdm (s : State) (p : Path) (identity : Bool) (act : State → Fin 3 → Spdm → State) : Out :=
  match connOf p with
  | some i => .next (if spdmServes s p identity then act s i s.stw.spdm[i] else s)
  | none => .next s

/-- A request that needs a negotiated connection. -/
def negotiated (p : Path) (act : State → Fin 3 → State) (s : State) (i : Fin 3) (x : Spdm) : State :=
  if x.algs then act s i else spdmError s p errUnexpected

/-! ### Connection (R484) -/

/-- GET_VERSION: 1.2 only; the connection begins again. -/
def execGetVersion (p : Path) (s : State) : Out :=
  spdm s p true (fun s i _ => (modConn s i (fun _ => { Spdm.zero with version := true })).send (.spdm p (s.srcOf p) 0x04 [0x12, 0x00]))

/-- CERT_CAP, CHAL_CAP and MEAS_CAP with signatures. -/
def capFlags : Nat := 0x02 + 0x04 + 0x10
/-- GET_CAPABILITIES. -/
def execGetCapabilities (p : Path) (s : State) : Out :=
  spdm s p true (fun s i x =>
    if x.version then (modConn s i (fun x => { x with caps := true, algs := false })).send (.spdm p (s.srcOf p) 0x61 (natBytesLE 4 capFlags))
    else spdmError s p errUnexpected)

/-- NEGOTIATE_ALGORITHMS: the device selects what it supports of what is offered: the measurement specification, the measurement
hash, the asymmetric algorithm and the hash. -/
def execNegotiateAlgorithms (p : Path) (p384 sha384 dmtf : Bool) (s : State) : Out :=
  spdm s p true (fun s i x =>
    if !x.caps then spdmError s p errUnexpected
    else
      (modConn s i (fun x => { x with algs := p384 && sha384 })).send
        (.spdm p (s.srcOf p) 0x63 ([if dmtf then 1 else 0] ++ natBytesLE 4 (if sha384 then 4 else 0) ++ natBytesLE 4 (if p384 then 0x80 else 0)
          ++ natBytesLE 4 (if sha384 then 2 else 0))))

/-! ### Certificates (R483) -/

/-- A number in n hexadecimal digits of ASCII, the most significant first. -/
def hexDigits (v : Nat) : Nat → List Byte
  | 0 => []
  | n + 1 =>
    let d := v / 16 ^ n % 16
    BitVec.ofNat 8 (if d < 10 then 0x30 + d else if Config.hexCapitals then 0x37 + d else 0x57 + d) :: hexDigits v n
/-- The certificate chain: the Noward root, the product authority, and the device certificate, whose subject serial number is
the fused serial number in 16 hexadecimal digits. -/
def certificateChain (s : State) : List Byte :=
  Config.rootCertificate ++ Config.authorityCertificate ++ Config.deviceCertificate (hexDigits s.serial.toNat 16)

/-- GET_DIGESTS: the digest of the chain in slot 0. -/
def execGetDigests (p : Path) (s : State) : Out :=
  spdm s p true (negotiated p (fun s _ => s.send (.spdm p (s.srcOf p) 0x01 ([0x01] ++ digestBytes (digestOf (certificateChain s))))))

/-- GET_CERTIFICATE: a portion of the chain in slot 0, its length and the length of what follows it. -/
def execGetCertificate (p : Path) (slot : Fin 8) (off len : BitVec 16) (s : State) : Out :=
  spdm s p true (negotiated p (fun s _ =>
    let chain := certificateChain s
    let part := (chain.drop off.toNat).take len.toNat
    if slot ≠ 0 ∨ chain.length ≤ off.toNat then spdmError s p errInvalid
    else
      s.send (.spdm p (s.srcOf p) 0x02
        ([0x00] ++ natBytesLE 2 part.length ++ natBytesLE 2 (chain.length - off.toNat - part.length) ++ part))))

/-! ### Signed answers (R484) -/

/-- A fresh nonce of the responder, and the state after it. -/
def responderNonce (s : State) : State × List Byte :=
  (s.modStw (fun w => { w with challenges := w.challenges + 1 }), (digestBytes (Config.randomNonce s.stw.challenges)).take 32)

/-- CHALLENGE_AUTH. -/
def challengeAuth (p : Path) (nonce : BitVec 256) (s : State) : State :=
  let (s1, n) := responderNonce s
  s1.send (.spdm p (s.srcOf p) 0x03
    ([0x00, 0x01] ++ digestBytes (digestOf (certificateChain s)) ++ n ++ Config.spdmSignature nonce s.stw.challenges))

/-- A measurement by its index: 1 to 8 MR0 to MR7, 9 to 16 the digests of the control stores of quires 0 to 7. -/
def measurement (s : State) (i : Nat) : Option (BitVec 384) :=
  if h : 1 ≤ i ∧ i ≤ 8 then some (s.stw.mr[i - 1]'(by omega))
  else if h : 9 ≤ i ∧ i ≤ 16 then some ((s.quires[i - 9]'(by omega)).image.digest)
  else none

/-- The blocks that an index asks for: none for 0, all for 0xFF. -/
def measured (s : State) (index : BitVec 8) : Option (List Byte) :=
  let block := fun (i : Nat) => (measurement s i).map (fun d => BitVec.ofNat 8 i :: digestBytes d)
  if index = 0#8 then some []
  else if index = 0xFF#8 then some ((List.range 17).flatMap (fun i => (block i).getD []))
  else block index.toNat

/-- MEASUREMENTS. -/
def measurements (p : Path) (index : BitVec 8) (signed : Bool) (nonce : BitVec 256) (s : State) : State :=
  match measured s index with
  | none => spdmError s p errInvalid
  | some bs =>
    let count : Byte := if index = 0#8 then 16 else BitVec.ofNat 8 (bs.length / 49)
    if signed then
      let (s1, n) := responderNonce s
      s1.send (.spdm p (s.srcOf p) 0x60 (count :: bs ++ n ++ Config.spdmSignature nonce s.stw.challenges))
    else s.send (.spdm p (s.srcOf p) 0x60 (count :: bs))

/-- A request that needs a signature: while the crypto engine is busy, which the spec ties to nothing that the state shows, it is
answered with ResponseNotReady and kept. -/
def needsSignature (p : Path) (i : Fin 3) (req : Option (BitVec 8) × BitVec 256) (now : State → State) (s : State) : State :=
  if s.free.getLsbD 0 then spdmError (modConn s.drawn i (fun x => { x with waiting := some req })) p errNotReady
  else now s.drawn

/-- CHALLENGE, for slot 0. -/
def execChallenge (p : Path) (slot : Fin 8) (nonce : BitVec 256) (s : State) : Out :=
  spdm s p true (negotiated p (fun s i =>
    if slot ≠ 0 then spdmError s p errInvalid else needsSignature p i (none, nonce) (challengeAuth p nonce) s))

/-- GET_MEASUREMENTS. -/
def execGetMeasurements (p : Path) (index : BitVec 8) (signed : Bool) (nonce : BitVec 256) (s : State) : Out :=
  spdm s p false (negotiated p (fun s i =>
    if signed && (measured s index).isSome then needsSignature p i (some index, nonce) (measurements p index true nonce) s
    else measurements p index signed nonce s))

/-- RESPOND_IF_READY completes what was answered with ResponseNotReady. -/
def execRespondIfReady (p : Path) (s : State) : Out :=
  spdm s p true (fun s i x =>
    match x.waiting with
    | none => spdmError s p errUnexpected
    | some (what, nonce) =>
      let s1 := modConn s i (fun x => { x with waiting := none })
      match what with
      | none => challengeAuth p nonce s1
      | some index => measurements p index true nonce s1)

/-! ### MCTP control (R485) -/

/-- An MCTP control message arrives: over SMBus or PCIe VDM; the ROM monitor serves SMBus only. -/
def mctpServes (s : State) : Path → Bool
  | .smbus => s.awake
  | .vdm => s.awake && s.host.lup && !s.stw.bst.monitor
  | _ => false
/-- The endpoint ID on a transport. -/
def eidOf (s : State) : Path → Byte
  | .vdm => s.stw.eidVdm
  | _ => s.stw.eid
/-- Answers a control message: a completion code and its data. -/
def mctp (s : State) (p : Path) (bytes : List Byte) : Out := .next (if mctpServes s p then s.send (.mctp p (s.srcOf p) bytes) else s)

/-- SET_ENDPOINT_ID: the bus owner assigns it; 0x00 and 0xFF are no endpoint IDs. -/
def execSetEndpointId (p : Path) (eid : Byte) (s : State) : Out :=
  if !mctpServes s p then .next s
  else if eid = 0x00 ∨ eid = 0xFF then mctp s p [0x02]
  else
    mctp (s.modStw (fun w => match p with | .vdm => { w with eidVdm := eid } | _ => { w with eid := eid })) p [0x00, 0x00, eid, 0x00]
/-- GET_ENDPOINT_ID. -/
def execGetEndpointId (p : Path) (s : State) : Out := mctp s p [0x00, eidOf s p, 0x00, 0x00]
/-- GET_MCTP_VERSION_SUPPORT. -/
def execGetMctpVersionSupport (p : Path) (s : State) : Out := mctp s p (0x00 :: Config.mctpVersions)
/-- GET_MESSAGE_TYPE_SUPPORT: SPDM and vendor-defined PCI, beside the control messages themselves. -/
def execGetMessageTypeSupport (p : Path) (s : State) : Out := mctp s p [0x00, 0x02, 0x05, 0x7E]

end Sys2Proof.Machine
end

