-- ==== Sys2Proof/Machine/Control.lean ====
section
/-!
DEFINITION. Waits, system calls, branches, block repeat and the status writes (04_integer_control_instructions.md R112 to
R122; R79, R87 to R91, R210, R368). XRET is in Returns.lean.
-/
namespace Sys2Proof.Machine

/-! ### Waits (R79, R121, R210) -/

/-- NOP (R121). -/
def execNop (c : CoreId) (s : State) : Out := issue s c (.nop c) plain (simple (fun k => (k, [])))

/-- LWAIT: every long op has delivered (R79). -/
def execLwait (c : CoreId) (s : State) : Out :=
  issue s c (.lwait c) plain (fun s k => if k.longs.isEmpty then .done s k [] .seq else .hold)

/-- A long op is an access that VFENCE still waits for: a store, compare or port read until it is done at its target, a
read, look-up or posting until it has delivered (R79, R223). -/
def LongOp.fenced (o : LongOp) : Bool :=
  match o.op with
  | .vst _ _ => o.res.isNone
  | .vput _ _ => o.res.isNone
  | .vcas _ _ _ => o.res.isNone
  | .devIn _ => o.res.isNone
  | .vld _ => true
  | .vget _ _ => true
  | .pop _ _ _ _ _ _ _ => true
  | .find _ _ _ _ _ => true
  | .post _ => true
  | .dswap _ _ _ => true
  | _ => false

/-- Every earlier Vat, HBM and device-port access of the core is complete (R79, R223). -/
def Core.fenceClear (k : Core) : Bool :=
  !k.longs.any LongOp.fenced && k.pushq.isEmpty && k.outq.isEmpty && !k.sbuf.any (fun e => !e.isLoc)

/-- VFENCE (R79). -/
def execVfence (c : CoreId) (s : State) : Out :=
  issue s c (.vfence c) plain (fun s k => if k.fenceClear then .done s k [] .seq else .hold)

/-- The floating results in flight complete: their flags reach SF and their requests are due (R205, R210). -/
def Core.settleFp (k : Core) : Core :=
  let isFp := fun (f : Flight) => match f.dst with | .fp _ _ => true | _ => false
  { k with flights := k.flights.filter (fun f => !isFp f) }.commitAll (k.flights.filter isFp)

/-- A core that an FBAR holds (R210, R359). -/
def Core.fbarWait (k : Core) (now : Nat) : Core :=
  let k1 := k.stall now none true
  { k1 with ctl := { k1.ctl with fbWait := true } }

/-- FBAR: waits for floating long ops, then takes a pending floating trap at the boundary after it (R210). -/
def execFbar (c : CoreId) (s : State) : Out :=
  match issue s c (.fbar c) plain (fun s k => if k.longs.any (fun o => o.fp.isSome) then .left s (k.fbarWait s.now)
      else .done s k.settleFp [] .seq) with
  | .next t =>
    let k := t.core c
    if k.icount != (s.core c).icount && k.ctl.asyncMc.isEmpty then
      match oldestReq k.fpDue with
      | some r => .next (t.setCore c (k.enterFloat r))
      | none => .next t
    else .next t
  | r => r

/-! ### System calls and the machine-check return (R122, R368) -/

/-- SVC n: illegal in Service mode (R122). -/
def execSvc (c : CoreId) (n : Fin 8) (s : State) : Out :=
  issue s c (.svc c n) ctlKind (fun s k =>
    if k.sys.mode then .illegal k.pc
    else
      .done s { k with sys := { k.sys with spc := k.pc + 1#32, sflFl := k.fl, sflMs := k.sys.ms, mode := true } } []
        (.jump k.sys.sve[n]))

/-- SRET (R122). -/
def execSret (c : CoreId) (s : State) : Out :=
  issue s c (.sret c) ⟨true, true⟩ (fun s k =>
    .done s { k with fl := k.sys.sflFl } (wrMs (k.sys.sflMs.getLsbD 0) (k.sys.sflMs.getLsbD 1)) (.jump k.sys.spc))

/-- MRET (R368). -/
def execMret (c : CoreId) (s : State) : Out :=
  issue s c (.mret c) ⟨true, true⟩ (fun s k =>
    .done s { k with sys := { k.sys with m := { k.sys.m with mcip := false } } }
      (wrMs (k.sys.m.mms.getLsbD 0) (k.sys.m.mms.getLsbD 1)) (.jump k.sys.m.mpc))

/-! ### Branches (R87, R112, R113) -/

/-- The address after the delay slot of a branch at the pc (R113). -/
def afterSlot (s : State) (c : CoreId) (k : Core) (len : Nat) : BitVec 32 :=
  let sl := k.pc + BitVec.ofNat 32 len
  sl + BitVec.ofNat 32 (slotLen s c k sl)
/-- The length of a slot that cannot be read draws a free value. -/
def slotDrawn (s : State) (c : CoreId) (k : Core) (len : Nat) : State :=
  if (peekWord s c k (k.pc + BitVec.ofNat 32 len)).isSome then s else s.drawn

/-- A taken branch: its slot executes, then the pc is the target. -/
def takeBranch (s : State) (k : Core) (target : BitVec 32) (undo : RsUndo) : Res :=
  .done s k [] (.slot ⟨target, k.pc, undo, none⟩)

/-- A relative target (R112). -/
def relTarget (k : Core) (v : BitVec 16) : BitVec 32 := k.pc + v.signExtend 32

/-- Bcc (R103, R113). -/
def execBcc (c : CoreId) (annul : Bool) (cond : BitVec 4) (v : BitVec 16) (s : State) : Out :=
  issue s c (.bcc c annul cond v) ctlKind (fun s k =>
    if testCond cond k.fl then takeBranch s k (relTarget k v) .none
    else
      let a := afterSlot s c k 2
      if annul then .done (slotDrawn s c k 2) k [] (.annul a)
      else .done (slotDrawn s c k 2) k [] (.slot ⟨a, k.pc, .none, none⟩))

/-- BR (R113). -/
def execBr (c : CoreId) (annul : Bool) (v : BitVec 16) (s : State) : Out :=
  issue s c (.br c annul v) ctlKind (fun s k => takeBranch s k (relTarget k v) .none)

/-- BRA (R113). -/
def execBra (c : CoreId) (annul : Bool) (i : BitVec 32) (s : State) : Out :=
  issue s c (.bra c annul i) ctlKind (fun s k => takeBranch s k i .none)

/-- A call pushes the address after its slot, or raises return-stack overflow (R61, R113). -/
def callTo (s : State) (c : CoreId) (k : Core) (len : Nat) (target : BitVec 32) : Res :=
  match k.rsPush (afterSlot s c k len) with
  | none => .exc 0x05 0 0
  | some k1 => takeBranch (slotDrawn s c k len) k1 target .pushed

/-- CALL (R113). -/
def execCall (c : CoreId) (annul : Bool) (v : BitVec 16) (s : State) : Out :=
  issue s c (.call c annul v) ctlKind (fun s k => callTo s c k 2 (relTarget k v))
/-- CALLA (R113). -/
def execCalla (c : CoreId) (annul : Bool) (i : BitVec 32) (s : State) : Out :=
  issue s c (.calla c annul i) ctlKind (fun s k => callTo s c k 3 i)
/-- CALL Ga (R113). -/
def execCallRegister (c : CoreId) (annul : Bool) (a : SReg) (s : State) : Out :=
  issue s c (.callRegister c annul a) ctlKind (fun s k => callTo s c k 1 ((k.gr (sreg a)).setWidth 32))

/-- The index of the indirect-target table for a JMPI (R91). -/
def jmpIndex (p : BitVec 32) (t : List (BitVec 32)) : Nat :=
  let b := fun (n r : Nat) => ((t.getD n 0).setWidth 8 : BitVec 8).rotateLeft r
  ((p.setWidth 8 : BitVec 8) ^^^ b 0 0 ^^^ b 1 1 ^^^ b 2 2 ^^^ b 3 3).toNat

/-- JMPI: writes its target into the indirect-target table (R91, R113). -/
def execJmpi (c : CoreId) (annul : Bool) (a : SReg) (s : State) : Out :=
  issue s c (.jmpi c annul a) ctlKind (fun s k =>
    let t : BitVec 32 := (k.gr (sreg a)).setWidth 32
    let k1 := { k with jtab := k.jtab.set (jmpIndex k.pc k.jhist) t, jhist := (t :: k.jhist).take 4 }
    takeBranch s k1 t .none)

/-- RET (R62, R113). -/
def execRet (c : CoreId) (annul : Bool) (s : State) : Out :=
  issue s c (.ret c annul) ctlKind (fun s k =>
    match k.rsPop with
    | .underflow => .exc 0x06 0 0
    | .bad k1 => .from k1 (.mcheck .localData 0)
    | .ok v k1 => takeBranch s k1 v (.popped v))

/-! ### Block repeat (R115, R116) -/

/-- What reading the words of a REPB body gives: the address of its last instruction and the address after it, and the
first instruction that may not stand in a body. -/
inductive BodyRead where
  | ok (last after : BitVec 32) (bad : Option (BitVec 32)) (k : Core)
  | stop (a : BitVec 32) (r : FetchRes)
deriving DecidableEq, Repr

/-- Reads the words of n instructions from an address up (R116). -/
def readBody (g : Image) (k : Core) (a last : BitVec 32) (bad : Option (BitVec 32)) : Nat → BodyRead
  | 0 => .ok last a bad k
  | n + 1 =>
    match fetchWord k a with
    | .ok w k1 =>
      let len := majorLen g w
      match fetchRun k1 (a + 1#32) (len - 1) with
      | .stop b r => .stop b r
      | .ok _ k2 =>
        let bad1 := if bad.isNone && isControl w then some a else bad
        readBody g k2 (a + BitVec.ofNat 32 len) a bad1 n
    | r => .stop a r

/-- REPB and REPBI with count and body length. A body word that cannot be trusted is a machine check of the REPB that reads it, even
of a body that it skips (R115, R116; DESIGN CHOICE, notes/assumptions/205.md). -/
def repeatBody (s : State) (c : CoreId) (k : Core) (count : BitVec 32) (n : Nat) : Res :=
  let ls := k.pc + 2#32
  match readBody (s.quire (coreQuire c)).image k ls ls none n with
  | .stop a r => fetchStop a r
  | .ok _ _ (some a) _ => .illegal a
  | .ok last after none k1 =>
    .done s { k1 with loop := ⟨count, ls, last, none, none, none⟩ } [] (.jump (if count = 0#32 then after else ls))

/-- REPB (R115). -/
def execRepb (c : CoreId) (a : GReg) (n : Fin 16) (s : State) : Out :=
  issue s c (.repb c a n) ctlKind (fun s k => repeatBody s c k ((k.gr a).setWidth 32) (n.val + 1))
/-- REPBI (R115). -/
def execRepbi (c : CoreId) (v : BitVec 16) (n : Fin 16) (s : State) : Out :=
  issue s c (.repbi c v n) ctlKind (fun s k => repeatBody s c k (v.setWidth 32) (n.val + 1))

/-! ### Status (R120) -/

/-- SETMS: visible from the third instruction after it (R49, R120). -/
def execSetms (c : CoreId) (a : SReg) (s : State) : Out :=
  issue s c (.setms c a) privKind (simple (fun k =>
    let v := k.gr (sreg a)
    (k, [⟨.ms (v.getLsbD 0) (v.getLsbD 1), 2⟩])))
/-- SETKR: visible from the third instruction after it (R49, R120). -/
def execSetkr (c : CoreId) (a : SReg) (s : State) : Out :=
  issue s c (.setkr c a) privKind (simple (fun k => (k, [⟨.krr ((k.gr (sreg a)).setWidth 32), 2⟩])))

end Sys2Proof.Machine
end

