-- ==== Sys2Proof/Machine/Deliver.lean ====
section
/-! DEFINITION. Delivery of long ops to a core (R74, R81, R178, R205, R220, R235, R372, R513). -/
namespace Sys2Proof.Machine

/-- A long op has delivered: its destination is free; the flags of a floating one reach SF and its request is due (R205,
R206); a gated core has something to wake for (R513). -/
def Core.delivered (k : Core) (d : LDest) (fp : Option FpRaise) : Core :=
  let k1 := k.dropLong d
  let k2 := match fp with
    | some r => { k1 with sys := { k1.sys with fpsf := k1.sys.fpsf ||| r.flags }, fpDue := k1.fpDue ++ r.req.toList }
    | none => k1
  if k2.ctl.gated then { k2 with ctl := { k2.ctl with dlv := true } } else k2

/-- Writes a delivered value to its destination. -/
def Core.takeRes (k : Core) (d : LDest) (r : LRes) : Core :=
  match d, r with
  | .l n, .l v p => k.setL n v p
  | .a n, .a1 v => { k with a := k.a.set n v }
  | .a n, .a2 hi lo => { k with a := (k.a.set n hi).set (nextAcc n) lo }
  | _, _ => k

/-- LONG_OP_DELIVER: a long op whose result is known delivers it; a DSU instruction runs to its end. VGET, DSWAP and SWAIT
deliver by their own commands. -/
def execLongOpDeliver (c : CoreId) (d : LDest) (s : State) : Out :=
  let k := s.core c
  if !s.spineRuns then .next s else
  match k.long? d with
  | some { op := .dsu x md ia svc false run, .. } =>
    if k.discards then .next (s.setCore c (k.dropLong d))
    else
      match dsuEndAt (s.quire (coreQuire c)).image k x md ia svc run none with
      | some k1 => .next (s.setCore c (k1.delivered d none))
      | none => .next s
  | some { res := some r, fp := fp, .. } =>
    match r with
    | .line _ _ _ => .next s
    | .slot _ _ => .next s
    | r => .next (s.setCore c (if k.discards then k.dropLong d else (k.takeRes d r).delivered d fp))
  | _ => .next s

/-- Writes the 32 words of a VGET, and marks its groups that cannot be trusted (R220). Local stores that wait, younger than the
VGET too, are written before its words (R81; DESIGN CHOICE, notes/assumptions/162.md). -/
def Core.putLine (k : Core) (a : Nat) (ws : List W16) (bad : List Nat) : Core :=
  let k1 := (k.drainLocal k.sbuf.length).writeLoc a ws
  let marks := fun (g : Nat) => (List.range 4).map (fun i => (a + 4 * g + i) / 4)
  { k1 with locBad := (bad.flatMap marks).foldl (fun m g => m.set g 1#1) k1.locBad }

/-- VGET_DELIVER: the words are written after the older store-buffer entries have drained; status (R81, R220). -/
def execVgetDeliver (c : CoreId) (l : LRegId) (s : State) : Out :=
  let k := s.core c
  if !s.spineRuns then .next s else
  match k.long? (.l l) with
  | some { op := .vget _ dst, res := some (.line st ws bad), .. } =>
    .next (s.setCore c (if k.discards then k.dropLong (.l l)
      else ((k.putLine dst ws bad).setL l st).delivered (.l l) none))
  | _ => .next s

/-- DSWAP_DELIVER: the old slot replaces block words 0 to 7; status (R235). -/
def execDswapDeliver (c : CoreId) (l : LRegId) (s : State) : Out :=
  let k := s.core c
  if !s.spineRuns then .next s else
  match k.long? (.l l) with
  | some { op := .dswap _ _ addr, res := some (.slot st old), .. } =>
    let k1 := match old with
      | some ws => (k.drainLocal k.sbuf.length).writeLoc addr ws
      | none => k
    .next (s.setCore c (if k.discards then k.dropLong (.l l) else (k1.setL l st).delivered (.l l) none))
  | _ => .next s

end Sys2Proof.Machine
end

