-- ==== Sys2Proof/Machine/Integer.lean ====
section
/-! DEFINITION. The binary integer instructions, loads and stores (04_integer_control_instructions.md, R104 to R111). -/
namespace Sys2Proof.Machine

/-! ### Register to register (R104, R105) -/

/-- MOV: copies a register and leaves the flags (R104, R105). -/
def execMov (c : CoreId) (f : MovForm) (s : State) : Out :=
  match f with
  | .s d a => issue s c (.mov c f) plain (simple (fun k => (k, wrG (sreg d) (k.gr (sreg a)))))
  | .w d a => issue s c (.mov c f) plain (simple (fun k => (k, wrG d (k.gr a))))
/-- ADD (R104, R105). -/
def execAdd (c : CoreId) (f : RForm) (s : State) : Out := aluRR s c (.add c f) f aluAdd
/-- SUB (R104, R105). -/
def execSub (c : CoreId) (f : RForm) (s : State) : Out := aluRR s c (.sub c f) f aluSub
/-- ADDC (R104, R105). -/
def execAddc (c : CoreId) (f : RForm) (s : State) : Out := aluRR s c (.addc c f) f aluAddc
/-- SUBC (R104, R105). -/
def execSubc (c : CoreId) (f : RForm) (s : State) : Out := aluRR s c (.subc c f) f aluSubc
/-- AND (R104, R105). -/
def execAnd (c : CoreId) (f : RForm) (s : State) : Out := aluRR s c (.and c f) f (fun fl x y => aluLogic fl (x &&& y))
/-- OR (R104, R105). -/
def execOr (c : CoreId) (f : RForm) (s : State) : Out := aluRR s c (.or c f) f (fun fl x y => aluLogic fl (x ||| y))
/-- XOR (R104, R105). -/
def execXor (c : CoreId) (f : RForm) (s : State) : Out := aluRR s c (.xor c f) f (fun fl x y => aluLogic fl (x ^^^ y))
/-- ANDN (R105). -/
def execAndn (c : CoreId) (d a b : GReg) (s : State) : Out :=
  aluRR s c (.andn c d a b) (.w d a b) (fun fl x y => aluLogic fl (x &&& ~~~y))
/-- CMP: the flags of a difference (R104, R105). -/
def execCmp (c : CoreId) (f : CmpForm) (s : State) : Out :=
  match f with
  | .s d a => aluCmp s c (.cmp c f) (fun k => k.gr (sreg d)) (fun k => k.gr (sreg a))
  | .w a b => aluCmp s c (.cmp c f) (fun k => k.gr a) (fun k => k.gr b)
/-- SHL (R104, R105). -/
def execShl (c : CoreId) (f : RForm) (s : State) : Out := aluRR s c (.shl c f) f (fun fl x y => aluShl fl x (shiftCount y))
/-- SHR (R104, R105). -/
def execShr (c : CoreId) (f : RForm) (s : State) : Out := aluRR s c (.shr c f) f (fun fl x y => aluShr fl x (shiftCount y))
/-- SAR (R104, R105). -/
def execSar (c : CoreId) (f : RForm) (s : State) : Out := aluRR s c (.sar c f) f (fun fl x y => aluSar fl x (shiftCount y))
/-- ROL (R105). -/
def execRol (c : CoreId) (d a b : GReg) (s : State) : Out :=
  aluRR s c (.rol c d a b) (.w d a b) (fun fl x y => aluRol fl x (shiftCount y))
/-- NOT (R104). -/
def execNot (c : CoreId) (d : SReg) (s : State) : Out :=
  aluRI s c (.not c d) (sreg d) (sreg d) (fun fl x => aluLogic fl (~~~x))
/-- NEG, as 0 − Gd (R104, R106). -/
def execNeg (c : CoreId) (d : SReg) (s : State) : Out :=
  aluRI s c (.neg c d) (sreg d) (sreg d) (fun fl x => aluSub fl 0#64 x)
/-- TST: N and Z of a register, V 0 (R104, R106). -/
def execTst (c : CoreId) (d : SReg) (s : State) : Out :=
  issue s c (.tst c d) plain (simple (fun k => ({ k with fl := (aluLogic k.fl (k.gr (sreg d))).2 }, [])))

/-! ### Immediates (R105) -/

/-- ADDI. -/
def execAddi (c : CoreId) (d a : GReg) (i : BitVec 16) (s : State) : Out :=
  aluRI s c (.addi c d a i) d a (fun fl x => aluAdd fl x (i.signExtend 64))
/-- ANDI. -/
def execAndi (c : CoreId) (d a : GReg) (i : BitVec 16) (s : State) : Out :=
  aluRI s c (.andi c d a i) d a (fun fl x => aluLogic fl (x &&& i.setWidth 64))
/-- ORI. -/
def execOri (c : CoreId) (d a : GReg) (i : BitVec 16) (s : State) : Out :=
  aluRI s c (.ori c d a i) d a (fun fl x => aluLogic fl (x ||| i.setWidth 64))
/-- XORI. -/
def execXori (c : CoreId) (d a : GReg) (i : BitVec 16) (s : State) : Out :=
  aluRI s c (.xori c d a i) d a (fun fl x => aluLogic fl (x ^^^ i.setWidth 64))
/-- SHLI. -/
def execShli (c : CoreId) (d a : GReg) (n : BitVec 6) (s : State) : Out :=
  aluRI s c (.shli c d a n) d a (fun fl x => aluShl fl x n.toNat)
/-- SHRI. -/
def execShri (c : CoreId) (d a : GReg) (n : BitVec 6) (s : State) : Out :=
  aluRI s c (.shri c d a n) d a (fun fl x => aluShr fl x n.toNat)
/-- SARI. -/
def execSari (c : CoreId) (d a : GReg) (n : BitVec 6) (s : State) : Out :=
  aluRI s c (.sari c d a n) d a (fun fl x => aluSar fl x n.toNat)
/-- ROLI. -/
def execRoli (c : CoreId) (d a : GReg) (n : BitVec 6) (s : State) : Out :=
  aluRI s c (.roli c d a n) d a (fun fl x => aluRol fl x n.toNat)
/-- CMPI. -/
def execCmpi (c : CoreId) (a : GReg) (i : BitVec 16) (s : State) : Out :=
  aluCmp s c (.cmpi c a i) (fun k => k.gr a) (fun _ => i.signExtend 64)
/-- MOVI. -/
def execMovi (c : CoreId) (d : GReg) (i : BitVec 32) (s : State) : Out :=
  issue s c (.movi c d i) plain (simple (fun k => (k, wrG d (i.signExtend 64))))
/-- MOVIU. -/
def execMoviu (c : CoreId) (d : GReg) (i : BitVec 32) (s : State) : Out :=
  issue s c (.moviu c d i) plain (simple (fun k => (k, wrG d (i.setWidth 64))))
/-- MOVH. -/
def execMovh (c : CoreId) (d : GReg) (i : BitVec 32) (s : State) : Out :=
  issue s c (.movh c d i) plain (simple (fun k => (k, wrG d (i ++ (k.gr d).setWidth 32))))

/-! ### Multiply and divide (R107, R108) -/

/-- MUL: distance 2. -/
def execMul (c : CoreId) (d a b : GReg) (s : State) : Out :=
  issue s c (.mul c d a b) plain (simple (fun k => (k, wrG d (k.gr a * k.gr b) 2)))
/-- A 128-bit product into a register pair, the more significant half first; an odd d is illegal (R102, R107). -/
def mulPair (s : State) (c : CoreId) (i : Instr) (d a b : GReg) (op : W64 → W64 → BitVec 128) : Out :=
  issue s c i plain (fun s k =>
    if oddReg d then .illegal k.pc
    else
      let p := op (k.gr a) (k.gr b)
      .done s k (wrG d (p.extractLsb' 64 64) 2 ++ wrG (nextReg d) (p.extractLsb' 0 64) 2) .seq)
/-- MULW. -/
def execMulw (c : CoreId) (d a b : GReg) (s : State) : Out := mulPair s c (.mulw c d a b) d a b mulSigned
/-- MULWU. -/
def execMulwu (c : CoreId) (d a b : GReg) (s : State) : Out := mulPair s c (.mulwu c d a b) d a b mulUnsigned
/-- MAC: accumulates onto Gd as the instruction reads it (R107). -/
def execMac (c : CoreId) (d a b : GReg) (s : State) : Out :=
  issue s c (.mac c d a b) plain (simple (fun k => (k, wrG d (k.gr d + k.gr a * k.gr b) 2)))
/-- Quotient and remainder into a register pair, with V (R108); an odd d is illegal (R102). -/
def divPair (s : State) (c : CoreId) (i : Instr) (d a b : GReg) (op : W64 → W64 → W64 × W64 × Bool) : Out :=
  issue s c i plain (fun s k =>
    if oddReg d then .illegal k.pc
    else
      let (q, r, v) := op (k.gr a) (k.gr b)
      .done s { k with fl := { k.fl with v := v } } (wrG d q ++ wrG (nextReg d) r) .seq)
/-- DIV. -/
def execDiv (c : CoreId) (d a b : GReg) (s : State) : Out := divPair s c (.div c d a b) d a b divSigned
/-- DIVU. -/
def execDivu (c : CoreId) (d a b : GReg) (s : State) : Out := divPair s c (.divu c d a b) d a b divUnsigned

/-! ### Loads, stores and the data stack (R58, R59, R109 to R111) -/

/-- LD: distance 1. -/
def execLd (c : CoreId) (kd : LdKind) (ea : AddrForm) (d : GReg) (s : State) : Out :=
  issue s c (.ld c kd ea d) plain (fun s k =>
    loadThen k (addrOf k ea) (ldWords kd) (fun ws k1 => .done s k1 (wrG d (ldValue kd ws) 1) .seq))
/-- ST: the store retires into the store buffer (R82). -/
def execSt (c : CoreId) (kd : StKind) (ea : AddrForm) (d : GReg) (s : State) : Out :=
  issue s c (.st c kd ea d) plain (fun s k =>
    let ws := stWords kd (k.gr d)
    let a := addrOf k ea
    withLocal k a ws.length (.done s (k.storeLoc a.toNat ws) [] .seq))

/-- The words of a 4-word access at va that lie in the line of its first word (R59). -/
def firstPart (va : BitVec 40) : Nat := min 4 (32 - va.toNat % 32)
/-- The 4 words at va lie wholly in translated D-space. -/
def allTranslated (va : BitVec 40) : Bool := decide (localEnd ≤ va.toNat) && decide (va.toNat + 4 ≤ 2 ^ 40)

/-- The parts of a translated PUSH or POP: each page is translated and checked at issue, the lower address first, and a
device quad must be aligned (R59, R218). Goes on with the physical addresses of the first and the second part. -/
def stackParts (k : Core) (va : BitVec 40) (q : Want) (f : Nat → Nat → Core → Res) : Res :=
  let n0 := firstPart va
  let aligned := fun (e : TlbEntry) (a : BitVec 40) (g : Res) =>
    if e.mt == 3#2 && fieldN va 0 2 != 0 then .exc 0x11 a 0 else g
  dAccess k va q (fun pa0 e0 k1 => aligned e0 va (
    if n0 = 4 then f pa0 0 k1
    else
      let vb := va + BitVec.ofNat 40 n0
      if vpnOf vb = vpnOf va then f pa0 (pa0 + n0) k1
      else dAccess k1 vb q (fun pa1 e1 k2 => aligned e1 vb (f pa0 pa1 k2))))

/-- The entries of translated PUSHes that have not left their partition (R78). -/
def Core.pushLoad (k : Core) : Nat :=
  k.pushq.length + (k.sbuf.filter (fun e => match e with | .push _ _ _ => true | _ => false)).length

/-- PUSH (R58, R59, R78). -/
def execPush (c : CoreId) (r : SReg) (s : State) : Out :=
  issue s c (.push c r) plain (fun s k =>
    let va := k.dsp - 4#40
    let ws := wordsOf (k.gr (sreg r))
    if inLocal va 4 then
      withLocal k va 4 (.done s ({ k with dsp := va }.storeLoc va.toNat ws) [] .seq)
    else if !allTranslated va then .exc 0x03 va 0
    else
      stackParts k va (wantWrite [0#2, 1#2, 3#2]) (fun pa0 pa1 k1 =>
        let n0 := firstPart va
        let parts := if n0 = 4 then [SbEntry.push pa0 ws s.stamp]
          else [SbEntry.push pa0 (ws.take n0) s.stamp, SbEntry.push pa1 (ws.drop n0) s.stamp]
        if 8 < k1.pushLoad + parts.length then .wait none
        else .done s.stamped { k1 with dsp := va, sbuf := k1.sbuf ++ parts } [] .seq))

/-- POP: distance 1 from the local region; a long op into L(d[2:0]) from translated D-space (R58, R59, R111). -/
def execPop (c : CoreId) (d : SReg) (s : State) : Out :=
  issue s c (.pop c d) plain (fun s k =>
    let va := k.dsp
    if inLocal va 4 then
      loadThen k va 4 (fun ws k1 => .done s { k1 with dsp := va + 4#40 } (wrG (sreg d) (quadOf ws) 1) .seq)
    else if !allTranslated va then .exc 0x03 va 0
    else
      let l := lowL d.val
      whenL k l (stackParts k va (wantRead [0#2, 1#2, 2#2, 3#2]) (fun pa0 pa1 k1 =>
        let n0 := firstPart va
        issueLong s { k1 with dsp := va + 4#40 } (.l l) (.pop pa0 n0 pa1 (4 - n0) none none false) none)))

end Sys2Proof.Machine
end

