-- ==== Sys2Proof/Machine/Entries.lean ====
section
/-! DEFINITION. EXCEPTION_ENTRY: the precise exception that the instruction at the pc raises (R102, R343 to R348). -/
namespace Sys2Proof.Machine

/-- The meaning of a core's instruction; another command leaves the state as it is. -/
def runInstr (i : Instr) (s : State) : Out :=
  match i with
  | .nop c => execNop c s
  | .lwait c => execLwait c s
  | .vfence c => execVfence c s
  | .fbar c => execFbar c s
  | .svc c n => execSvc c n s
  | .sret c => execSret c s
  | .xret c => execXret c s
  | .mret c => execMret c s
  | .mov c f => execMov c f s
  | .add c f => execAdd c f s
  | .sub c f => execSub c f s
  | .addc c f => execAddc c f s
  | .subc c f => execSubc c f s
  | .and c f => execAnd c f s
  | .or c f => execOr c f s
  | .xor c f => execXor c f s
  | .andn c d a b => execAndn c d a b s
  | .cmp c f => execCmp c f s
  | .shl c f => execShl c f s
  | .shr c f => execShr c f s
  | .sar c f => execSar c f s
  | .rol c d a b => execRol c d a b s
  | .not c d => execNot c d s
  | .neg c d => execNeg c d s
  | .tst c d => execTst c d s
  | .addi c d a i0 => execAddi c d a i0 s
  | .andi c d a i0 => execAndi c d a i0 s
  | .ori c d a i0 => execOri c d a i0 s
  | .xori c d a i0 => execXori c d a i0 s
  | .shli c d a k => execShli c d a k s
  | .shri c d a k => execShri c d a k s
  | .sari c d a k => execSari c d a k s
  | .roli c d a k => execRoli c d a k s
  | .cmpi c a i0 => execCmpi c a i0 s
  | .movi c d i0 => execMovi c d i0 s
  | .moviu c d i0 => execMoviu c d i0 s
  | .movh c d i0 => execMovh c d i0 s
  | .mul c d a b => execMul c d a b s
  | .mulw c d a b => execMulw c d a b s
  | .mulwu c d a b => execMulwu c d a b s
  | .mac c d a b => execMac c d a b s
  | .div c d a b => execDiv c d a b s
  | .divu c d a b => execDivu c d a b s
  | .ld c k ea d => execLd c k ea d s
  | .st c k ea d => execSt c k ea d s
  | .push c s0 => execPush c s0 s
  | .pop c d => execPop c d s
  | .bcc c annul cond v => execBcc c annul cond v s
  | .br c annul v => execBr c annul v s
  | .bra c annul i0 => execBra c annul i0 s
  | .call c annul v => execCall c annul v s
  | .calla c annul i0 => execCalla c annul i0 s
  | .callRegister c annul a => execCallRegister c annul a s
  | .jmpi c annul a => execJmpi c annul a s
  | .ret c annul => execRet c annul s
  | .repb c a n => execRepb c a n s
  | .repbi c v n => execRepbi c v n s
  | .setms c a => execSetms c a s
  | .setkr c a => execSetkr c a s
  | .inp c p d => execInp c p d s
  | .outp c p s0 => execOutp c p s0 s
  | .outRsd c f s0 => execOutRsd c f s0 s
  | .outRsp c f s0 => execOutRsp c f s0 s
  | .icinv c f s0 => execIcinv c f s0 s
  | .outBpctl c f s0 => execOutBpctl c f s0 s
  | .iclaim c f d => execIclaim c f d s
  | .mbxData c f d => execMbxData c f d s
  | .tlbiv c a b => execTlbiv c a b s
  | .tlbit c b => execTlbit c b s
  | .tlbia c => execTlbia c s
  | .tlbiaF c => execTlbiaF c s
  | .tlblk c a => execTlblk c a s
  | .tlblkI c a => execTlblkI c a s
  | .tlbul c a => execTlbul c a s
  | .tlbulI c a => execTlbulI c a s
  | .skey c l a b => execSkey c l a b s
  | .dld c d a i0 n => execDld c d a i0 n s
  | .dst c d a i0 n => execDst c d a i0 n s
  | .dadd c d a b => execDadd c d a b s
  | .dsub c d a b => execDsub c d a b s
  | .dcmp c a b => execDcmp c a b s
  | .daddc c first d a b => execDaddc c first d a b s
  | .dsubc c first d a b => execDsubc c first d a b s
  | .dmul c d a b => execDmul c d a b s
  | .ddiv c d a b => execDdiv c d a b s
  | .dshl c d a b => execDshl c d a b s
  | .dshr c rm d a b => execDshr c rm d a b s
  | .dcvb c u d a => execDcvb c u d a s
  | .dcvd c u d a => execDcvd c u d a s
  | .dmac c ia ib n d a b => execDmac c ia ib n d a b s
  | .mvs c => execMvs c s
  | .mvsp c => execMvsp c s
  | .trs c => execTrs c s
  | .cms c => execCms c s
  | .scs c => execScs c s
  | .scsN c => execScsN c s
  | .eds c => execEds c s
  | .edsm c => execEdsm c s
  | .pks c => execPks c s
  | .ups c => execUps c s
  | .fadd c d a b => execFadd c d a b s
  | .fsub c d a b => execFsub c d a b s
  | .fmul c d a b => execFmul c d a b s
  | .fma c d a b => execFma c d a b s
  | .fdiv c l a b => execFdiv c l a b s
  | .fsqrt c l a => execFsqrt c l a s
  | .fcmp c a b => execFcmp c a b s
  | .fcvti c d a => execFcvti c d a s
  | .fcvtf c d a => execFcvtf c d a s
  | .frint c d a => execFrint c d a s
  | .dqadd c d a b => execDqadd c d a b s
  | .dqsub c d a b => execDqsub c d a b s
  | .dqmul c d a b => execDqmul c d a b s
  | .dqdiv c d a b => execDqdiv c d a b s
  | .dqsqrt c d a => execDqsqrt c d a s
  | .dqcmp c a b => execDqcmp c a b s
  | .dqfix c d a => execDqfix c d a s
  | .dqflt c d a => execDqflt c d a s
  | .dqrint c d a => execDqrint c d a s
  | .dqquant c d a b => execDqquant c d a b s
  | .dqld c d a => execDqld c d a s
  | .dqst c d a => execDqst c d a s
  | .vld c l a => execVld c l a s
  | .vst c l a b => execVst c l a b s
  | .vget c l a b => execVget c l a b s
  | .vput c l a b => execVput c l a b s
  | .vcas c l a b => execVcas c l a b s
  | .find c l a => execFind c l a s
  | .dswap c l a b => execDswap c l a b s
  | .post c l a => execPost c l a s
  | .swait c l a => execSwait c l a s
  | .customerInstruction c w0 w1 w2 => execCustomerInstruction c w0 w1 w2 s
  | _ => .next s

/-- From s to t, core c has entered a precise exception instead of completing its instruction (R345). -/
def enteredX (s t : State) (c : CoreId) (cause : BitVec 8) (xad : BitVec 40) (lvl : BitVec 2) : Bool :=
  let k := s.core c
  let x := (t.core c).sys.x
  (t.core c).icount == k.icount && (t.core c).ctl.stallSince.isNone
    && x.cause == cause && x.xad == xad && x.lvl == lvl && (t.core c).pc == x.xvb + cause.setWidth 32 * 16#32

/-- EXCEPTION_ENTRY: the instruction at the pc raises a precise exception; events of the boundary before it come first (R344,
R364). The fetch of its words gives a fetch cause, words that spell no instruction give illegal instruction, and any other
cause is one that the instruction itself raises. A cause, XAD or level that the instruction does not raise changes nothing;
the faults of a walk come with the walk. -/
def execExceptionEntry (c : CoreId) (x : PreciseCause) (xad : BitVec 40) (lvl : BitVec 2) (s : State) : Out :=
  let k := s.core c
  let cause := preciseCode x
  let enter := fun (same : Bool) (k1 : Core) => Host.Outcome.next (if same then s.setCore c (k1.enterPrecise cause xad lvl) else s)
  if !s.canIssue c then .next s
  else
    match fetchInstr (s.quire (coreQuire c)).image k k.pc with
    | .stop a (.exc e) => enter (e == cause && xad == a.setWidth 40 && lvl == 0) k
    | .stop _ _ => .next s
    | .ok ws k1 =>
      match decodeWords c ws with
      | none => enter (x == .illegal && xad == k.pc.setWidth 40 && lvl == 0) k1
      | some i =>
        match runInstr i s with
        | .next t => .next (if enteredX s t c cause xad lvl then t else s)
        | r => r

end Sys2Proof.Machine
end

