-- ==== Sys2Proof/Machine/Jtag.lean ====
section
/-!
DEFINITION. The test access port: its always-open instructions, and the two that present a password and a vendor challenge
(17_steward_security.md R494, R496, R498).
-/
namespace Sys2Proof.Machine

/-- The TAP works while the device has power and TRST_N does not hold it in Test-Logic-Reset (R494, R544). -/
def State.tapOn (s : State) : Bool := s.pins.phase != .off && s.pins.trstN
/-- Loads a TAP instruction. -/
def loadTap (s : State) (t : Tap) : State := s.modStw (fun w => { w with tap := t })

/-- The low n bits of a value, the first out first. -/
def shiftOut (v : Nat) : Nat → List Bool
  | 0 => []
  | n + 1 => (v % 2 == 1) :: shiftOut (v / 2) n
/-- Bytes as they shift out, the first byte first, its bit 0 first. -/
def bytesOut (bs : List Byte) : List Bool := bs.flatMap (fun b => shiftOut b.toNat 8)

/-- The identification code: version 0xB, part 0x0640, the manufacturer, 1 (R494). -/
def idcodeWord : BitVec 32 := 0xB#4 ++ 0x0640#16 ++ Config.jedecCode ++ 1#1

/-- BYPASS: one bit between TDI and TDO, which captures 0. -/
def execBypass (s : State) : Out := .next (if s.tapOn then (loadTap s .bypass).send (.tdo [false]) else s)
/-- IDCODE. -/
def execIdcode (s : State) : Out := .next (if s.tapOn then (loadTap s .idcode).send (.tdo (shiftOut idcodeWord.toNat 32)) else s)
/-- SAMPLE/PRELOAD: the pins are captured and shifted out, and the boundary register is loaded. -/
def execSamplePreload (inputs held : List Bool) (s : State) : Out :=
  .next (if s.tapOn then ((loadTap s .sample).modStw (fun w => { w with boundary := held })).send (.tdo inputs) else s)
/-- EXTEST: the pads are driven from the boundary register, the pins captured, and the register loaded again. -/
def execExtest (inputs held : List Bool) (s : State) : Out :=
  .next (if s.tapOn then
      (((loadTap s .extest).send (.pads s.stw.boundary)).modStw (fun w => { w with boundary := held })).send (.tdo inputs)
    else s)
/-- EXTEST_PULSE drives the AC pads with a pulse of the register's values. -/
def execExtestPulse (s : State) : Out := .next (if s.tapOn then (loadTap s .extestPulse).send (.pads s.stw.boundary) else s)
/-- EXTEST_TRAIN drives the AC pads with a train of the register's values. -/
def execExtestTrain (s : State) : Out := .next (if s.tapOn then (loadTap s .extestTrain).send (.pads s.stw.boundary) else s)

/-- The firmware serves the Steward's TAP instructions. -/
def tapSteward (s : State) : Bool := s.tapOn && s.awake && !s.stw.bst.monitor

/-- UNLOCK: a length byte and 32 bytes; the attempt's status shifts out. -/
def execUnlock (len : Byte) (data : List Byte) (s : State) : Out :=
  if !tapSteward s then .next s
  else
    let (s1, bs) := if data.length = 32 then debugUnlockAct (if len.toNat ≤ 32 then data.take len.toNat else []) s else (s, [stMalformed])
    .next ((loadTap s1 .unlock).send (.tdo (bytesOut bs)))

/-- VCHAL. -/
def execVchal (s : State) : Out :=
  if !tapSteward s then .next s
  else
    let (s1, bs) := vendorChallengeAct s
    .next ((loadTap s1 .vchal).send (.tdo (bytesOut bs)))

end Sys2Proof.Machine
end

