-- ==== Sys2Proof/Machine/Dispatch.lean ====
section
/-! DEFINITION. One arm for each command: a direct call of its meaning (spec/95_what_each_step_holds.md). -/
namespace Sys2Proof.Machine

/-- The effect of a command on everything but the queue. -/
def exec (i : Instr) (s : State) : Host.Outcome State Fault Refusal :=
  match i with
  | .nop c => Sys2Proof.Machine.execNop c s
  | .lwait c => Sys2Proof.Machine.execLwait c s
  | .vfence c => Sys2Proof.Machine.execVfence c s
  | .fbar c => Sys2Proof.Machine.execFbar c s
  | .svc c n => Sys2Proof.Machine.execSvc c n s
  | .sret c => Sys2Proof.Machine.execSret c s
  | .xret c => Sys2Proof.Machine.execXret c s
  | .mret c => Sys2Proof.Machine.execMret c s
  | .mov c f => Sys2Proof.Machine.execMov c f s
  | .add c f => Sys2Proof.Machine.execAdd c f s
  | .sub c f => Sys2Proof.Machine.execSub c f s
  | .addc c f => Sys2Proof.Machine.execAddc c f s
  | .subc c f => Sys2Proof.Machine.execSubc c f s
  | .and c f => Sys2Proof.Machine.execAnd c f s
  | .or c f => Sys2Proof.Machine.execOr c f s
  | .xor c f => Sys2Proof.Machine.execXor c f s
  | .andn c d a b => Sys2Proof.Machine.execAndn c d a b s
  | .cmp c f => Sys2Proof.Machine.execCmp c f s
  | .shl c f => Sys2Proof.Machine.execShl c f s
  | .shr c f => Sys2Proof.Machine.execShr c f s
  | .sar c f => Sys2Proof.Machine.execSar c f s
  | .rol c d a b => Sys2Proof.Machine.execRol c d a b s
  | .not c d => Sys2Proof.Machine.execNot c d s
  | .neg c d => Sys2Proof.Machine.execNeg c d s
  | .tst c d => Sys2Proof.Machine.execTst c d s
  | .addi c d a i0 => Sys2Proof.Machine.execAddi c d a i0 s
  | .andi c d a i0 => Sys2Proof.Machine.execAndi c d a i0 s
  | .ori c d a i0 => Sys2Proof.Machine.execOri c d a i0 s
  | .xori c d a i0 => Sys2Proof.Machine.execXori c d a i0 s
  | .shli c d a k => Sys2Proof.Machine.execShli c d a k s
  | .shri c d a k => Sys2Proof.Machine.execShri c d a k s
  | .sari c d a k => Sys2Proof.Machine.execSari c d a k s
  | .roli c d a k => Sys2Proof.Machine.execRoli c d a k s
  | .cmpi c a i0 => Sys2Proof.Machine.execCmpi c a i0 s
  | .movi c d i0 => Sys2Proof.Machine.execMovi c d i0 s
  | .moviu c d i0 => Sys2Proof.Machine.execMoviu c d i0 s
  | .movh c d i0 => Sys2Proof.Machine.execMovh c d i0 s
  | .mul c d a b => Sys2Proof.Machine.execMul c d a b s
  | .mulw c d a b => Sys2Proof.Machine.execMulw c d a b s
  | .mulwu c d a b => Sys2Proof.Machine.execMulwu c d a b s
  | .mac c d a b => Sys2Proof.Machine.execMac c d a b s
  | .div c d a b => Sys2Proof.Machine.execDiv c d a b s
  | .divu c d a b => Sys2Proof.Machine.execDivu c d a b s
  | .ld c k ea d => Sys2Proof.Machine.execLd c k ea d s
  | .st c k ea d => Sys2Proof.Machine.execSt c k ea d s
  | .push c s0 => Sys2Proof.Machine.execPush c s0 s
  | .pop c d => Sys2Proof.Machine.execPop c d s
  | .bcc c annul cond v => Sys2Proof.Machine.execBcc c annul cond v s
  | .br c annul v => Sys2Proof.Machine.execBr c annul v s
  | .bra c annul i0 => Sys2Proof.Machine.execBra c annul i0 s
  | .call c annul v => Sys2Proof.Machine.execCall c annul v s
  | .calla c annul i0 => Sys2Proof.Machine.execCalla c annul i0 s
  | .callRegister c annul a => Sys2Proof.Machine.execCallRegister c annul a s
  | .jmpi c annul a => Sys2Proof.Machine.execJmpi c annul a s
  | .ret c annul => Sys2Proof.Machine.execRet c annul s
  | .repb c a n => Sys2Proof.Machine.execRepb c a n s
  | .repbi c v n => Sys2Proof.Machine.execRepbi c v n s
  | .setms c a => Sys2Proof.Machine.execSetms c a s
  | .setkr c a => Sys2Proof.Machine.execSetkr c a s
  | .inp c p d => Sys2Proof.Machine.execInp c p d s
  | .outp c p s0 => Sys2Proof.Machine.execOutp c p s0 s
  | .outRsd c f s0 => Sys2Proof.Machine.execOutRsd c f s0 s
  | .outRsp c f s0 => Sys2Proof.Machine.execOutRsp c f s0 s
  | .icinv c f s0 => Sys2Proof.Machine.execIcinv c f s0 s
  | .outBpctl c f s0 => Sys2Proof.Machine.execOutBpctl c f s0 s
  | .iclaim c f d => Sys2Proof.Machine.execIclaim c f d s
  | .mbxData c f d => Sys2Proof.Machine.execMbxData c f d s
  | .tlbiv c a b => Sys2Proof.Machine.execTlbiv c a b s
  | .tlbit c b => Sys2Proof.Machine.execTlbit c b s
  | .tlbia c => Sys2Proof.Machine.execTlbia c s
  | .tlbiaF c => Sys2Proof.Machine.execTlbiaF c s
  | .tlblk c a => Sys2Proof.Machine.execTlblk c a s
  | .tlblkI c a => Sys2Proof.Machine.execTlblkI c a s
  | .tlbul c a => Sys2Proof.Machine.execTlbul c a s
  | .tlbulI c a => Sys2Proof.Machine.execTlbulI c a s
  | .skey c l a b => Sys2Proof.Machine.execSkey c l a b s
  | .skeyServe c l => Sys2Proof.Machine.execSkeyServe c l s
  | .dld c d a i0 n => Sys2Proof.Machine.execDld c d a i0 n s
  | .dst c d a i0 n => Sys2Proof.Machine.execDst c d a i0 n s
  | .dadd c d a b => Sys2Proof.Machine.execDadd c d a b s
  | .dsub c d a b => Sys2Proof.Machine.execDsub c d a b s
  | .dcmp c a b => Sys2Proof.Machine.execDcmp c a b s
  | .daddc c first d a b => Sys2Proof.Machine.execDaddc c first d a b s
  | .dsubc c first d a b => Sys2Proof.Machine.execDsubc c first d a b s
  | .dmul c d a b => Sys2Proof.Machine.execDmul c d a b s
  | .ddiv c d a b => Sys2Proof.Machine.execDdiv c d a b s
  | .dshl c d a b => Sys2Proof.Machine.execDshl c d a b s
  | .dshr c rm d a b => Sys2Proof.Machine.execDshr c rm d a b s
  | .dcvb c u d a => Sys2Proof.Machine.execDcvb c u d a s
  | .dcvd c u d a => Sys2Proof.Machine.execDcvd c u d a s
  | .dmac c ia ib n d a b => Sys2Proof.Machine.execDmac c ia ib n d a b s
  | .mvs c => Sys2Proof.Machine.execMvs c s
  | .mvsp c => Sys2Proof.Machine.execMvsp c s
  | .trs c => Sys2Proof.Machine.execTrs c s
  | .cms c => Sys2Proof.Machine.execCms c s
  | .scs c => Sys2Proof.Machine.execScs c s
  | .scsN c => Sys2Proof.Machine.execScsN c s
  | .eds c => Sys2Proof.Machine.execEds c s
  | .edsm c => Sys2Proof.Machine.execEdsm c s
  | .pks c => Sys2Proof.Machine.execPks c s
  | .ups c => Sys2Proof.Machine.execUps c s
  | .dsuSuspend c units => Sys2Proof.Machine.execDsuSuspend c units s
  | .fadd c d a b => Sys2Proof.Machine.execFadd c d a b s
  | .fsub c d a b => Sys2Proof.Machine.execFsub c d a b s
  | .fmul c d a b => Sys2Proof.Machine.execFmul c d a b s
  | .fma c d a b => Sys2Proof.Machine.execFma c d a b s
  | .fdiv c l a b => Sys2Proof.Machine.execFdiv c l a b s
  | .fsqrt c l a => Sys2Proof.Machine.execFsqrt c l a s
  | .fcmp c a b => Sys2Proof.Machine.execFcmp c a b s
  | .fcvti c d a => Sys2Proof.Machine.execFcvti c d a s
  | .fcvtf c d a => Sys2Proof.Machine.execFcvtf c d a s
  | .frint c d a => Sys2Proof.Machine.execFrint c d a s
  | .dqadd c d a b => Sys2Proof.Machine.execDqadd c d a b s
  | .dqsub c d a b => Sys2Proof.Machine.execDqsub c d a b s
  | .dqmul c d a b => Sys2Proof.Machine.execDqmul c d a b s
  | .dqdiv c d a b => Sys2Proof.Machine.execDqdiv c d a b s
  | .dqsqrt c d a => Sys2Proof.Machine.execDqsqrt c d a s
  | .dqcmp c a b => Sys2Proof.Machine.execDqcmp c a b s
  | .dqfix c d a => Sys2Proof.Machine.execDqfix c d a s
  | .dqflt c d a => Sys2Proof.Machine.execDqflt c d a s
  | .dqrint c d a => Sys2Proof.Machine.execDqrint c d a s
  | .dqquant c d a b => Sys2Proof.Machine.execDqquant c d a b s
  | .dqld c d a => Sys2Proof.Machine.execDqld c d a s
  | .dqst c d a => Sys2Proof.Machine.execDqst c d a s
  | .vld c l a => Sys2Proof.Machine.execVld c l a s
  | .vst c l a b => Sys2Proof.Machine.execVst c l a b s
  | .vget c l a b => Sys2Proof.Machine.execVget c l a b s
  | .vput c l a b => Sys2Proof.Machine.execVput c l a b s
  | .vcas c l a b => Sys2Proof.Machine.execVcas c l a b s
  | .vldServe c r => Sys2Proof.Machine.execVldServe c r s
  | .vstServe c r => Sys2Proof.Machine.execVstServe c r s
  | .vgetServe c l => Sys2Proof.Machine.execVgetServe c l s
  | .vputServe c l => Sys2Proof.Machine.execVputServe c l s
  | .vcasServe c l => Sys2Proof.Machine.execVcasServe c l s
  | .vatPoisonMark line => Sys2Proof.Machine.execVatPoisonMark line s
  | .find c l a => Sys2Proof.Machine.execFind c l a s
  | .findServe c l => Sys2Proof.Machine.execFindServe c l s
  | .dswap c l a b => Sys2Proof.Machine.execDswap c l a b s
  | .dswapServe c l => Sys2Proof.Machine.execDswapServe c l s
  | .dswapDeliver c l => Sys2Proof.Machine.execDswapDeliver c l s
  | .post c l a => Sys2Proof.Machine.execPost c l a s
  | .postLockLo id => Sys2Proof.Machine.execPostLockLo id s
  | .postLockHi id => Sys2Proof.Machine.execPostLockHi id s
  | .postClose id => Sys2Proof.Machine.execPostClose id s
  | .postWriteLo id => Sys2Proof.Machine.execPostWriteLo id s
  | .postReleaseHi id => Sys2Proof.Machine.execPostReleaseHi id s
  | .swait c l a => Sys2Proof.Machine.execSwait c l a s
  | .swaitDeliver c w => Sys2Proof.Machine.execSwaitDeliver c w s
  | .deviceInServe c l => Sys2Proof.Machine.execDeviceInServe c l s
  | .deviceOutAccept c => Sys2Proof.Machine.execDeviceOutAccept c s
  | .longOpDeliver c d => Sys2Proof.Machine.execLongOpDeliver c d s
  | .vgetDeliver c l => Sys2Proof.Machine.execVgetDeliver c l s
  | .customerInstruction c w0 w1 w2 => Sys2Proof.Machine.execCustomerInstruction c w0 w1 w2 s
  | .storeBufferDrain c => Sys2Proof.Machine.execStoreBufferDrain c s
  | .tlbWalk c k va => Sys2Proof.Machine.execTlbWalk c k va s
  | .icacheFill c addr => Sys2Proof.Machine.execIcacheFill c addr s
  | .exceptionEntry c x xad lvl => Sys2Proof.Machine.execExceptionEntry c x xad lvl s
  | .decimalOverflowTrap c => Sys2Proof.Machine.execDecimalOverflowTrap c s
  | .floatingTrap c => Sys2Proof.Machine.execFloatingTrap c s
  | .interruptEntry c => Sys2Proof.Machine.execInterruptEntry c s
  | .machineCheck c m => Sys2Proof.Machine.execMachineCheck c m s
  | .checkstop c => Sys2Proof.Machine.execCheckstop c s
  | .controlStoreReload c dsu ok => Sys2Proof.Machine.execControlStoreReload c dsu ok s
  | .intSourceEvent q s0 => Sys2Proof.Machine.execIntSourceEvent q s0 s
  | .intDeliver q s0 => Sys2Proof.Machine.execIntDeliver q s0 s
  | .intSet q v => Sys2Proof.Machine.execIntSet q v s
  | .timerMatch c => Sys2Proof.Machine.execTimerMatch c s
  | .mbxSend who c v => Sys2Proof.Machine.execMbxSend who c v s
  | .coreWake c => Sys2Proof.Machine.execCoreWake c s
  | .coreRegate c => Sys2Proof.Machine.execCoreRegate c s
  | .coreReset c => Sys2Proof.Machine.execCoreReset c s
  | .tlbShoot q v => Sys2Proof.Machine.execTlbShoot q v s
  | .shootApply q t => Sys2Proof.Machine.execShootApply q t s
  | .wardenFailed q => Sys2Proof.Machine.execWardenFailed q s
  | .fatalFault k => Sys2Proof.Machine.execFatalFault k s
  | .stewardWatchdog => Sys2Proof.Machine.execStewardWatchdog s
  | .logFlush => Sys2Proof.Machine.execLogFlush s
  | .seCtlEn e v => Sys2Proof.Machine.execSeCtlEn e v s
  | .seCtlHalt e v => Sys2Proof.Machine.execSeCtlHalt e v s
  | .seCtlAbt e => Sys2Proof.Machine.execSeCtlAbt e s
  | .seCtlCen e v => Sys2Proof.Machine.execSeCtlCen e v s
  | .seHead who e v => Sys2Proof.Machine.execSeHead who e v s
  | .seMdata e v => Sys2Proof.Machine.execSeMdata e v s
  | .seDescriptorStart e => Sys2Proof.Machine.execSeDescriptorStart e s
  | .sePrefetch e n => Sys2Proof.Machine.execSePrefetch e n s
  | .seSlotTake e => Sys2Proof.Machine.execSeSlotTake e s
  | .seDescriptorComplete e src records => Sys2Proof.Machine.execSeDescriptorComplete e src records s
  | .windowRecordEnqueue e => Sys2Proof.Machine.execWindowRecordEnqueue e s
  | .swinEnable c w v => Sys2Proof.Machine.execSwinEnable c w v s
  | .swinDisable c w => Sys2Proof.Machine.execSwinDisable c w s
  | .swinCancel c w => Sys2Proof.Machine.execSwinCancel c w s
  | .jnlPen v => Sys2Proof.Machine.execJnlPen v s
  | .jnlRpe v => Sys2Proof.Machine.execJnlRpe v s
  | .jnlHde v => Sys2Proof.Machine.execJnlHde v s
  | .jnlMrel => Sys2Proof.Machine.execJnlMrel s
  | .jnlNext v => Sys2Proof.Machine.execJnlNext v s
  | .jnlDur v => Sys2Proof.Machine.execJnlDur v s
  | .journalHbmCopy => Sys2Proof.Machine.execJournalHbmCopy s
  | .hostDrain => Sys2Proof.Machine.execHostDrain s
  | .pfail => Sys2Proof.Machine.execPfail s
  | .freeze => Sys2Proof.Machine.execFreeze s
  | .journalSheetSend => Sys2Proof.Machine.execJournalSheetSend s
  | .journalSheetTimer => Sys2Proof.Machine.execJournalSheetTimer s
  | .journalSheetReceive sheet => Sys2Proof.Machine.execJournalSheetReceive sheet s
  | .acknowledgement sheet => Sys2Proof.Machine.execAcknowledgement sheet s
  | .ackRepeat => Sys2Proof.Machine.execAckRepeat s
  | .resend sheet => Sys2Proof.Machine.execResend sheet s
  | .resendTimeout => Sys2Proof.Machine.execResendTimeout s
  | .dur sheet => Sys2Proof.Machine.execDur sheet s
  | .durSend => Sys2Proof.Machine.execDurSend s
  | .hello p sheet => Sys2Proof.Machine.execHello p sheet s
  | .census sheet => Sys2Proof.Machine.execCensus sheet s
  | .keysw p sheet => Sys2Proof.Machine.execKeysw p sheet s
  | .keepalive p => Sys2Proof.Machine.execKeepalive p s
  | .calenderSlot p => Sys2Proof.Machine.execCalenderSlot p s
  | .calibrationSheet p sheet => Sys2Proof.Machine.execCalibrationSheet p sheet s
  | .portLost p => Sys2Proof.Machine.execPortLost p s
  | .relock p => Sys2Proof.Machine.execRelock p s
  | .ringLeave => Sys2Proof.Machine.execRingLeave s
  | .ringInsert => Sys2Proof.Machine.execRingInsert s
  | .ringHelloStart => Sys2Proof.Machine.execRingHelloStart s
  | .helloTimeout => Sys2Proof.Machine.execHelloTimeout s
  | .ringJenSet => Sys2Proof.Machine.execRingJenSet s
  | .ringJenClear => Sys2Proof.Machine.execRingJenClear s
  | .ringRjr => Sys2Proof.Machine.execRingRjr s
  | .ringKey p r => Sys2Proof.Machine.execRingKey p r s
  | .ringEnLow => Sys2Proof.Machine.execRingEnLow s
  | .ringEnHigh => Sys2Proof.Machine.execRingEnHigh s
  | .scrubRead => Sys2Proof.Machine.execScrubRead s
  | .hbmRefresh => Sys2Proof.Machine.execHbmRefresh s
  | .hbmTempRead t => Sys2Proof.Machine.execHbmTempRead t s
  | .calenderWindowOpen => Sys2Proof.Machine.execCalenderWindowOpen s
  | .calenderWindowClose wmin rmin low => Sys2Proof.Machine.execCalenderWindowClose wmin rmin low s
  | .bar0Read off len => Sys2Proof.Machine.execBar0Read off len s
  | .bar0Write off bytes => Sys2Proof.Machine.execBar0Write off bytes s
  | .bar4Read off len => Sys2Proof.Machine.execBar4Read off len s
  | .bar4Write off bytes => Sys2Proof.Machine.execBar4Write off bytes s
  | .configRequest f r => Sys2Proof.Machine.execConfigRequest f r s
  | .sqDoorbell f n v => Sys2Proof.Machine.execSqDoorbell f n v s
  | .cqDoorbell f n v => Sys2Proof.Machine.execCqDoorbell f n v s
  | .queuePairEnable n v => Sys2Proof.Machine.execQueuePairEnable n v s
  | .sqFetch n r => Sys2Proof.Machine.execSqFetch n r s
  | .submissionReceive n => Sys2Proof.Machine.execSubmissionReceive n s
  | .cqCmpl n v => Sys2Proof.Machine.execCqCmpl n v s
  | .completionRelease n ok => Sys2Proof.Machine.execCompletionRelease n ok s
  | .cqSignalTimer n => Sys2Proof.Machine.execCqSignalTimer n s
  | .flrVf f => Sys2Proof.Machine.execFlrVf f s
  | .flrPf => Sys2Proof.Machine.execFlrPf s
  | .linkDown => Sys2Proof.Machine.execLinkDown s
  | .busMasterEnable f v => Sys2Proof.Machine.execBusMasterEnable f v s
  | .controlStoreLoad bundle v => Sys2Proof.Machine.execControlStoreLoad bundle v s
  | .inBandCommand => Sys2Proof.Machine.execInBandCommand s
  | .getStatus p => Sys2Proof.Machine.execGetStatus p s
  | .ackAlert p => Sys2Proof.Machine.execAckAlert p s
  | .readLog p first count nonce => Sys2Proof.Machine.execReadLog p first count nonce s
  | .readJournal p mirror first count => Sys2Proof.Machine.execReadJournal p mirror first count s
  | .readPort p port => Sys2Proof.Machine.execReadPort p port s
  | .ownerKey p r => Sys2Proof.Machine.execOwnerKey p r s
  | .extendMr7 p d => Sys2Proof.Machine.execExtendMr7 p d s
  | .debugUnlock p password => Sys2Proof.Machine.execDebugUnlock p password s
  | .debugLock p => Sys2Proof.Machine.execDebugLock p s
  | .vendorChallenge p => Sys2Proof.Machine.execVendorChallenge p s
  | .vendorResponse p sig => Sys2Proof.Machine.execVendorResponse p sig s
  | .updateImage p t off bytes => Sys2Proof.Machine.execUpdateImage p t off bytes s
  | .commit p t => Sys2Proof.Machine.execCommit p t s
  | .getVersion p => Sys2Proof.Machine.execGetVersion p s
  | .getCapabilities p => Sys2Proof.Machine.execGetCapabilities p s
  | .negotiateAlgorithms p p384 sha384 dmtf => Sys2Proof.Machine.execNegotiateAlgorithms p p384 sha384 dmtf s
  | .getDigests p => Sys2Proof.Machine.execGetDigests p s
  | .getCertificate p slot off len => Sys2Proof.Machine.execGetCertificate p slot off len s
  | .challenge p slot nonce => Sys2Proof.Machine.execChallenge p slot nonce s
  | .getMeasurements p index signed nonce => Sys2Proof.Machine.execGetMeasurements p index signed nonce s
  | .respondIfReady p => Sys2Proof.Machine.execRespondIfReady p s
  | .setEndpointId p eid => Sys2Proof.Machine.execSetEndpointId p eid s
  | .getEndpointId p => Sys2Proof.Machine.execGetEndpointId p s
  | .getMctpVersionSupport p => Sys2Proof.Machine.execGetMctpVersionSupport p s
  | .getMessageTypeSupport p => Sys2Proof.Machine.execGetMessageTypeSupport p s
  | .bypass => Sys2Proof.Machine.execBypass s
  | .idcode => Sys2Proof.Machine.execIdcode s
  | .samplePreload inputs held => Sys2Proof.Machine.execSamplePreload inputs held s
  | .extest inputs held => Sys2Proof.Machine.execExtest inputs held s
  | .extestPulse => Sys2Proof.Machine.execExtestPulse s
  | .extestTrain => Sys2Proof.Machine.execExtestTrain s
  | .unlock len data => Sys2Proof.Machine.execUnlock len data s
  | .vchal => Sys2Proof.Machine.execVchal s
  | .powerRun => Sys2Proof.Machine.execPowerRun s
  | .powerTrim tq => Sys2Proof.Machine.execPowerTrim tq s
  | .powerIdle => Sys2Proof.Machine.execPowerIdle s
  | .powerDormant => Sys2Proof.Machine.execPowerDormant s
  | .thermalSensorRead t => Sys2Proof.Machine.execThermalSensorRead t s
  | .throttleChange => Sys2Proof.Machine.execThrottleChange s
  | .thermalTrip stack => Sys2Proof.Machine.execThermalTrip stack s
  | .refclkLoss => Sys2Proof.Machine.execRefclkLoss s
  | .undervoltage rail => Sys2Proof.Machine.execUndervoltage rail s
  | .undervoltageHold => Sys2Proof.Machine.execUndervoltageHold s
  | .pwrgoodRise => Sys2Proof.Machine.execPwrgoodRise s
  | .pwrgoodFall => Sys2Proof.Machine.execPwrgoodFall s
  | .rstNAssert => Sys2Proof.Machine.execRstNAssert s
  | .perstNAssert => Sys2Proof.Machine.execPerstNAssert s
  | .warmResetAssert => Sys2Proof.Machine.execWarmResetAssert s
  | .resetRelease b => Sys2Proof.Machine.execResetRelease b s
  | .registerWrite who port v => Sys2Proof.Machine.execRegisterWrite who port v s
  | .linkUp width speed => Sys2Proof.Machine.execLinkUp width speed s
  | .completionTimeout e n => Sys2Proof.Machine.execCompletionTimeout e n s
  | .msixTableWrite f v dw val => Sys2Proof.Machine.execMsixTableWrite f v dw val s
  | .lanesLocked p => Sys2Proof.Machine.execLanesLocked p s
  | .lossOfLock p => Sys2Proof.Machine.execLossOfLock p s

end Sys2Proof.Machine
end

