-- ==== Sys2Proof/Safety.lean ====
section
/-! DEFINITION. What counts as a safe run: no command ends it, and memory and the mode-independent bounds hold. -/
namespace Sys2Proof.Machine

/-- The memories, the key array and their marks are in their canonical form (R215, R274, R333, R412, R425). -/
def State.memWf (s : State) : Bool :=
  s.phys.wf && s.vatMark.wf && s.hbmEcc.wf && s.jnlMark.wf && s.keys.wf && s.keyMark.wf

/-- A core's local RAM, instruction RAM and jump table, with their marks, are in canonical form (R32, R33, R177). -/
def Core.arraysWf (k : Core) : Bool :=
  k.loc.wf && k.locBad.wf && k.locOne.wf && k.iram.wf && k.iramBad.wf && k.jtab.wf
/-- The stores of a quire's image are in canonical form (R377, R392). -/
def Image.arraysWf (g : Image) : Bool := g.dispatch.wf && g.micro.wf && g.nano.wf && g.dsu.wf && g.parity.wf
/-- The arrays of the device's blocks are in canonical form: those of every core, the image of every quire and of every quire that
a load has still to reach, the mirror's slots, every engine's mould store, the MSI-X tables, the data that BAR4 reads have gathered,
the error counts of the units, and the Steward's buffer, log chain and flash. -/
def State.blockWf (s : State) : Bool :=
  s.cores.toList.all Core.arraysWf && s.quires.toList.all (fun q => q.image.arraysWf) && s.stw.mcTodo.all (fun x => x.2.arraysWf)
    && s.jnl.mslots.wf && s.engines.toList.all (fun x => x.mould.wf) && s.host.msix.wf && s.host.pba.wf
    && s.host.reads.all (fun r => r.data.wf) && s.ceCount.wf && s.ueCount.wf && s.stw.buf.wf && s.stw.chains.wf && s.stw.flash.wf

/-- A step that neither faults nor refuses. -/
def Safe (s : State) : Prop := ∃ t, step s = .next t

end Sys2Proof.Machine
end

