-- ==== Sys2Proof/Certificates/Slice0/Obligations.lean ====
section
/-!
DEFINITION. The statements about the KL64: what each command does where it completes, what taking an exception writes, what every
step keeps. The definitions before the statements say, from the rules they name, what the statements are about.
-/
namespace Sys2Proof.Claims
open Sys2Proof.Machine

/-- The fetch at the pc of core c brings these words; k is the core after the fetch, which changes only how recently translations
and cached lines were used (R33, R101, R324). -/
def Fetches (s : State) (c : CoreId) (ws : List W16) (k : Core) : Prop :=
  fetchInstr (s.quire (coreQuire c)).image (s.core c) (s.core c).pc = .ok ws k

/-- The words at the pc of core c spell instruction i (R100 to R102). -/
def AtPc (s : State) (c : CoreId) (i : Instr) : Prop := ∃ ws k, Fetches s c ws k ∧ spells c k ws i = true

/-- The dispatch entry of the major opcode of the first word has right parity, as it is read in D (R377, R392). -/
def DispatchReads (s : State) (c : CoreId) (ws : List W16) : Prop :=
  (s.quire (coreQuire c)).image.parityOk 1 ((ws.getD 0 0).extractLsb' 8 8).toNat = true

/-- Core c issues an instruction of len words: nothing holds the core at this boundary, the fetch brings the words, and their dispatch
entry reads with right parity (R33, R324, R359, R392). -/
def Issues (s : State) (c : CoreId) (len : Nat) (k : Core) : Prop :=
  s.canIssue c = true ∧ ∃ ws, Fetches s c ws k ∧ ws.length = len ∧ DispatchReads s c ws

/-- Issues, outside a delay slot (R88). -/
def IssuesOpen (s : State) (c : CoreId) (len : Nat) (k : Core) : Prop := Issues s c len k ∧ k.branch = none

/-- Issues, in Service mode (R31). -/
def IssuesService (s : State) (c : CoreId) (len : Nat) (k : Core) : Prop := Issues s c len k ∧ k.sys.mode = true

/-- Issues, in Service mode and outside a delay slot. -/
def IssuesSystem (s : State) (c : CoreId) (len : Nat) (k : Core) : Prop :=
  Issues s c len k ∧ k.branch = none ∧ k.sys.mode = true

/-- Where the words at the pc of core c spell i, i answers a next state: the device t in which core c has completed an instruction
of len words. k1 is the core with what the instruction wrote at once, `own` its results with their distances, and the pc goes on
as Core.finish gives. Nothing but core c differs from t. -/
def Ends (i : Instr) (s t : State) (c : CoreId) (len : Nat) (k1 : Core) (own : List Flight) (nx : Next := .seq) : Prop :=
  AtPc s c i → exec i s = .next (t.setCore c (k1.finish len own nx))

/-- Where the words at the pc of core c spell i, i raises a precise exception and has no other effect. -/
def Raises (i : Instr) (s : State) (c : CoreId) (k : Core) (cause : BitVec 8) (xad : BitVec 40) : Prop :=
  AtPc s c i → exec i s = .next (s.setCore c (k.enterPrecise cause xad 0))

/-- The core after it has completed some more instructions with these results of their own. -/
def retireAll (k : Core) (between : List (List Flight)) : Core := between.foldl (fun k own => k.retire own) k

/-- A result in flight is for G register r. -/
def namesG (f : Flight) (r : GReg) : Bool :=
  match f.dst with
  | .g q _ => q == r
  | _ => false

/-- A result in flight is for accumulator r. -/
def namesA (f : Flight) (r : AReg) : Bool :=
  match f.dst with
  | .a q _ => q == r
  | _ => false

/-- t has one more log entry than s, for a source: the next sequence number, TMR_NOW, and the chain digest C := SHA-384(C ‖ bytes 0
to 55), whose first 8 bytes are the entry's last (R491). -/
def Logged (s t : State) (source : BitVec 16) : Prop :=
  ∃ e : LogEntry, t.stw.log.getLast? = some e ∧ t.stw.logNext = s.stw.logNext + 1#32
    ∧ e.seq = s.stw.logNext ∧ e.time = s.tmr ∧ e.source = source
    ∧ t.stw.chain = Config.sha384 (natBytesBE 48 s.stw.chain.toNat ++ e.bytes.take 56)
    ∧ e.bytes.drop 56 = (natBytesBE 48 t.stw.chain.toNat).take 8
    ∧ (s.stw.log.length = 1024 → t.stw.log = s.stw.log.drop 1 ++ [e])
    ∧ (s.stw.log.length < 1024 → t.stw.log = s.stw.log ++ [e])

/-- No command waits, and nothing goes on by itself but a transition of the power state: no change of the spread depth, no request on
the mesh and no access to a port that waits, no stream pair to gate, no DSU operation, no core reset and no second fatal fault. -/
def Calm (s : State) : Prop :=
  s.pending = [] ∧ s.pwr.ssca = (if 6 ≤ s.pwr.ssc.toNat then 0 else s.pwr.ssc) ∧ s.waits = [] ∧ s.host.reads = [] ∧ s.accs = []
  ∧ (s.pwr.st = .idle → ∀ e : EngId, (s.eng e).hasWork = false → (s.eng (pairOf e)).hasWork = false →
      (s.eng e).gated = true ∧ (s.eng (pairOf e)).gated = true)
  ∧ s.stw.faults.length < 2 ∧ ∀ c : CoreId, (s.core c).dsuBusy = false ∧ (s.core c).ctl.rstDue = false

/-- s one mesh cycle later; TMR_NOW counts it unless the mesh spine is gated or power is off (R361, R504). -/
def ticked (s : State) : State :=
  { s with
    now := s.now + 1
    tmr := if s.pwr.spine = true ∧ s.pins.phase ≠ .off then s.tmr + 1#64 else s.tmr }

end Sys2Proof.Claims

open Sys2Proof Sys2Proof.Machine Sys2Proof.Claims

/-! ### The block -/

/-- A step takes the command at the front of the queue and is that command's effect, with the rest of the queue waiting. -/
def Obligations.StepRunsFront : Prop :=
  ∀ (s : State) (c : Instr) (rest : List Instr), step { s with pending := c :: rest } = exec c { s with pending := rest }

/-- With no command waiting and nothing under way that goes on by itself (a transition of the power state, a change of the spread
depth, a request on the mesh or an access to a port that waits, a stream pair to gate, a DSU operation, a core's reset, a second
fatal fault), one mesh cycle passes and nothing
else changes; TMR_NOW counts it unless the mesh spine is gated or power is off (R361, R504). That a cycle passes then is the
model's choice (notes/assumptions/1.md). -/
def Obligations.IdleStepIsOneCycle : Prop :=
  ∀ s : State, Calm s → s.pwr.move = .still →
    step s = .next (ticked s) ∧ (ticked s).tmr = (if s.pwr.st = .dormant ∨ s.pins.phase = .off then s.tmr else s.tmr + 1#64)

/-- Every array of the device stays in its canonical form: from a state whose arrays are, no command and no cycle leaves
another. The Vat, the HBM, the journal SRAM, the key array and their marks are one invariant (R215, R274, R333, R412, R425), and the
arrays of the blocks another: the cores' RAMs with their marks and jump tables, the control-store images, the journal's mirror, the
moulds, the MSI-X tables, the data of BAR4 reads, the error counts, and the Steward's buffer, log chain and flash (R32, R33, R177,
R258, R290, R377, R392, R457, R475, R488, R491). -/
def Obligations.ArraysStayCanonical : Prop :=
  (∀ s t : State, s.memWf = true → step s = .next t → t.memWf = true)
  ∧ ∀ s t : State, s.blockWf = true → step s = .next t → t.blockWf = true

/-- At reset every array of the device is in its canonical form. -/
def Obligations.ArraysCanonicalAtReset : Prop := State.reset.memWf = true ∧ State.reset.blockWf = true

/-- R30: Service mode, interrupts disabled and pc 0 out of reset; the core is held, and executes nothing until the Steward's
stage READY releases it; then it fetches from its instruction RAM. -/
def Obligations.CoreLeavesReset : Prop :=
  (∀ c : CoreId, (State.reset.core c).sys.mode = true ∧ (State.reset.core c).sys.ie = false ∧ (State.reset.core c).pc = 0#32
    ∧ State.reset.runs c = false)
  ∧ (∀ (s : State) (c : CoreId), (s.core c).ctl.run = false → s.runs c = false ∧ exec (.nop c) s = .next s)
  ∧ (∀ (s : State) (c : CoreId), ((readyStage s).core c).ctl.run = true)
  ∧ (∀ k : Core, k.pc = 0#32 → k.sys.mode = true → k.iramBad.get 0 = 0#1 → fetchWord k k.pc = .ok (k.iram.get 0) k)

/-! ### The pipe -/

/-- A fetch that brings its words changes nothing of the core but the order of its instruction TLB and instruction cache, which hold
the same entries after it, and brings one word for each address (R98, R320).
Choices of the model on which clauses of it rest: notes/assumptions 4, 15, 18. -/
def Obligations.FetchFrame : Prop :=
  ∀ (k k1 : Core) (a : BitVec 32) (n : Nat) (ws : List W16), fetchRun k a n = .ok ws k1 →
    ws.length = n ∧ k1 = { k with itlb := k1.itlb, icache := k1.icache }
    ∧ k1.itlb.Perm k.itlb ∧ k1.icache.Perm k.icache

/-- R69: of a result with distance d, the instruction that follows with n others between reads the new value when n is at
least d, and the value before the producer when it is less; for G registers and for accumulators, when nothing else in
flight names the register. -/
def Sys2Proof.Claims.ResultAtItsDistance : Prop :=
  (∀ (k : Core) (r : GReg) (v : W64) (d : Nat) (between : List (List Flight)),
    (∀ f ∈ k.flights, namesG f r = false) → (∀ own ∈ between, ∀ f ∈ own, namesG f r = false) →
      (retireAll (k.retire [⟨.g r v, d⟩]) between).gr r = if d ≤ between.length then v else k.gr r)
  ∧ (∀ (k : Core) (r : AReg) (v : Acc) (d : Nat) (between : List (List Flight)),
    (∀ f ∈ k.flights, namesA f r = false) → (∀ own ∈ between, ∀ f ∈ own, namesA f r = false) →
      (retireAll (k.retire [⟨.a r v, d⟩]) between).ac r = if d ≤ between.length then v else k.ac r)

/-- R71: of two results for one G register that become visible before the same instruction, the later producer's stands;
R72: at an entry every result in flight is visible and none is left in flight. -/
def Sys2Proof.Claims.LaterProducerStands : Prop :=
  (∀ (k : Core) (r : GReg) (v1 v2 : W64) (d : Nat),
    (∀ f ∈ k.flights, namesG f r = false) →
      (retireAll (k.retire [⟨.g r v1, d + 1⟩]) ([⟨.g r v2, d⟩] :: List.replicate d [])).gr r = v2)
  ∧ (∀ (k : Core) (cause : BitVec 8) (xad : BitVec 40) (fs gs : List Flight) (r : GReg) (v : W64) (d : Nat),
    k.micro = none → k.flights = fs ++ ⟨.g r v, d⟩ :: gs → (∀ f ∈ gs, namesG f r = false) →
      (k.enterPrecise cause xad 0).gr r = v ∧ (k.enterPrecise cause xad 0).flights = [])

/-- When a result becomes visible, and which of two stands (R69, R71, R72). -/
def Obligations.ResultsAndDistances : Prop := Claims.ResultAtItsDistance ∧ Claims.LaterProducerStands

/-- R117: an instruction outside a delay slot that completes at LE with LC at least 1 ends an iteration: values that an OUT
in the body wrote replace the registers, LC falls by 1 unless it is 0, and the pc is LS while LC is not 0; any other
instruction goes on to the one after it, and a delay slot to the target of its branch (R113).
Choices of the model on which clauses of it rest: notes/assumptions 25. -/
def Obligations.LoopEndAndNextPc : Prop :=
  ∀ (k : Core) (len : Nat) (own : List Flight),
    let after := k.pc + BitVec.ofNat 32 len
    let k1 := k.finish len own .seq
    let lc := k.loop.lcNew.getD k.loop.lc
    let ls := k.loop.lsNew.getD k.loop.ls
    let le := k.loop.leNew.getD k.loop.le
    (∀ b, k.branch = some b → k1.pc = b.target ∧ k1.branch = none ∧ k1.loop = k.loop)
    ∧ (k.branch = none → (k.pc ≠ k.loop.le ∨ k.loop.lc = 0#32) → k1.pc = after ∧ k1.loop = k.loop)
    ∧ (k.branch = none → k.pc = k.loop.le → k.loop.lc ≠ 0#32 →
        k1.loop = ⟨BitVec.ofNat 32 (lc.toNat - 1), ls, le, none, none, none⟩
        ∧ k1.pc = if 2 ≤ lc.toNat then ls else after)

/-- An instruction that completes changes, beyond what it writes itself, only what results in flight name: L registers, the
stack pointers, the return stack, local memory, the store buffer, long ops, queues, translations and the units of the core
are as the instruction leaves them. -/
def Obligations.FinishFrame : Prop :=
  ∀ (k : Core) (len : Nat) (own : List Flight) (nx : Next),
    let k1 := k.finish len own nx
    k1 = { k with
      g := k1.g, a := k1.a, flights := k1.flights, fpDue := k1.fpDue, micro := k1.micro, loop := k1.loop
      pc := k1.pc, branch := k1.branch, icount := k.icount + 1, ahead := k1.ahead, ctl := k.ctl.proceed
      sys := { k.sys with mode := k1.sys.mode, ie := k1.sys.ie, krr := k1.sys.krr, bpctl := k1.sys.bpctl, fpsf := k1.sys.fpsf } }
    ∧ (∀ r : GReg, (∀ f ∈ k.flights, namesG f r = false) → (∀ f ∈ own, namesG f r = false) → k1.gr r = k.gr r)
    ∧ (∀ r : AReg, (∀ f ∈ k.flights, namesA f r = false) → (∀ f ∈ own, namesA f r = false) → k1.ac r = k.ac r)

namespace Sys2Proof.Claims

/-- The flags of the sum of x, y and a carry in (R106): `chain` for ADDC, whose Z chains. -/
def sumFlags (f : Flags) (x y : W64) (cin : Nat) (chain : Bool) : Flags :=
  let n : Int := x.toInt + y.toInt + cin
  let r : W64 := x + y + BitVec.ofNat 64 cin
  { c := decide (2 ^ 64 ≤ x.toNat + y.toNat + cin), v := decide (n < -2 ^ 63 ∨ 2 ^ 63 ≤ n), n := decide (2 ^ 63 ≤ r.toNat)
    z := decide (r = 0#64) && (!chain || f.z), dc := f.dc }

/-- The flags of x − y − a borrow in (R106): `chain` for SUBC. -/
def diffFlags (f : Flags) (x y : W64) (bin : Nat) (chain : Bool) : Flags :=
  let n : Int := x.toInt - y.toInt - bin
  let r : W64 := x - y - BitVec.ofNat 64 bin
  { c := decide (y.toNat + bin ≤ x.toNat), v := decide (n < -2 ^ 63 ∨ 2 ^ 63 ≤ n), n := decide (2 ^ 63 ≤ r.toNat)
    z := decide (r = 0#64) && (!chain || f.z), dc := f.dc }

/-- The flags of a logic result (R106). -/
def logicFlags (f : Flags) (r : W64) : Flags :=
  { f with v := false, n := decide (2 ^ 63 ≤ r.toNat), z := decide (r = 0#64) }

/-- The flags of a shift or rotate (R106): for a count that is not 0, C is the last bit out. -/
def shiftFlags (f : Flags) (r : W64) (count : Nat) (last : Bool) : Flags :=
  { logicFlags f r with c := if count = 0 then f.c else last }

/-- x shifted left by n of 0 to 63, and the last bit shifted out. -/
def shiftedLeft (x : W64) (n : Nat) : W64 × Bool := (BitVec.ofNat 64 (x.toNat * 2 ^ n), decide (x.toNat / 2 ^ (64 - n) % 2 = 1))
/-- x shifted right by n with zero fill. -/
def shiftedRight (x : W64) (n : Nat) : W64 × Bool := (BitVec.ofNat 64 (x.toNat / 2 ^ n), decide (x.toNat / 2 ^ (n - 1) % 2 = 1))
/-- x shifted right by n with sign fill. -/
def shiftedSign (x : W64) (n : Nat) : W64 × Bool := (BitVec.ofInt 64 (x.toInt / 2 ^ n), decide (x.toNat / 2 ^ (n - 1) % 2 = 1))
/-- x rotated left by n; the last bit is bit 0 of the result. -/
def rotatedLeft (x : W64) (n : Nat) : W64 × Bool :=
  let r := BitVec.ofNat 64 (x.toNat * 2 ^ n % 2 ^ 64 + x.toNat / 2 ^ (64 - n))
  (r, decide (r.toNat % 2 = 1))

/-- A result with distance d for G register r. -/
def toG (r : GReg) (v : W64) (d : Nat := 0) : List Flight := [⟨.g r v, d⟩]

end Sys2Proof.Claims

/-! ### Integer instructions -/

/-- ADD, SUB, ADDC, SUBC, ADDI, CMP, CMPI and NEG (R104, R105, R106): the result modulo 2^64 with distance 0, C the carry out
of bit 63 or the absence of a borrow, V signed overflow, Z chained by ADDC and SUBC. -/
def Obligations.AddAndSubtract : Prop :=
  (∀ (s : State) (c : CoreId) (f : RForm) (k : Core), Issues s c (rformLen f) k →
    let x := rformX k f; let y := rformY k f; let cy := k.fl.c.toNat; let bw := 1 - k.fl.c.toNat
    Ends (.add c f) s s c (rformLen f) { k with fl := sumFlags k.fl x y 0 false } (toG (rformDst f) (x + y))
    ∧ Ends (.addc c f) s s c (rformLen f) { k with fl := sumFlags k.fl x y cy true }
        (toG (rformDst f) (x + y + BitVec.ofNat 64 cy))
    ∧ Ends (.sub c f) s s c (rformLen f) { k with fl := diffFlags k.fl x y 0 false } (toG (rformDst f) (x - y))
    ∧ Ends (.subc c f) s s c (rformLen f) { k with fl := diffFlags k.fl x y bw true }
        (toG (rformDst f) (x - y - BitVec.ofNat 64 bw)))
  ∧ (∀ (s : State) (c : CoreId) (d a : SReg) (k : Core), Issues s c 1 k →
    Ends (.cmp c (.s d a)) s s c 1 { k with fl := diffFlags k.fl (k.gr (sreg d)) (k.gr (sreg a)) 0 false } []
    ∧ Ends (.neg c d) s s c 1 { k with fl := diffFlags k.fl 0#64 (k.gr (sreg d)) 0 false }
        (toG (sreg d) (0#64 - k.gr (sreg d))))
  ∧ (∀ (s : State) (c : CoreId) (a b : GReg) (k : Core), Issues s c 2 k →
    Ends (.cmp c (.w a b)) s s c 2 { k with fl := diffFlags k.fl (k.gr a) (k.gr b) 0 false } [])
  ∧ (∀ (s : State) (c : CoreId) (d a : GReg) (i : BitVec 16) (k : Core), Issues s c 3 k →
    let y : W64 := BitVec.ofInt 64 i.toInt
    Ends (.addi c d a i) s s c 3 { k with fl := sumFlags k.fl (k.gr a) y 0 false } (toG d (k.gr a + y))
    ∧ Ends (.cmpi c a i) s s c 3 { k with fl := diffFlags k.fl (k.gr a) y 0 false } [])

/-- AND, OR, XOR, ANDN, NOT, TST and the immediate forms set N and Z from the result, V to 0 and leave C; MOV, MOVI, MOVIU and
MOVH leave every flag (R104, R105, R106). -/
def Sys2Proof.Claims.LogicAndMoves : Prop :=
  (∀ (s : State) (c : CoreId) (f : RForm) (k : Core), Issues s c (rformLen f) k →
    let x := rformX k f; let y := rformY k f
    let gives := fun (i : Instr) (r : W64) => Ends i s s c (rformLen f) { k with fl := logicFlags k.fl r } (toG (rformDst f) r)
    gives (.and c f) (x &&& y) ∧ gives (.or c f) (x ||| y) ∧ gives (.xor c f) (x ^^^ y))
  ∧ (∀ (s : State) (c : CoreId) (d a b : GReg) (k : Core), Issues s c 2 k →
    let r := k.gr a &&& ~~~(k.gr b)
    Ends (.andn c d a b) s s c 2 { k with fl := logicFlags k.fl r } (toG d r)
    ∧ Ends (.mov c (.w d a)) s s c 2 k (toG d (k.gr a)))
  ∧ (∀ (s : State) (c : CoreId) (d a : SReg) (k : Core), Issues s c 1 k →
    let r := ~~~(k.gr (sreg d))
    Ends (.not c d) s s c 1 { k with fl := logicFlags k.fl r } (toG (sreg d) r)
    ∧ Ends (.tst c d) s s c 1 { k with fl := logicFlags k.fl (k.gr (sreg d)) } []
    ∧ Ends (.mov c (.s d a)) s s c 1 k (toG (sreg d) (k.gr (sreg a))))
  ∧ (∀ (s : State) (c : CoreId) (d a : GReg) (i : BitVec 16) (k : Core), Issues s c 3 k →
    let y : W64 := BitVec.ofNat 64 i.toNat
    let gives := fun (i : Instr) (r : W64) => Ends i s s c 3 { k with fl := logicFlags k.fl r } (toG d r)
    gives (.andi c d a i) (k.gr a &&& y) ∧ gives (.ori c d a i) (k.gr a ||| y)
    ∧ gives (.xori c d a i) (k.gr a ^^^ y))
  ∧ (∀ (s : State) (c : CoreId) (d : GReg) (i : BitVec 32) (k : Core), Issues s c 3 k →
    Ends (.movi c d i) s s c 3 k (toG d (BitVec.ofInt 64 i.toInt))
    ∧ Ends (.moviu c d i) s s c 3 k (toG d (BitVec.ofNat 64 i.toNat))
    ∧ Ends (.movh c d i) s s c 3 k (toG d (BitVec.ofNat 64 (i.toNat * 2 ^ 32 + (k.gr d).toNat % 2 ^ 32))))

/-- SHL, SHR, SAR, ROL and their immediate forms (R104, R105, R106): the count is bits [5:0], C is the last bit shifted out,
for ROL bit 0 of the result, and is unchanged for a count of 0. -/
def Sys2Proof.Claims.Shifts : Prop :=
  (∀ (s : State) (c : CoreId) (f : RForm) (k : Core), Issues s c (rformLen f) k →
    let x := rformX k f; let n := (rformY k f).toNat % 64
    let gives := fun (i : Instr) (r : W64 × Bool) =>
      Ends i s s c (rformLen f) { k with fl := shiftFlags k.fl r.1 n r.2 } (toG (rformDst f) r.1)
    gives (.shl c f) (shiftedLeft x n) ∧ gives (.shr c f) (shiftedRight x n)
    ∧ gives (.sar c f) (shiftedSign x n))
  ∧ (∀ (s : State) (c : CoreId) (d a b : GReg) (k : Core), Issues s c 2 k →
    let n := (k.gr b).toNat % 64; let r := rotatedLeft (k.gr a) n
    Ends (.rol c d a b) s s c 2 { k with fl := shiftFlags k.fl r.1 n r.2 } (toG d r.1))
  ∧ (∀ (s : State) (c : CoreId) (d a : GReg) (i : BitVec 6) (k : Core), Issues s c 3 k →
    let n := i.toNat
    let gives := fun (i : Instr) (r : W64 × Bool) => Ends i s s c 3 { k with fl := shiftFlags k.fl r.1 n r.2 } (toG d r.1)
    gives (.shli c d a i) (shiftedLeft (k.gr a) n) ∧ gives (.shri c d a i) (shiftedRight (k.gr a) n)
    ∧ gives (.sari c d a i) (shiftedSign (k.gr a) n) ∧ gives (.roli c d a i) (rotatedLeft (k.gr a) n))

/-- The logic instructions, moves and shifts (R104 to R106). -/
def Obligations.LogicMovesAndShifts : Prop := Claims.LogicAndMoves ∧ Claims.Shifts

/-- MUL, MULW, MULWU and MAC (R107): no flag changes; the pair holds the 128-bit product, its more significant part in Gd, both
with distance 2; an odd d is illegal (R102). -/
def Sys2Proof.Claims.Multiply : Prop :=
  ∀ (s : State) (c : CoreId) (d a b : GReg) (k : Core), Issues s c 2 k →
    Ends (.mul c d a b) s s c 2 k (toG d (BitVec.ofNat 64 ((k.gr a).toNat * (k.gr b).toNat)) 2)
    ∧ Ends (.mac c d a b) s s c 2 k
        (toG d (BitVec.ofNat 64 ((k.gr d).toNat + (k.gr a).toNat * (k.gr b).toNat)) 2)
    ∧ (d.val % 2 = 0 → ∃ hi lo e, e.val = d.val + 1
        ∧ Ends (.mulw c d a b) s s c 2 k (toG d hi 2 ++ toG e lo 2)
        ∧ hi.toInt * 2 ^ 64 + lo.toNat = (k.gr a).toInt * (k.gr b).toInt)
    ∧ (d.val % 2 = 0 → ∃ hi lo e, e.val = d.val + 1
        ∧ Ends (.mulwu c d a b) s s c 2 k (toG d hi 2 ++ toG e lo 2)
        ∧ hi.toNat * 2 ^ 64 + lo.toNat = (k.gr a).toNat * (k.gr b).toNat)
    ∧ (d.val % 2 = 1 → Raises (.mulw c d a b) s c k 0x01 (BitVec.ofNat 40 k.pc.toNat)
        ∧ Raises (.mulwu c d a b) s c k 0x01 (BitVec.ofNat 40 k.pc.toNat))

/-- R108: DIV and DIVU. The quotient truncates toward zero and the remainder has the sign of the dividend and a magnitude
below that of the divisor; a divisor of 0 and the one overflow give the results of the table and V = 1. Distance 0; C, N, Z
and DC are unchanged (R106); an odd d is illegal (R102). -/
def Sys2Proof.Claims.Divide : Prop :=
  ∀ (s : State) (c : CoreId) (d a b : GReg) (k : Core), Issues s c 2 k →
    let x := k.gr a; let y := k.gr b
    let gives := fun (i : Instr) (q r : W64) (v : Bool) => ∃ e, e.val = d.val + 1
      ∧ Ends i s s c 2 { k with fl := { k.fl with v := v } } (toG d q ++ toG e r)
    (d.val % 2 = 0 →
      (y = 0#64 → gives (.div c d a b) (BitVec.allOnes 64) x true
        ∧ gives (.divu c d a b) (BitVec.allOnes 64) x true)
      ∧ (x.toInt = -2 ^ 63 → y.toInt = -1 → gives (.div c d a b) x 0#64 true)
      ∧ (y ≠ 0#64 → ¬ (x.toInt = -2 ^ 63 ∧ y.toInt = -1) → ∃ q r, gives (.div c d a b) q r false
          ∧ x.toInt = q.toInt * y.toInt + r.toInt ∧ r.toInt.natAbs < y.toInt.natAbs ∧ 0 ≤ x.toInt * r.toInt)
      ∧ (y ≠ 0#64 → ∃ q r, gives (.divu c d a b) q r false
          ∧ x.toNat = q.toNat * y.toNat + r.toNat ∧ r.toNat < y.toNat))
    ∧ (d.val % 2 = 1 → Raises (.div c d a b) s c k 0x01 (BitVec.ofNat 40 k.pc.toNat)
        ∧ Raises (.divu c d a b) s c k 0x01 (BitVec.ofNat 40 k.pc.toNat))

/-- The multiplications and divisions (R107, R108). -/
def Obligations.MultiplyAndDivide : Prop := Claims.Multiply ∧ Claims.Divide

namespace Sys2Proof.Claims

/-- What a local word reads as: the youngest store of the buffer that holds it, or the bank (R84). -/
def localView (k : Core) (x : Nat) : W16 :=
  k.sbuf.foldl (fun v e =>
    match e with
    | .loc b ws => if b ≤ x ∧ x < b + ws.length then ws.getD (x - b) 0 else v
    | _ => v) (k.loc.get x)

/-- The n words from a local address up, as they read. -/
def localWords (k : Core) (a n : Nat) : List W16 := (List.range n).map (fun i => localView k (a + i))

/-- The core may touch the n local words from a up: they are local, and in Tenant mode within LRB (R40, R41, R110). -/
def MayTouch (k : Core) (a : BitVec 40) (n : Nat) : Prop :=
  a.toNat + n ≤ 0x8000 ∧ (k.sys.mode = true ∨ ∀ i < n, k.sys.tenantWord (a.toNat + i) = true)

/-- No check bits of local memory report the n words uncorrectable (R365). -/
def CleanLocal (k : Core) (a n : Nat) : Prop := ∀ i < n, k.locBad.get ((a + i) / 4) = 0#1

/-- k1 is k but for local memory, its store buffer, and the count of the single-bit errors corrected in it (R177). -/
def OnlyLocal (k k1 : Core) : Prop :=
  k1 = { k with sbuf := k1.sbuf, loc := k1.loc, locBad := k1.locBad, locOne := k1.locOne, locCe := k1.locCe }

/-- k with one more long op, whose request enters the mesh now, unless one that the core issued earlier is still to enter or to be
written before it (R17, R74, R83, R223, R224). -/
def withLong (s : State) (k : Core) (d : LDest) (op : LOp) (res : Option LRes := none) : Core :=
  let o : LongOp := ⟨d, op, s.stamp, none, res, none⟩
  { k with longs := k.longs ++ [{ o with entry := if k.mayEnter s.part o then some s.entryNow else none }] }

/-- Where the words at the pc of core c spell i, i completes, and MODE and IE are as given after it, whatever is due with it (R71). -/
def LeavesStatus (i : Instr) (s : State) (c : CoreId) (mode ie : Bool) : Prop :=
  AtPc s c i → ∃ t, exec i s = .next t ∧ (t.core c).sys.mode = mode ∧ (t.core c).sys.ie = ie

/-- Where the words at the pc of core c spell i, i waits at its core, not for a long op, and has no other effect (R78, R83, R335). -/
def WaitsForRoom (i : Instr) (s : State) (c : CoreId) (k : Core) : Prop :=
  AtPc s c i → exec i s = .next (s.setCore c (k.stall s.now none false))

/-- Where the words at the pc of core c spell i, i waits at its core, for a long op, and has no other effect (R75, R513). -/
def Waits (i : Instr) (s : State) (c : CoreId) (k : Core) : Prop :=
  AtPc s c i → exec i s = .next (s.setCore c (k.stall s.now none true))

/-- A translated access to va passes its checks: the entry that translates it (R325), and the core with that entry most
recently used. -/
def Translates (k : Core) (va : BitVec 40) (q : Want) (pa : Nat) (e : TlbEntry) (k1 : Core) : Prop :=
  translate k.dtlb k.cxt.tag k.sys.mode k.sys.krr va q = .ok pa e ∧ k1 = { k with dtlb := tlbTouch k.dtlb e }

end Sys2Proof.Claims

/-! ### Local memory and the data stack -/

/-- LD (R84, R109): with distance 1 Gd takes the words at EA as the store buffer and the bank give them, extended as the name
says; every local word still reads as before, and nothing else changes. A word that cannot be corrected is machine check 0x33 of the
LD, and what had to drain before the read has drained (R84, R365). -/
def Sys2Proof.Claims.LoadSeesStores : Prop :=
  ∀ (s : State) (c : CoreId) (kd : LdKind) (ea : AddrForm) (d : GReg) (k : Core), Issues s c (addrLen ea) k →
    let a := addrOf k ea; let n := ldWords kd
    (∀ k1, MayTouch k a n → k.readLoc a.toNat n = .bad k1 → OnlyLocal k k1 ∧ (∀ x, localView k1 x = localView k x)
      ∧ (AtPc s c (.ld c kd ea d) → exec (.ld c kd ea d) s = .next (machineCheckAt (s.setCore c k1) c .localData 0 true)))
    ∧ (MayTouch k a n → CleanLocal k a.toNat n →
      ∃ k1, Ends (.ld c kd ea d) s s c (addrLen ea) k1 (toG d (ldValue kd (localWords k a.toNat n)) 1)
        ∧ OnlyLocal k k1 ∧ ∀ x, localView k1 x = localView k x)

/-- ST (R82, R109): the register's low words enter the store buffer; the words at EA read as stored, every other local word
reads as before, and nothing else changes. -/
def Sys2Proof.Claims.StoreAndItsFrame : Prop :=
  ∀ (s : State) (c : CoreId) (kd : StKind) (ea : AddrForm) (d : GReg) (k : Core), Issues s c (addrLen ea) k →
    let a := addrOf k ea; let ws := stWords kd (k.gr d)
    MayTouch k a ws.length →
      ∃ k1, Ends (.st c kd ea d) s s c (addrLen ea) k1 [] ∧ OnlyLocal k k1
        ∧ (∀ i < ws.length, localView k1 (a.toNat + i) = ws.getD i 0)
        ∧ ∀ x, ¬ (a.toNat ≤ x ∧ x < a.toNat + ws.length) → localView k1 x = localView k x

/-- LD and ST, each with its frame (R84, R109).
Choices of the model on which clauses of it rest: notes/assumptions 38. -/
def Obligations.LoadsAndStores : Prop := Claims.LoadSeesStores ∧ Claims.StoreAndItsFrame

/-- R110: an LD or ST with a word outside the local region raises local-placement with XAD = EA in either mode, before the
Tenant bound check and with no other effect; one within it needs no alignment. -/
def Sys2Proof.Claims.LocalPlacement : Prop :=
  ∀ (s : State) (c : CoreId) (ea : AddrForm) (d : GReg) (k : Core), Issues s c (addrLen ea) k →
    let a := addrOf k ea
    (∀ kd, 0x8000 < a.toNat + ldWords kd → Raises (.ld c kd ea d) s c k 0x03 a)
    ∧ (∀ kd, 0x8000 < a.toNat + (stWords kd 0#64).length → Raises (.st c kd ea d) s c k 0x03 a)
    ∧ (∀ kd, a.toNat + ldWords kd ≤ 0x8000 → k.sys.mode = true → CleanLocal k a.toNat (ldWords kd) →
        ∃ k1 v, Ends (.ld c kd ea d) s s c (addrLen ea) k1 (toG d v 1))
    ∧ (∀ kd, a.toNat + (stWords kd 0#64).length ≤ 0x8000 → k.sys.mode = true →
        ∃ k1, Ends (.st c kd ea d) s s c (addrLen ea) k1 [])

/-- R41: in Tenant mode an LD or ST that touches a local word outside LRB raises local-bound, with XAD the first such word. -/
def Sys2Proof.Claims.TenantBound : Prop :=
  ∀ (s : State) (c : CoreId) (ea : AddrForm) (d : GReg) (k : Core) (i : Nat), Issues s c (addrLen ea) k → k.sys.mode = false →
    let a := addrOf k ea
    (∀ j < i, k.sys.tenantWord (a.toNat + j) = true) → k.sys.tenantWord (a.toNat + i) = false →
      (∀ kd, i < ldWords kd → a.toNat + ldWords kd ≤ 0x8000 →
        Raises (.ld c kd ea d) s c k 0x04 (BitVec.ofNat 40 (a.toNat + i)))
      ∧ (∀ kd, i < (stWords kd 0#64).length → a.toNat + (stWords kd 0#64).length ≤ 0x8000 →
        Raises (.st c kd ea d) s c k 0x04 (BitVec.ofNat 40 (a.toNat + i)))

/-- The checks of LD and ST on their address (R41, R110).
Choices of the model on which clauses of it rest: notes/assumptions 22. -/
def Obligations.PlacementAndBound : Prop := Claims.LocalPlacement ∧ Claims.TenantBound

/-- PUSH and POP (R58, R59): a local PUSH stores the register below DSP, a local POP loads it with distance 1; a PUSH to
translated D-space puts its parts, one for each line, in the store buffer, and a POP from there is a long op for
L(d[2:0]); across 0x8000 both raise local-placement with XAD the first word. -/
def Sys2Proof.Claims.DataStack : Prop :=
  ∀ (s : State) (c : CoreId) (r : SReg) (k : Core), Issues s c 1 k →
    let lo := k.dsp - 4#40; let v := k.gr (sreg r); let l : LRegId := ⟨r.val % 8, by omega⟩
    -- local
    (MayTouch k lo 4 → ∃ k1, Ends (.push c r) s s c 1 { k1 with dsp := lo } [] ∧ OnlyLocal k k1
      ∧ (∀ i < 4, localView k1 (lo.toNat + i) = (wordsOf v).getD i 0)
      ∧ ∀ x, ¬ (lo.toNat ≤ x ∧ x < lo.toNat + 4) → localView k1 x = localView k x)
    ∧ (MayTouch k k.dsp 4 → CleanLocal k k.dsp.toNat 4 →
      ∃ k1, Ends (.pop c r) s s c 1 { k1 with dsp := k.dsp + 4#40 } (toG (sreg r) (quadOf (localWords k k.dsp.toNat 4)) 1)
        ∧ OnlyLocal k k1 ∧ ∀ x, localView k1 x = localView k x)
    -- translated, in one line or in two
    ∧ (∀ pa e k1, 0x8000 ≤ lo.toNat → lo.toNat + 4 ≤ 2 ^ 40 → Translates k lo (wantWrite [0#2, 1#2, 3#2]) pa e k1 →
        (e.mt = 3#2 → lo.toNat % 4 = 0) →
        (lo.toNat % 32 ≤ 28 → k.pushLoad < 8 →
          Ends (.push c r) s s.stamped c 1 { k1 with dsp := lo, sbuf := k.sbuf ++ [.push pa (wordsOf v) s.stamp] } [])
        ∧ ∀ n, 0 < n → n < 4 → lo.toNat % 32 = 32 - n → k.pushLoad < 7 →
          let pushes := fun (k1 : Core) (pb : Nat) => Ends (.push c r) s s.stamped c 1 { k1 with
            dsp := lo
            sbuf := k.sbuf ++ [.push pa ((wordsOf v).take n) s.stamp, .push pb ((wordsOf v).drop n) s.stamp] } []
          (lo.toNat % 4096 ≠ 4096 - n → pushes k1 (pa + n))
          ∧ ∀ pb e2 k2, lo.toNat % 4096 = 4096 - n → Translates k1 (lo + BitVec.ofNat 40 n) (wantWrite [0#2, 1#2, 3#2]) pb e2 k2 →
              e2.mt ≠ 3#2 → pushes k2 pb)
    ∧ (∀ pa e k1, 0x8000 ≤ k.dsp.toNat → k.dsp.toNat + 4 ≤ 2 ^ 40 →
        Translates k k.dsp (wantRead [0#2, 1#2, 2#2, 3#2]) pa e k1 → (e.mt = 3#2 → k.dsp.toNat % 4 = 0) → k.lBusy l = false →
        let pops := fun (k1 : Core) (op : LOp) =>
          Ends (.pop c r) s s.stamped c 1 (withLong s { k1 with dsp := k.dsp + 4#40 } (.l l) op) []
        (k.dsp.toNat % 32 ≤ 28 → pops k1 (.pop pa 4 0 0 none none false))
        ∧ ∀ n, 0 < n → n < 4 → k.dsp.toNat % 32 = 32 - n →
          (k.dsp.toNat % 4096 ≠ 4096 - n → pops k1 (.pop pa n (pa + n) (4 - n) none none false))
          ∧ ∀ pb e2 k2, k.dsp.toNat % 4096 = 4096 - n →
              Translates k1 (k.dsp + BitVec.ofNat 40 n) (wantRead [0#2, 1#2, 2#2, 3#2]) pb e2 k2 → e2.mt ≠ 3#2 →
              pops k2 (.pop pa n pb (4 - n) none none false))
    -- across the end of the local region
    ∧ (lo.toNat < 0x8000 → 0x8000 < lo.toNat + 4 → Raises (.push c r) s c k 0x03 lo)
    ∧ (k.dsp.toNat < 0x8000 → 0x8000 < k.dsp.toNat + 4 → Raises (.pop c r) s c k 0x03 k.dsp)

/-- NOP only goes on; LWAIT waits while any long op has not delivered, VFENCE while an access of the core to Vat, HBM or a
device port is not complete, FBAR while a floating long op has not delivered (R79, R121, R210). FBAR then brings in the
flags of floating results in flight. -/
def Sys2Proof.Claims.Waiting : Prop :=
  ∀ (s : State) (c : CoreId) (k : Core), Issues s c 1 k →
    Ends (.nop c) s s c 1 k []
    ∧ (k.longs = [] → Ends (.lwait c) s s c 1 k [])
    ∧ (k.longs ≠ [] → Waits (.lwait c) s c k)
    ∧ (k.fenceClear = true → Ends (.vfence c) s s c 1 k [])
    ∧ (k.fenceClear = false → Waits (.vfence c) s c k)
    ∧ ((∀ o ∈ k.longs, o.fp = none) → k.settleFp.fpDue = [] → Ends (.fbar c) s s c 1 k.settleFp [])
    ∧ (∀ o ∈ k.longs, o.fp ≠ none → AtPc s c (.fbar c) → exec (.fbar c) s = .next (s.setCore c (k.fbarWait s.now)))

/-- The data stack, and the instructions that wait (R58, R59, R79).
Choices of the model on which clauses of it rest: notes/assumptions 21, 22, 23, 46. -/
def Obligations.StackAndWaiting : Prop := Claims.DataStack ∧ Claims.Waiting

namespace Sys2Proof.Claims

/-- The test of a condition (R103). -/
def Taken (n : Nat) (f : Flags) : Prop :=
  (n = 0 ∧ f.z = true) ∨ (n = 1 ∧ f.z = false) ∨ (n = 2 ∧ f.c = true) ∨ (n = 3 ∧ f.c = false) ∨ (n = 4 ∧ f.n = true)
  ∨ (n = 5 ∧ f.n = false) ∨ (n = 6 ∧ f.v = true) ∨ (n = 7 ∧ f.v = false) ∨ (n = 8 ∧ f.c = true ∧ f.z = false)
  ∨ (n = 9 ∧ (f.c = false ∨ f.z = true)) ∨ (n = 10 ∧ f.n = f.v) ∨ (n = 11 ∧ f.n ≠ f.v)
  ∨ (n = 12 ∧ f.z = false ∧ f.n = f.v) ∨ (n = 13 ∧ (f.z = true ∨ f.n ≠ f.v)) ∨ (n = 14 ∧ f.dc = true) ∨ (n = 15 ∧ f.dc = false)

/-- The branch at the pc of k, of len words, is taken: its slot executes next, and then the pc is the target (R113). -/
def Branches (i : Instr) (s : State) (c : CoreId) (len : Nat) (k k1 : Core) (target : BitVec 32) (undo : RsUndo) : Prop :=
  Ends i s s c len k1 [] (.slot ⟨target, k.pc, undo, none⟩)

/-- The address after the delay slot of a branch of len words at the pc, when word 0 of the slot can be read (R113). -/
def SlotEnd (s : State) (c : CoreId) (k : Core) (len : Nat) (a : BitVec 32) : Prop :=
  ∃ w, peekWord s c k (k.pc + BitVec.ofNat 32 len) = some w
    ∧ a = k.pc + BitVec.ofNat 32 len + BitVec.ofNat 32 (majorLen (s.quire (coreQuire c)).image w)

/-- The body of a REPB: `last` is the address of its n-th instruction, `after` the address after that, no instruction of it is
one that R116 names, and k1 is the core after its words are fetched. -/
def Body (s : State) (c : CoreId) (k : Core) (n : Nat) (last after : BitVec 32) (k1 : Core) : Prop :=
  readBody (s.quire (coreQuire c)).image k (k.pc + 2#32) (k.pc + 2#32) none n = .ok last after none k1

/-- An instruction of core c that R31 gives as privileged, with its length. -/
def PrivilegedAt (c : CoreId) (len : Nat) : Instr → Prop
  | .setms c' _ | .setkr c' _ | .sret c' | .xret c' | .mret c' => c' = c ∧ len = 1
  | .dswap c' _ _ _ | .skey c' _ _ _ | .tlbiv c' _ _ | .tlbit c' _ | .tlbia c' | .tlbiaF c' | .tlblk c' _ | .tlblkI c' _
  | .tlbul c' _ | .tlbulI c' _ => c' = c ∧ len = 2
  | _ => False

end Sys2Proof.Claims

/-! ### Control -/

/-- R103: the table of conditions, and what Bcc does by it (R113): taken, the slot then the target; not taken, the slot then
the instruction after it, or with A = 1 that instruction at once, the slot having changed nothing. -/
def Sys2Proof.Claims.ConditionalBranch : Prop :=
  ∀ (s : State) (c : CoreId) (annul : Bool) (cond : BitVec 4) (v : BitVec 16) (k : Core), IssuesOpen s c 2 k →
    let i : Instr := .bcc c annul cond v
    (Taken cond.toNat k.fl → Branches i s c 2 k k (k.pc + BitVec.ofInt 32 v.toInt) .none)
    ∧ (∀ a, ¬ Taken cond.toNat k.fl → SlotEnd s c k 2 a →
        if annul then Ends i s s c 2 k [] (.annul a) else Branches i s c 2 k k a .none)

/-- BR, BRA and JMPI take their target whatever A is (R112, R113); JMPI also writes it into the indirect-target table at the
index of R91 and shifts it into T1 to T4. -/
def Sys2Proof.Claims.UnconditionalBranch : Prop :=
  (∀ (s : State) (c : CoreId) (annul : Bool) (v : BitVec 16) (k : Core), IssuesOpen s c 2 k →
    Branches (.br c annul v) s c 2 k k (k.pc + BitVec.ofInt 32 v.toInt) .none)
  ∧ (∀ (s : State) (c : CoreId) (annul : Bool) (i : BitVec 32) (k : Core), IssuesOpen s c 3 k →
    Branches (.bra c annul i) s c 3 k k i .none)
  ∧ (∀ (s : State) (c : CoreId) (annul : Bool) (a : SReg) (k : Core), IssuesOpen s c 1 k →
    let t := BitVec.ofNat 32 (k.gr (sreg a)).toNat
    Branches (.jmpi c annul a) s c 1 k
      { k with jtab := k.jtab.set (jmpIndex k.pc k.jhist) t, jhist := t :: k.jhist.take 3 } t .none)

/-- The branches but for calls and returns (R103, R112, R113).
Choices of the model on which clauses of it rest: notes/assumptions 27, 28. -/
def Obligations.Branches : Prop := Claims.ConditionalBranch ∧ Claims.UnconditionalBranch

/-- CALL, CALLA and CALL Ga with fewer than 16 entries in the hardware top push the address after their slot; with 16 they
first spill the oldest to RSP − 2; with the spill area full they raise return-stack overflow and change nothing else (R61,
R113). -/
def Sys2Proof.Claims.Calls : Prop :=
  ∀ (s : State) (c : CoreId) (annul : Bool) (v : BitVec 16) (i : BitVec 32) (r : SReg) (k : Core),
    let calls := fun (len : Nat) (i : Instr) (target : BitVec 32) =>
      (∀ a, SlotEnd s c k len a → k.rs.length < 16 → Branches i s c len k { k with rs := a :: k.rs } target .pushed)
      ∧ (∀ a old top, SlotEnd s c k len a → k.rs = top ++ [old] → k.rs.length = 16 → k.rsp ≠ 0x7C00#16 →
          ∃ k1, Branches i s c len k { k1 with rs := a :: top, rsp := k.rsp - 2#16 } target .pushed ∧ OnlyLocal k k1
            ∧ localView k1 (k.rsp - 2#16).toNat = BitVec.ofNat 16 (old.toNat / 2 ^ 16)
            ∧ localView k1 ((k.rsp - 2#16).toNat + 1) = BitVec.ofNat 16 old.toNat
            ∧ ∀ x, ¬ ((k.rsp - 2#16).toNat ≤ x ∧ x < (k.rsp - 2#16).toNat + 2) → localView k1 x = localView k x)
      ∧ (k.rs.length = 16 → k.rsp = 0x7C00#16 → Raises i s c k 0x05 0)
    (IssuesOpen s c 2 k → calls 2 (.call c annul v) (k.pc + BitVec.ofInt 32 v.toInt))
    ∧ (IssuesOpen s c 3 k → calls 3 (.calla c annul i) i)
    ∧ (IssuesOpen s c 1 k → calls 1 (.callRegister c annul r) (BitVec.ofNat 32 (k.gr (sreg r)).toNat))

/-- RET takes the newest entry of the hardware top, or fills it from RSP when the top is empty; with nothing left it raises
return-stack underflow and changes nothing else (R62, R113). -/
def Sys2Proof.Claims.Return : Prop :=
  ∀ (s : State) (c : CoreId) (annul : Bool) (k : Core), IssuesOpen s c 1 k →
    let i : Instr := .ret c annul
    (∀ v rest, k.rs = v :: rest → Branches i s c 1 k { k with rs := rest } v (.popped v))
    ∧ (k.rs = [] → k.rsp ≠ 0x8000#16 → CleanLocal k k.rsp.toNat 2 → ∃ k1 v,
        Branches i s c 1 k { k1 with rsp := k.rsp + 2#16 } v (.popped v) ∧ OnlyLocal k k1
        ∧ v.toNat = (localView k k.rsp.toNat).toNat * 2 ^ 16 + (localView k (k.rsp.toNat + 1)).toNat
        ∧ ∀ x, localView k1 x = localView k x)
    ∧ (k.rs = [] → k.rsp = 0x8000#16 → Raises i s c k 0x06 0)

/-- The calls and RET (R61, R62, R113).
Choices of the model on which clauses of it rest: notes/assumptions 27, 28. -/
def Obligations.CallsAndReturns : Prop := Claims.Calls ∧ Claims.Return

namespace Sys2Proof.Claims

/-- The return stack as a program sees it, newest first: the hardware top, then the spilled entries from RSP up, as they read (R60). -/
def returnStack (k : Core) : List (BitVec 32) :=
  k.rs ++ (List.range ((0x8000 - k.rsp.toNat) / 2)).map (fun i =>
    BitVec.ofNat 32 ((localView k (k.rsp.toNat + 2 * i)).toNat * 2 ^ 16 + (localView k (k.rsp.toNat + 2 * i + 1)).toNat))

/-- The return stack is in order: at most 16 entries in the hardware top, RSP even and in the spill area or at its end, and no check
bits of the spill area report an uncorrectable word (R60, R61, R365). -/
def StackOk (k : Core) : Prop :=
  k.rs.length ≤ 16 ∧ k.rsp.toNat % 2 = 0 ∧ 0x7C00 ≤ k.rsp.toNat ∧ k.rsp.toNat ≤ 0x8000 ∧ CleanLocal k 0x7C00 0x400

/-- A run of calls, each with its return address, and returns, from a depth: it goes below that depth nowhere, and ends at it. -/
def balanced : Nat → List (Option (BitVec 32)) → Bool
  | d, [] => d == 0
  | d, some _ :: l => balanced (d + 1) l
  | 0, none :: _ => false
  | d + 1, none :: l => balanced d l

/-- What a run of calls and returns makes of the return stack; none where one overflows or has nothing to pop. -/
def callsAndReturns : Core → List (Option (BitVec 32)) → Option Core
  | k, [] => some k
  | k, some a :: l => (k.rsPush a).bind (fun k => callsAndReturns k l)
  | k, none :: l => match k.rsPop with | .ok _ k => callsAndReturns k l | _ => none

end Sys2Proof.Claims

/-- A call and its return, with any run between them of as many calls as returns: the return gives the call's address back, and the
return stack is as it was, the spilled entries included. A call puts its address on the stack and changes nothing else of it, the
entry that it spills being the word pair at the new RSP; it overflows with 16 entries and the spill area full. A return takes the
newest entry off, refilled from RSP when the hardware top is empty; it underflows when there is none (R60 to R62). -/
def Obligations.ReturnStackIsLifo : Prop :=
  (∀ (k : Core) (a : BitVec 32), Claims.StackOk k →
    (k.rsPush a = none ↔ k.rs.length = 16 ∧ k.rsp = 0x7C00#16)
    ∧ (∀ k1, k.rsPush a = some k1 → Claims.StackOk k1 ∧ Claims.returnStack k1 = a :: Claims.returnStack k
        ∧ (∀ old top, k.rs = top ++ [old] → k.rs.length = 16 → k1.rs = a :: top ∧ k1.rsp = k.rsp - 2#16
          ∧ (Claims.localView k1 k1.rsp.toNat).toNat * 2 ^ 16 + (Claims.localView k1 (k1.rsp.toNat + 1)).toNat = old.toNat))
    ∧ (Claims.returnStack k = [] → k.rsPop = .underflow)
    ∧ ∀ v rest, Claims.returnStack k = v :: rest → ∃ k1, k.rsPop = .ok v k1 ∧ Claims.StackOk k1 ∧ Claims.returnStack k1 = rest)
  ∧ ∀ (k k1 k2 : Core) (a : BitVec 32) (run : List (Option (BitVec 32))), Claims.StackOk k → k.rsPush a = some k1 →
      Claims.balanced 0 run = true → Claims.callsAndReturns k1 run = some k2 →
        ∃ k3, k2.rsPop = .ok a k3 ∧ Claims.StackOk k3 ∧ Claims.returnStack k3 = Claims.returnStack k

/-- REPB and REPBI (R115): LS, LE and LC are written even when the body is skipped, and the pc is the body, or what follows it
when the count is 0. -/
def Sys2Proof.Claims.BlockRepeat : Prop :=
  ∀ (s : State) (c : CoreId) (a : GReg) (v : BitVec 16) (n : Fin 16) (k : Core), IssuesOpen s c 2 k →
    ∀ last after k1, Body s c k (n.val + 1) last after k1 →
      let repeats := fun (i : Instr) (count : Nat) =>
        Ends i s s c 2 { k1 with loop := ⟨BitVec.ofNat 32 count, k.pc + 2#32, last, none, none, none⟩ } []
          (.jump (if count % 2 ^ 32 = 0 then after else k.pc + 2#32))
      repeats (.repb c a n) (k.gr a).toNat ∧ repeats (.repbi c v n) v.toNat

/-- R122: SVC n in Tenant mode saves the next pc, FL and MS, enters Service mode at SVEn and leaves IE; in Service mode it is
illegal. SRET in Service mode restores FL, MODE, IE and the pc, over a SETMS that falls due with it (R71); in Tenant mode it is
privileged. Neither touches memory, and neither change waits for a later instruction.
Choices of the model on which clauses of it rest: notes/assumptions 216. -/
def Obligations.SystemCall : Prop :=
  (∀ (s : State) (c : CoreId) (n : Fin 8) (k : Core), IssuesOpen s c 1 k → k.sys.mode = false →
    Ends (.svc c n) s s c 1
      { k with sys := { k.sys with spc := k.pc + 1#32, sflFl := k.fl, sflMs := k.sys.ms, mode := true } } []
      (.jump k.sys.sve[n]))
  ∧ (∀ (s : State) (c : CoreId) (n : Fin 8) (k : Core), IssuesSystem s c 1 k →
    Raises (.svc c n) s c k 0x01 (BitVec.ofNat 40 k.pc.toNat)
    ∧ Ends (.sret c) s s c 1 { k with fl := k.sys.sflFl } [⟨.ms (k.sys.sflMs.getLsbD 0) (k.sys.sflMs.getLsbD 1), 0⟩]
      (.jump k.sys.spc)
    ∧ LeavesStatus (.sret c) s c (k.sys.sflMs.getLsbD 0) (k.sys.sflMs.getLsbD 1))
  ∧ (∀ (s : State) (c : CoreId) (k : Core), IssuesOpen s c 1 k → k.sys.mode = false →
    Raises (.sret c) s c k 0x02 0)

/-- R368: MRET sets the pc from MPC and MODE and IE from MMS, over a SETMS that falls due with it (R71), clears MCIP, and re-issues no DSU instruction; with MCIP = 0 it
returns in the same way. It is privileged, and illegal in a delay slot.
Choices of the model on which clauses of it rest: notes/assumptions 216. -/
def Obligations.MachineCheckReturn : Prop :=
  ∀ (s : State) (c : CoreId) (k : Core), Issues s c 1 k →
    (k.branch = none → k.sys.mode = true → Ends (.mret c) s s c 1
        { k with sys := { k.sys with m := { k.sys.m with mcip := false } } }
        [⟨.ms (k.sys.m.mms.getLsbD 0) (k.sys.m.mms.getLsbD 1), 0⟩] (.jump k.sys.m.mpc)
      ∧ LeavesStatus (.mret c) s c (k.sys.m.mms.getLsbD 0) (k.sys.m.mms.getLsbD 1))
    ∧ (k.branch = none → k.sys.mode = false → Raises (.mret c) s c k 0x02 0)
    ∧ (k.branch ≠ none → Raises (.mret c) s c k 0x01 (BitVec.ofNat 40 k.pc.toNat))

/-- XRET (R352): FL, MODE and IE come back from the X set, over a SETMS that falls due with it (R71); the X set is not changed; with XDS = 1 the instruction at XPC executes
as a delay slot before XTGT, otherwise the pc is XPC. With XRS = 1 it first waits for the deckle group, and where DKTL.ST is
not 0x1 it re-issues nothing (R181); with ST = 0x1 it re-issues the operation of OP and MOD at the address IA, once that
operation's own checks pass (R182). -/
def Sys2Proof.Claims.ExceptionReturn : Prop :=
  ∀ (s : State) (c : CoreId) (k : Core), IssuesSystem s c 1 k →
    let x := k.sys.x
    let k1 := { k with fl := x.xfl, sys := { k.sys with mode := x.xms.getLsbD 0, ie := x.xms.getLsbD 1 } }
    let nx : Next :=
      if x.xds then .slotAt x.xpc ⟨x.xtgt, k.pc, .none, some (k.sys.mode, k.sys.ie)⟩ else .jump x.xpc
    let own : List Flight := [⟨.ms (x.xms.getLsbD 0) (x.xms.getLsbD 1), 0⟩]
    let returns := Ends (.xret c) s s c 1 k1 own nx ∧ LeavesStatus (.xret c) s c (x.xms.getLsbD 0) (x.xms.getLsbD 1)
    (x.xrs = false → returns)
    ∧ (x.xrs = true → k.dsuBusy = true → Waits (.xret c) s c k)
    ∧ (x.xrs = true → k.dsuBusy = false → k.dk.tl.st ≠ 1#4 → returns)
    ∧ (∀ p, x.xrs = true → k.dsuBusy = false → k.dk.tl.st = 1#4 →
        dsuProg (s.quire (coreQuire c)).image k.dk.tl.op k.dk.tl.md = some p → p.check k1 = none →
        Ends (.xret c) s s.stamped c 1 (dsuStart s c k1 k.dk.tl.op k.dk.tl.md k.dk.tl.ia) own nx)

/-- REPB, REPBI and XRET (R115, R352).
Choices of the model on which clauses of it rest: notes/assumptions 28, 29, 37, 216. -/
def Obligations.RepeatAndExceptionReturn : Prop := Claims.BlockRepeat ∧ Claims.ExceptionReturn

/-- SETMS and SETKR (R49, R120): in Service mode MODE and IE, or KRR, change with distance 2, so that the third instruction
after them is the first to see it; in Tenant mode both raise privileged-operation (R31), as do the instructions that R31
lists, outside a delay slot and with no effect. -/
def Obligations.StatusWrites : Prop :=
  (∀ (s : State) (c : CoreId) (a : SReg) (k : Core), IssuesService s c 1 k →
    let v := k.gr (sreg a)
    Ends (.setms c a) s s c 1 k [⟨.ms (v.getLsbD 0) (v.getLsbD 1), 2⟩]
    ∧ Ends (.setkr c a) s s c 1 k [⟨.krr (BitVec.ofNat 32 v.toNat), 2⟩])
  ∧ (∀ (s : State) (c : CoreId) (k : Core) (i : Instr) (len : Nat), IssuesOpen s c len k → k.sys.mode = false →
    PrivilegedAt c len i → Raises i s c k 0x02 0)

namespace Sys2Proof.Claims

/-- The bits that a core-local port holds (R40, R46 to R57, R60, R160, R163, R356, R361): what an IN returns of what an OUT
wrote. Ports with fields that the hardware sets are not among them. -/
def heldBits : List (Nat × W64) :=
  [(0x00, 0x1F), (0x01, 0xFFFFFFFFFF), (0x10, 0x7FFF), (0x11, 0xFFFFFFFF), (0x12, 0x7FFF), (0x13, 0xFFFFFFFF),
   (0x14, 0x7FFF), (0x15, 0xFFFFFFFF00FFFFFF), (0x16, 0xFFFFFFFFFFFFFFFF), (0x22, 0x0000FFFF001F1F77), (0x23, 0x7),
   (0x25, 0x00003FFF7FFF7FFF), (0x30, 0xFFFFFFFF), (0x31, 0xFFFFFFFF), (0x32, 0xFFFFFFFF), (0x33, 0xFFFFFFFF),
   (0x34, 0xFFFFFFFF), (0x35, 0xFFFFFFFF), (0x36, 0xFFFFFFFF), (0x37, 0xFFFFFFFF), (0x38, 0xFFFFFFFF),
   (0x39, 0x000000070000001F), (0x40, 0xFFFFFFF0), (0x41, 0xFFFFFFFF), (0x42, 0x1F), (0x43, 0x7), (0x44, 0xFFFFFFFF),
   (0x45, 0x3FFF), (0x46, 0xFFFFFFFFFF), (0x48, 0xFFFFFFFF), (0x49, 0x7), (0x200, 0x7), (0x211, 0xFFFFFFFFFFFFFFFF)]

/-- An access of a core-local port that R36 permits in the mode, to a register that no long op owns (R38). -/
def PortOpen (k : Core) (p : Nat) (write : Bool) : Prop :=
  p < 0x10000 ∧ k.portBusy p = false
  ∧ (k.sys.mode = true ∨ (if write then tenantNoWrite p else tenantNoRead p) = false)

/-- Source x is the highest of some pending sources, the lowest numbered of equals (R357). -/
def Highest (l : List Src) (x : Src) : Prop :=
  x ∈ l ∧ ∀ y ∈ l, y.lvl.toNat < x.lvl.toNat ∨ (y.lvl = x.lvl ∧ x.n ≤ y.n)

end Sys2Proof.Claims

/-! ### Ports -/

/-- Each of these ports returns the bits that R40 to R57 let it hold of the value written; an accumulator port stores its part
as written (R45), an L register the whole value (R43).
Choices of the model on which clauses of it rest: notes/assumptions 24, 25, 26, 161 (the bits that the save-set ports 0x38, 0x39 and
0x41 to 0x49 drop of a value written). -/
def Obligations.PortsHoldWhatIsWritten : Prop :=
  (∀ (s : State) (c : CoreId) (k : Core) (v : W64), ∀ e ∈ heldBits, corePortVal s c (corePortSet s k e.1 v) e.1 = v &&& e.2)
  ∧ (∀ (s : State) (c : CoreId) (k : Core) (v : W64) (l : LRegId),
      corePortVal s c (corePortSet s k (0x80 + l.val) v) (0x80 + l.val) = v)
  ∧ (∀ (a : Acc) (v : W64) (i j : Fin 3), (a.setPart i.val v).part j.val =
      if j ≠ i then a.part j.val else if i = 0 then v &&& 0xFFFFFFFF#64 else v)
  ∧ (∀ (s : State) (c : CoreId) (k : Core) (v : W64), k.inBody = false →
      corePortVal s c (corePortSet s k 0x04 v) 0x04 = v &&& 0xFFFFFFFF#64
      ∧ corePortVal s c (corePortSet s k 0x05 v) 0x05 = v &&& 0xFFFFFFFF#64
      ∧ corePortVal s c (corePortSet s k 0x06 v) 0x06 = v &&& 0xFFFFFFFF#64)

/-- RSP (R60): an OUT makes the address even and limits it to the spill area, and an IN then returns it. That all 64 bits of the value
count is the model's choice (notes/assumptions 160). -/
def Sys2Proof.Claims.OutToRsp : Prop :=
  ∀ (s : State) (c : CoreId) (f : IoForm) (r : GReg) (k : Core), IssuesService s c (ioLen f) k →
    ∃ p : BitVec 16, Ends (.outRsp c f r) s s c (ioLen f) { k with rsp := p } []
      ∧ 0x7C00 ≤ p.toNat ∧ p.toNat ≤ 0x8000 ∧ p.toNat % 2 = 0
      ∧ (0x7C00 ≤ (k.gr r).toNat → (k.gr r).toNat ≤ 0x8001 → p.toNat = (k.gr r).toNat / 2 * 2)
      ∧ ((k.gr r).toNat < 0x7C00 → p = 0x7C00#16) ∧ (0x8000 < (k.gr r).toNat → p = 0x8000#16)

/-- IN and OUT of a core-local port (R36 to R38, R119): IN brings the port's value with distance 1, OUT changes the core's
register at once (an accumulator part, and BPCTL with distance 2, as results), and an OUT to RSD or ICINV is the command of that
name; a register that a long op owns holds the instruction; Tenant mode has no access that R36 does not give it. -/
def Sys2Proof.Claims.CoreLocalPorts : Prop :=
  ∀ (s : State) (c : CoreId) (f : PortForm) (r : GReg) (k : Core), Issues s c (portLen f) k →
    let p := (portOf k f).toNat
    (PortOpen k p false → (∀ l, lPort p = some l → k.l[l].poisoned = false) →
      Ends (.inp c f r) s s c (portLen f) (corePortTake s c k p) (toG r (corePortVal s c k p) 1))
    ∧ (PortOpen k p true → p ≠ 3 → p ≠ 0x60 →
      Ends (.outp c f r) s s c (portLen f) (corePortSet s k p (k.gr r)) (corePortOwn k p (k.gr r)))
    ∧ (p = 3 → AtPc s c (.outp c f r) → exec (.outp c f r) s = exec (.outRsd c (formOf f) r) s)
    ∧ (p = 0x60 → AtPc s c (.outp c f r) → exec (.outp c f r) s = exec (.icinv c (formOf f) r) s)
    ∧ (p < 0x10000 → k.sys.mode = true → k.portBusy p = true →
      Waits (.inp c f r) s c k ∧ Waits (.outp c f r) s c k)
    ∧ (k.sys.mode = false → tenantNoRead p = true → Raises (.inp c f r) s c k 0x02 (BitVec.ofNat 40 p))
    ∧ (k.sys.mode = false → tenantNoWrite p = true → p < 0x10000 →
      Raises (.outp c f r) s c k 0x02 (BitVec.ofNat 40 p))

/-- IN and OUT of a device port in Service mode (R77, R78): IN is a long op for L(d[2:0]), and OUT joins the mesh queue while
it holds fewer than 8. -/
def Sys2Proof.Claims.DevicePorts : Prop :=
  ∀ (s : State) (c : CoreId) (f : PortForm) (r : GReg) (k : Core), IssuesService s c (portLen f) k →
    let p := portOf k f; let l : LRegId := ⟨r.val % 8, by omega⟩
    0x10000 ≤ p.toNat →
      (k.lBusy l = true → Waits (.inp c f r) s c k)
      ∧ (k.lBusy l = false → Ends (.inp c f r) s s.stamped c (portLen f)
        { k with longs := k.longs ++ [⟨.l l, .devIn p, s.stamp, some s.entryNow, none, none⟩] } [])
      ∧ (k.outq.length < 8 → Ends (.outp c f r) s s.stamped c (portLen f)
        { k with outq := k.outq ++ [⟨p, k.gr r, s.stamp, s.entryNow⟩] } [])
      ∧ (8 ≤ k.outq.length → WaitsForRoom (.outp c f r) s c k)

/-- IN and OUT by the port they name (R36 to R38, R60, R77, R119). -/
def Sys2Proof.Claims.PortInstructions : Prop := Claims.OutToRsp ∧ Claims.CoreLocalPorts ∧ Claims.DevicePorts

/-- OUT to RSD with room for its entries spills them all, oldest first, and every other local word reads as before (R63); OUT to ICINV empties the instruction cache, and the
words behind it that the core has fetched execute as fetched (R36, R73);
OUT to BPCTL empties the indirect-target table at once and changes the switches with distance 2 (R54, R91). -/
def Sys2Proof.Claims.OutsWithAnEffect : Prop :=
  ∀ (s : State) (c : CoreId) (f : IoForm) (r : GReg) (k : Core), IssuesService s c (ioLen f) k →
    (k.rs.length ≤ 16 → 0x7C00 + 2 * k.rs.length ≤ k.rsp.toNat → ∃ k1,
      Ends (.outRsd c f r) s s c (ioLen f) { k1 with rs := [], rsp := k.rsp - BitVec.ofNat 16 (2 * k.rs.length) } []
      ∧ OnlyLocal k k1
      ∧ (∀ i < k.rs.length, (localView k1 (k.rsp.toNat - 2 * k.rs.length + 2 * i)).toNat * 2 ^ 16
          + (localView k1 (k.rsp.toNat - 2 * k.rs.length + 2 * i + 1)).toNat = (k.rs.getD i 0).toNat)
      ∧ ∀ x, ¬ (k.rsp.toNat - 2 * k.rs.length ≤ x ∧ x < k.rsp.toNat) → localView k1 x = localView k x)
    ∧ Ends (.icinv c f r) s s.drawn c (ioLen f) { k.lookAhead (ioLen f) s.free with icache := [] } []
    ∧ Ends (.outBpctl c f r) s s c (ioLen f) { k with jtab := [], jhist := [0, 0, 0, 0] }
        [⟨.bpctl (BitVec.ofNat 4 (k.gr r).toNat), 2⟩]

/-- R357: an IN from ICLAIM returns the pending source of the highest level, ties to the lowest, whatever IPL and IE are, and
clears its bit in IPND or the timer's PND but not the mailbox; with nothing pending it returns 0. -/
def Obligations.ClaimHighestSource : Prop :=
  ∀ (s : State) (c : CoreId) (f : IoForm) (d : GReg) (k : Core), IssuesService s c (ioLen f) k →
    (pendingSrcs s c = [] → Ends (.iclaim c f d) s s c (ioLen f) k (toG d 0#64 1))
    ∧ (∀ x, Highest (pendingSrcs s c) x → Ends (.iclaim c f d) s s c (ioLen f)
        { k with irq := { k.irq with
          ipnd := if x.n < 64 then k.irq.ipnd &&& ~~~(1#64 <<< x.n) else k.irq.ipnd
          tpnd := if x.n = 64 then false else k.irq.tpnd } }
        (toG d (BitVec.ofNat 64 (x.n + x.lvl.toNat * 2 ^ 8 + 2 ^ 15)) 1))

/-- The mailbox (R362): MBX_SEND puts a message with its sender in the target core's mailbox, or drops it and sets OVF when the
mailbox is full or the core checkstopped or isolated; with the target's warden gated it is discarded, and one of the host sets
DAX (R516); with that warden failed it is discarded and, but for the host's, logged (R562). An IN from MBX_DATA takes the oldest.
Choices of the model on which clauses of it rest: notes/assumptions 103. -/
def Obligations.Mailbox : Prop :=
  (∀ (s : State) (who : Accessor) (c : CoreId) (v : W64),
    let k := s.core c; let q := coreQuire c
    let sender : Nat := match who with | .core n => n.val | .steward => 0x80 | .host => 0x81
    let m : W64 := BitVec.ofNat 64 (sender * 2 ^ 56 + v.toNat % 2 ^ 56)
    (s.spineRuns = true → (s.quire q).failed = false →
      (k.irq.mbx.length < 16 → k.ctl.cks = false → k.ctl.iso = false →
        exec (.mbxSend who c v) s = .next (s.setCore c { k with irq := { k.irq with mbx := k.irq.mbx ++ [m] } }))
      ∧ ((16 ≤ k.irq.mbx.length ∨ k.ctl.cks = true ∨ k.ctl.iso = true) →
        exec (.mbxSend who c v) s = .next (s.setCore c { k with irq := { k.irq with movf := true } })))
    ∧ (s.spineRuns = false →
        exec (.mbxSend who c v) s = .next (if who = .host then { s with pwr := { s.pwr with dax := true } } else s))
    ∧ (s.spineRuns = true → (s.quire q).failed = true →
        exec (.mbxSend who c v) s =
          .next (if who = .host then s else logEvent s .failedWardenAccess (BitVec.ofNat 16 q.val))))
  ∧ (∀ (s : State) (c : CoreId) (f : IoForm) (d : GReg) (k : Core), IssuesService s c (ioLen f) k →
    (∀ m rest, k.irq.mbx = m :: rest →
      Ends (.mbxData c f d) s s c (ioLen f) { k with irq := { k.irq with mbx := rest } } (toG d m 1))
    ∧ (k.irq.mbx = [] → Ends (.mbxData c f d) s s c (ioLen f) k (toG d 0xFF00000000000000#64 1)))

/-- IN and OUT by the port they name (R36 to R38, R54, R60, R63, R77, R91, R119).
Choices of the model on which clauses of it rest: notes/assumptions 24, 26, 38, 39; that RSP is limited by all 64 bits of the value
is its choice in 160, which words fetched ahead execute after ICINV its choice in 179, and an OUT to LC at LE its choice in 163. -/
def Obligations.InAndOut : Prop := Claims.PortInstructions ∧ Claims.OutsWithAnEffect

/-! ### Translation and storage keys -/

/-- TLBIV, TLBIT, TLBIA, TLBIA.F (R335): both TLBs keep exactly the entries that the operation does not name, in their order,
locked ones included but for TLBIA.F; the walk cache is emptied, and words behind the instruction that the core has fetched, as
Core.lookAhead gives them, execute as fetched. Nothing else of the core changes. While a walk that an interrupt left under way has
still to install its entry, they wait (R335, R359). -/
def Sys2Proof.Claims.TlbInvalidation : Prop :=
  ∀ (s : State) (c : CoreId) (a b : GReg) (k : Core), IssuesService s c 2 k →
    let vpn : BitVec 28 := BitVec.ofNat 28 ((k.gr a).toNat / 4096); let tag : BitVec 12 := BitVec.ofNat 12 (k.gr b).toNat
    let keeps := fun (i : Instr) (p : TlbEntry → Bool) =>
      (k.ctl.walkBg = none →
        Ends i s s.drawn c 2 { k.lookAhead 2 s.free with itlb := k.itlb.filter p, dtlb := k.dtlb.filter p, wcache := [] } [])
      ∧ (k.ctl.walkBg ≠ none → WaitsForRoom i s c k)
    keeps (.tlbiv c a b) (fun e => e.locked || !(e.covers vpn && (e.tag == tag || e.g)))
    ∧ keeps (.tlbit c b) (fun e => e.locked || !(e.tag == tag && !e.g))
    ∧ keeps (.tlbia c) (fun e => e.locked)
    ∧ keeps (.tlbiaF c) (fun _ => false)

/-- TLBLK and TLBLK.I lock the entry that translates the address and set Z, or clear Z when every lockable slot is in use; an entry
that is locked already is left as it is, with Z set; with no entry they wait for the walk, and outside the translated range they raise local-placement with XAD = Ga. TLBUL and TLBUL.I
unlock every entry that covers the address (R336), and leave Z (the model's choice, notes/assumptions 204). Nothing else of the core
changes. -/
def Sys2Proof.Claims.TlbLocks : Prop :=
  ∀ (s : State) (c : CoreId) (a : GReg) (k : Core), IssuesService s c 2 k →
    let va : BitVec 40 := BitVec.ofNat 40 (k.gr a).toNat; let ia : BitVec 40 := BitVec.ofNat 40 ((k.gr a).toNat % 2 ^ 32)
    let locks := fun (l : List TlbEntry) (slots : Nat) (x : BitVec 40) (kind : WalkKind) (i : Instr) (put : List TlbEntry → Core) =>
      (tlbFind l k.cxt.tag (vpnOf x) = none → AtPc s c i →
        exec i s = .next (s.setCore c (k.stall s.now (some (kind, x)) false)))
      ∧ ∀ e, tlbFind l k.cxt.tag (vpnOf x) = some e →
        (e.locked = true → Ends i s s c 2 { put l with fl := { k.fl with z := true } } [])
        ∧ (e.locked = false → slots ≤ (l.filter (·.locked)).length →
            Ends i s s c 2 { put (tlbTouch l e) with fl := { k.fl with z := false } } [])
        ∧ (e.locked = false → (l.filter (·.locked)).length < slots →
            Ends i s s c 2 { put ({ e with locked := true } :: l.erase e) with fl := { k.fl with z := true } } [])
    (0x8000 ≤ va.toNat → locks k.dtlb 8 va .data (.tlblk c a) (fun l => { k with dtlb := l }))
    ∧ (0x2000 ≤ ia.toNat → locks k.itlb 4 ia .lockI (.tlblkI c a) (fun l => { k with itlb := l }))
    ∧ (va.toNat < 0x8000 → Raises (.tlblk c a) s c k 0x03 va)
    ∧ (ia.toNat < 0x2000 → Raises (.tlblkI c a) s c k 0x03 va)
    ∧ Ends (.tlbul c a) s s c 2
        { k with dtlb := k.dtlb.map (fun x => if x.covers (vpnOf va) then { x with locked := false } else x) } []
    ∧ Ends (.tlbulI c a) s s c 2
        { k with itlb := k.itlb.map (fun x => if x.covers (vpnOf ia) then { x with locked := false } else x) } []

/-- SKEY (R331 to R333) waits while its L register is busy, and is a long op otherwise; the key array serves the oldest first (R17);
when it serves one, it brings the
tag as it was, with bit 62 when that read could not be corrected, and writes the key and guard with WK and the use state with WU,
which repairs the entry; such a read is counted and logged. A frame without a key brings only bit 63. Nothing else changes. -/
def Sys2Proof.Claims.StorageKeys : Prop :=
  (∀ (s : State) (c : CoreId) (l : LRegId) (a b : GReg) (k : Core), IssuesService s c 2 k →
    (k.lBusy l = true → Waits (.skey c l a b) s c k)
    ∧ (k.lBusy l = false → Ends (.skey c l a b) s s.stamped c 2
      { k with longs := k.longs
          ++ [⟨.l l, .skey (BitVec.ofNat 24 ((k.gr a).toNat / 4096)) (k.gr b), s.stamp, some s.entryNow, none, none⟩] } []))
  ∧ (∀ (s : State) (c : CoreId) (l : LRegId) (o : LongOp) (frame : BitVec 24) (v : W64), s.spineRuns = true →
    (s.core c).long? (.l l) = some o → o.op = .skey frame v → o.res = none → ∀ e, o.entry = some e →
    (olderSkey s (e.age (srcCore c) o.stamp) = true → exec (.skeyServe c l) s = .next s)
    ∧ (olderSkey s (e.age (srcCore c) o.stamp) = false →
    let f := frame.toNat; let old := s.keys.get f
    let brings := fun (t : State) (r : W64) => exec (.skeyServe c l) s =
      .next (t.setCore c ((s.core c).modLong (.l l) (fun o => { o with res := some (.l r false) })))
    (keyedFrame s.part f = false → brings s 0x8000000000000000#64)
    ∧ (keyedFrame s.part f = true → ∃ new : BitVec 8,
        let t := { s with
          keys := s.keys.set f new
          keyMark := if v.getLsbD 8 || v.getLsbD 9 then s.keyMark.set (f / 8) 0#1 else s.keyMark }
        (s.keyMark.get (f / 8) = 0#1 → brings t (BitVec.ofNat 64 old.toNat))
        ∧ (s.keyMark.get (f / 8) ≠ 0#1 → brings (keyError t) (BitVec.ofNat 64 (old.toNat + 2 ^ 62)))
        ∧ (∀ i < 6, new.getLsbD i = if v.getLsbD 8 then v.getLsbD i else old.getLsbD i)
        ∧ (∀ i, 6 ≤ i → i < 8 → new.getLsbD i = if v.getLsbD 9 then v.getLsbD i else old.getLsbD i))))

/-- The instructions on TLBs and storage keys (R331 to R336).
Choices of the model on which clauses of it rest: notes/assumptions 19, 20, 179, 204. -/
def Obligations.TranslationAndKeys : Prop := Claims.TlbInvalidation ∧ Claims.TlbLocks ∧ Claims.StorageKeys

namespace Sys2Proof.Claims

/-- Accumulator r reads as the fixed-decimal value of a sign, true for minus, and a magnitude (R44, R126). -/
def ReadsFixed (k : Core) (r : AReg) (neg : Bool) (mag : Nat) : Prop :=
  (k.ac r).tag = 0#7 ∧ bcdOk 34 (k.ac r).dig.toNat = true ∧ (k.ac r).sign = neg ∧ bcdVal 34 (k.ac r).dig.toNat = mag

/-- A fixed-decimal result: TAG and EXP 0, valid digits of the magnitude, and the sign (R126). -/
def IsFixed (a : Acc) (neg : Bool) (mag : Nat) : Prop :=
  a.tag = 0#7 ∧ a.exp = 0#16 ∧ a.sign = neg ∧ bcdOk 34 a.dig.toNat = true ∧ bcdVal 34 a.dig.toNat = mag

/-- The sign of a result with this magnitude: a zero is plus while ZSK is 0 (R127). -/
def resultSign (k : Core) (mag : Nat) (neg : Bool) : Bool := neg && !(decide (mag = 0) && !k.sys.zsk)

/-- No long op owns the accumulators (R75). -/
def Free (k : Core) (l : List AReg) : Prop := ∀ r ∈ l, k.aBusy r = false

/-- The core after an instruction that sets V: with OTE = 1 the decimal-overflow trap follows it (R151). -/
def trapDue (k : Core) (fl : Flags) : Core := { k with fl := fl, ovf := if fl.v ∧ k.sys.ote then some k.pc else k.ovf }

/-- The instruction completes with a fixed-decimal result in accumulator d. -/
def EndsFixed (i : Instr) (s : State) (c : CoreId) (len : Nat) (k1 : Core) (d : AReg) (neg : Bool) (mag dist : Nat) : Prop :=
  ∃ r, IsFixed r neg mag ∧ Ends i s s c len k1 [⟨.a d r, dist⟩]

end Sys2Proof.Claims

/-! ### Decimal arithmetic -/

/-- DADD, DSUB, DCMP, DADDC and DSUBC (R127, R133, R134, R136, R151).
Choices of the model on which clauses of it rest: notes/assumptions 30. -/
def Obligations.DecimalSums : Prop :=
  ∀ (s : State) (c : CoreId) (d a b : AReg) (k : Core) (sa sb : Bool) (ma mb : Nat), Issues s c 2 k →
    ReadsFixed k a sa ma → ReadsFixed k b sb mb →
    let x : Int := if sa then -(ma : Int) else ma; let y : Int := if sb then -(mb : Int) else mb
    let sums := fun (i : Instr) (y : Int) (sy : Bool) =>
      let m := (x + y).natAbs; let neg := if sa = sy then sa else if (x + y) = 0 then sa else decide (x + y < 0)
      let lo := m % 10 ^ 34; let v := decide (10 ^ 34 ≤ m); let sg := resultSign k lo neg
      EndsFixed i s c 2 (trapDue k { k.fl with v := v, dc := v, n := sg && decide (lo ≠ 0), z := decide (lo = 0) }) d sg lo 1
    let chains := fun (i : Instr) (first : Bool) (t : Int) =>
      let r := (t % 10 ^ 34).toNat
      EndsFixed i s c 2 { k with fl := { k.fl with
        n := false, v := false, dc := decide (t < 0 ∨ 10 ^ 34 ≤ t), z := (first || k.fl.z) && decide (r = 0) } } d false r 1
    (Free k [a, b, d] → sums (.dadd c d a b) y sb ∧ sums (.dsub c d a b) (-y) (!sb))
    ∧ (Free k [a, b] → Ends (.dcmp c a b) s s c 2
        { k with fl := { k.fl with z := decide (x = y), n := decide (x < y), c := decide (y ≤ x), v := false } } [])
    ∧ (∀ first : Bool,
        let cin : Int := if first then 0 else k.fl.dc.toNat
        Free k [a, b, d] → chains (.daddc c first d a b) first ((ma : Int) + mb + cin)
          ∧ chains (.dsubc c first d a b) first ((ma : Int) - mb - cin))

/-- DMUL and DDIV (R137, R138, R153): long ops into an even pair, with no flag; a zero divisor raises decimal-divide, and an odd
pair is illegal; while a long op owns a source or the destination they wait first. -/
def Sys2Proof.Claims.DecimalProducts : Prop :=
  ∀ (s : State) (c : CoreId) (d a b : AReg) (k : Core) (sa sb : Bool) (ma mb : Nat), Issues s c 2 k →
    (d.val % 2 = 1 → Free k [a, b, d] → Raises (.dmul c d a b) s c k 0x01 (BitVec.ofNat 40 k.pc.toNat)
      ∧ Raises (.ddiv c d a b) s c k 0x01 (BitVec.ofNat 40 k.pc.toNat))
    ∧ (¬ Free k [a, b, d] → Waits (.dmul c d a b) s c k ∧ Waits (.ddiv c d a b) s c k)
    ∧ (d.val % 2 = 0 → ReadsFixed k a sa ma → ReadsFixed k b sb mb → Free k [a, b, d, nextAcc d] →
      let pair := fun (i : Instr) (hn ln : Bool) (hi lo : Nat) => ∃ p q, IsFixed p hn hi ∧ IsFixed q ln lo
        ∧ Ends i s s.stamped c 2 { k with longs := k.longs ++ [⟨.a d, .calc, s.stamp, some s.entryNow, some (.a2 p q), none⟩] } []
      (let sg := resultSign k (ma * mb) (sa != sb)
       pair (.dmul c d a b) sg sg (ma * mb / 10 ^ 34) (ma * mb % 10 ^ 34))
      ∧ (mb ≠ 0 → pair (.ddiv c d a b) (resultSign k (ma / mb) (sa != sb)) (resultSign k (ma % mb) sa)
          (ma / mb) (ma % mb))
      ∧ (mb = 0 → Raises (.ddiv c d a b) s c k 0x14 0))

/-- DSHL (R141), and R143: the rounding modes of DSHR by Gb[7:0] digits, and code 7, which is illegal. -/
def Sys2Proof.Claims.DecimalShifts : Prop :=
  ∀ (s : State) (c : CoreId) (d a : AReg) (b : GReg) (k : Core) (sa : Bool) (ma : Nat), Issues s c 2 k →
    let n := (k.gr b).toNat % 256
    (ReadsFixed k a sa ma → Free k [a, d] →
      let t := ma * 10 ^ n; let lo := t % 10 ^ 34; let v := decide (10 ^ 34 ≤ t); let sg := resultSign k lo sa
      EndsFixed (.dshl c d a b) s c 2
        (trapDue k { k.fl with v := v, dc := v, n := sg && decide (lo ≠ 0), z := decide (lo = 0) }) d sg lo 1)
    ∧ (∀ rm : BitVec 3, rm ≠ 7#3 → ReadsFixed k a sa ma → Free k [a, d] →
      let q := ma / 10 ^ n; let r := ma % 10 ^ n
      ∃ up : Nat,
        (let m := q + up; let sg := resultSign k m sa
         EndsFixed (.dshr c rm d a b) s c 2 { k with fl := { k.fl with
            c := decide (r ≠ 0), v := false, dc := false, n := sg && decide (m ≠ 0), z := decide (m = 0) } } d sg m 1)
        ∧ up ≤ 1 ∧ (n = 0 → up = 0)
        ∧ (1 ≤ n →
            let h := 5 * 10 ^ (n - 1)
            (rm = 0#3 → up = 0) ∧ (rm = 1#3 → (up = 1 ↔ h ≤ r)) ∧ (rm = 2#3 → (up = 1 ↔ h < r ∨ (r = h ∧ q % 2 = 1)))
            ∧ (rm = 3#3 → (up = 1 ↔ h < r)) ∧ (rm = 4#3 → (up = 1 ↔ r ≠ 0))
            ∧ (rm = 5#3 → (up = 1 ↔ r ≠ 0 ∧ sa = false)) ∧ (rm = 6#3 → (up = 1 ↔ r ≠ 0 ∧ sa = true))))
    ∧ Raises (.dshr c 7#3 d a b) s c k 0x01 (BitVec.ofNat 40 k.pc.toNat)

/-- DMUL, DDIV, DSHL and DSHR (R137, R138, R141 to R143). -/
def Obligations.DecimalProductsAndShifts : Prop := Claims.DecimalProducts ∧ Claims.DecimalShifts

namespace Sys2Proof.Claims

/-- The words are a valid packed field of a sign and a magnitude (R123, R124). -/
def IsDecField (ws : List W16) (neg : Bool) (mag : Nat) : Prop :=
  let v := ws.foldl (fun acc w => acc * 65536 + w.toNat) 0
  bcdOk (4 * ws.length - 1) (v / 16) = true ∧ bcdVal (4 * ws.length - 1) (v / 16) = mag
  ∧ 10 ≤ v % 16 ∧ (neg = true ↔ v % 16 = 11 ∨ v % 16 = 13)

end Sys2Proof.Claims

/-- DLD and DST (R125, R131, R132): a valid field of n + 1 words loads exactly; an accumulator stores its low digits with the
preferred sign nibble, V saying whether any were lost; every other local word reads as before. -/
def Sys2Proof.Claims.DecimalFields : Prop :=
  ∀ (s : State) (c : CoreId) (d : AReg) (a : GReg) (i : BitVec 16) (n : Fin 8) (k : Core) (neg : Bool) (mag : Nat),
    Issues s c 3 k → Free k [d] →
    let ea : BitVec 40 := BitVec.ofInt 40 ((k.gr a).toNat + i.toInt); let len := n.val + 1
    MayTouch k ea len →
    (CleanLocal k ea.toNat len → IsDecField (localWords k ea.toNat len) neg mag →
      ∃ k1, EndsFixed (.dld c d a i n) s c 3 k1 d neg mag 1 ∧ OnlyLocal k k1 ∧ ∀ x, localView k1 x = localView k x)
    ∧ (ReadsFixed k d neg mag →
      ∃ k1, Ends (.dst c d a i n) s s c 3 (trapDue k1 { k.fl with v := decide (10 ^ (4 * len - 1) ≤ mag) }) []
        ∧ OnlyLocal k k1
        ∧ (let lo := mag % 10 ^ (4 * len - 1); let sg := resultSign k lo neg
           IsDecField (localWords k1 ea.toNat len) sg lo
           ∧ (localView k1 (ea.toNat + n.val)).toNat % 16 = if sg then 13 else if k.sys.psf then 15 else 12)
        ∧ ∀ x, ¬ (ea.toNat ≤ x ∧ x < ea.toNat + len) → localView k1 x = localView k x)

/-- DCVB and DCVD (R145, R146): distance 3; DCVB sets V when the value does not fit, and then writes it modulo 2^64. -/
def Sys2Proof.Claims.DecimalConversions : Prop :=
  (∀ (s : State) (c : CoreId) (u : Bool) (d : GReg) (a : AReg) (k : Core) (neg : Bool) (mag : Nat), Issues s c 2 k →
    ReadsFixed k a neg mag → Free k [a] →
    let x : Int := if neg then -(mag : Int) else mag
    let r : W64 := BitVec.ofInt 64 x
    let fits : Prop := if u then 0 ≤ x ∧ x < 2 ^ 64 else -2 ^ 63 ≤ x ∧ x < 2 ^ 63
    ∃ v, (v = true ↔ ¬ fits) ∧ Ends (.dcvb c u d a) s s c 2
      (trapDue k { k.fl with v := v, n := decide (2 ^ 63 ≤ r.toNat), z := decide (r = 0#64) }) (toG d r 3))
  ∧ (∀ (s : State) (c : CoreId) (u : Bool) (d : AReg) (a : GReg) (k : Core), Issues s c 2 k → Free k [d] →
    let x : Int := if u then (k.gr a).toNat else (k.gr a).toInt
    EndsFixed (.dcvd c u d a) s c 2 k d (decide (x < 0)) x.natAbs 3)

/-- DMAC on two valid 4-word fields, one in each bank (R147, R148): the signed product is added with distance 3, the low 34
digits kept, no flag changed, and the address registers that the instruction names advance by 4. -/
def Sys2Proof.Claims.MultiplyAccumulate : Prop :=
  ∀ (s : State) (c : CoreId) (ia ib n : Bool) (d : AReg) (a b : GReg) (k : Core) (sx sy sd : Bool) (mx my md : Nat),
    Issues s c 2 k → Free k [d] →
    let x : BitVec 40 := BitVec.ofNat 40 (k.gr a).toNat; let y : BitVec 40 := BitVec.ofNat 40 (k.gr b).toNat
    MayTouch k x 4 → MayTouch k y 4 → x.toNat + 4 ≤ 0x4000 → 0x4000 ≤ y.toNat →
    CleanLocal k x.toNat 4 → CleanLocal k y.toNat 4 →
    IsDecField (localWords k x.toNat 4) sx mx → IsDecField (localWords k y.toNat 4) sy my → ReadsFixed k d sd md →
      let sp := (sx != sy) != n
      let t : Int := (if sd then -(md : Int) else md) + (if sp then -((mx * my : Nat) : Int) else (mx * my : Nat))
      let lo := t.natAbs % 10 ^ 34
      let neg := if sd = sp then sd else if t = 0 then sd else decide (t < 0)
      ∃ k1 r, IsFixed r (resultSign k lo neg) lo ∧ OnlyLocal k k1 ∧ (∀ w, localView k1 w = localView k w)
        ∧ Ends (.dmac c ia ib n d a b) s s c 2 k1
          ([⟨.a d r, 3⟩] ++ (if ia then toG a (k.gr a + 4#64) else []) ++ (if ib then toG b (k.gr b + 4#64) else []))

/-- DLD, DST, DCVB, DCVD and DMAC (R131, R132, R145 to R148).
Choices of the model on which clauses of it rest: notes/assumptions 30, 31, 164 (the addresses of DMAC are cut to 40 bits). -/
def Obligations.DecimalFieldsAndConversions : Prop :=
  Claims.DecimalFields ∧ Claims.DecimalConversions ∧ Claims.MultiplyAccumulate

/-! ### Strings -/

namespace Sys2Proof.Claims

/-- Two runs of words do not meet. -/
def Apart (a n b m : Nat) : Prop := a + n ≤ b ∨ b + m ≤ a

/-- A run of an instruction of major 0x50 from its issue to its end, which no machine check ends. -/
def Runs (op : DsuOp) (md svc : Bool) (k t : Core) : Prop := ∀ g : Image, (DsuProg.unit op).run g svc md k none = some ⟨t, none⟩

/-- The directory entry of a unit in the two-level table at EP (R168). -/
def dirEntry (k : Core) (u : W16) : Nat := (k.loc.get (k.dk.ep.toNat + u.toNat / 256)).toNat
/-- The page of a directory entry may be read: it lies in the local region and, in Tenant mode, within LRB (R168). -/
def PageOpen (k : Core) (svc : Bool) (e : Nat) : Prop :=
  e + 0xFF ≤ 0x7FFF ∧ (svc = true ∨ ∀ i < 256, k.sys.tenantWord (e + i) = true)
/-- The look-up of a unit finds r: nothing where its directory entry is 0, else the word of its page; what it reads is clean. -/
def Looks (k : Core) (svc : Bool) (u : W16) (r : Option W16) : Prop :=
  let e := dirEntry k u
  CleanLocal k (k.dk.ep.toNat + u.toNat / 256) 1
  ∧ (if e = 0 then r = none
      else PageOpen k svc e ∧ CleanLocal k (e + u.toNat % 256) 1 ∧ r = some (k.loc.get (e + u.toNat % 256)))
/-- The look-up of a unit is a table fault. -/
def LookFaults (k : Core) (svc : Bool) (u : W16) : Prop :=
  CleanLocal k (k.dk.ep.toNat + u.toNat / 256) 1 ∧ dirEntry k u ≠ 0 ∧ ¬ PageOpen k svc (dirEntry k u)

/-- t has one unit more than k, at DA, and no other word is changed. -/
def Emits (k t : Core) (u : W16) : Prop := ∀ x, t.loc.get x = if x = k.dk.da.toNat then u else k.loc.get x

/-- The deckle group after a pattern step that consumes n units, emits m, leaves no pattern unit, and completes. -/
def stepped (d : Deckle) (n m : Nat) : Deckle :=
  { d with ep := d.ep + BitVec.ofNat 15 n, da := d.da + BitVec.ofNat 15 m, dc := 0, tl := { d.tl with st := 0 } }

end Sys2Proof.Claims

/-- EDS and EDSM by the rows of R172 and digit() of R171, each for the pattern unit that the operation stands before, and what a
longer pattern does: its first units, then the rest. `em` is EDSM, which records where a digit turns significance on. -/
def Sys2Proof.Claims.EditRows : Prop :=
  ∀ (k : Core) (svc em : Bool),
    let op : DsuOp := if em then .edsm else .eds
    let d := k.dk; let p := k.loc.get d.ep.toNat
    let base : W16 := if d.cb = 0#16 then 0xF8A0#16 else d.cb
    let dg : Prop := p = base ∨ p = base + 1#16
    let w := (k.loc.get d.sa.toNat).toNat; let digit := w / 16 ^ (3 - d.tl.nib.toNat) % 16
    let last := decide (d.tl.nib = 2#2) && decide (10 ≤ w % 16)
    let stops := fun (st : BitVec 4) => ∃ t, Runs op false svc k t ∧ t.loc = k.loc ∧ t.dk = { d with tl := { d.tl with st := st } }
    (d.dc = 0#32 → stops 0) ∧
    (d.dc ≠ 0#32 → CleanLocal k d.ep.toNat d.dc.toNat → d.ep.toNat + d.dc.toNat ≤ 0x8000 →
      -- DG and FD
      (dg → d.tl.ps = true → stops 5)
      ∧ (dg → d.tl.ps = false → d.sc = 0#32 → stops 4)
      ∧ (dg → d.tl.ps = false → d.sc ≠ 0#32 → CleanLocal k d.sa.toNat 1 → 9 < digit → stops 2)
      ∧ (dg → d.tl.ps = false → d.sc ≠ 0#32 → CleanLocal k d.sa.toNat 1 → digit ≤ 9 → d.dc = 1#32 →
        let turns := !d.tl.sig && (decide (digit ≠ 0) || decide (p = base + 1#16))
        ∃ t, Runs op false svc k t
          ∧ Emits k t (if d.tl.sig || turns then 0x30#16 + BitVec.ofNat 16 digit else d.fill)
          ∧ t.dk = { stepped d 1 1 with
            sa := if last || decide (d.tl.nib = 3#2) then d.sa + 1 else d.sa
            sc := if last || decide (d.tl.nib = 3#2) then d.sc - 1 else d.sc
            mark := if turns && em then d.da else d.mark, mv := d.mv || (turns && em)
            tl := { d.tl with
              st := 0, sig := d.tl.sig || turns, ps := last
              neg := if last then decide (w % 16 = 11 ∨ w % 16 = 13) else d.tl.neg
              nib := if last || decide (d.tl.nib = 3#2) then 0 else d.tl.nib + 1 } })
      -- GE, SC, and any other unit
      ∧ (p = base + 2#16 → d.dc = 1#32 → ∃ t, Runs op false svc k t ∧ t.loc = k.loc
          ∧ t.dk = { stepped d 1 0 with tl := { d.tl with st := 0, sig := false, ps := false, neg := false, fc := d.tl.fc + 1 } })
      ∧ (p = base + 3#16 → d.dc.toNat < 3 → stops 5)
      ∧ (p = base + 3#16 → d.dc = 3#32 → ∃ t, Runs op false svc k t ∧ t.dk = stepped d 3 1
          ∧ Emits k t (if d.tl.ps then k.loc.get (d.ep.toNat + if d.tl.neg then 2 else 1) else d.fill))
      ∧ (¬ dg → p ≠ base + 2#16 → p ≠ base + 3#16 → d.dc = 1#32 → ∃ t, Runs op false svc k t ∧ t.dk = stepped d 1 1
          ∧ Emits k t (if d.tl.sig then p else d.fill))
      -- a pattern of n units and more
      ∧ ∀ (n : Nat) (t u : Core), n ≤ d.dc.toNat → Runs op false svc (k.modDk (fun d => { d with dc := BitVec.ofNat 32 n })) t →
          t.dk.tl.st = 0#4 → Runs op false svc (t.modDk (fun e => { e with dc := d.dc - BitVec.ofNat 32 n })) u →
          Runs op false svc k u)

/-- PKS (R174) of decimal units with or without a sign before them, into a field that it does not meet: the field holds the value's
low digits with the preferred sign, a zero being plus while ZSK is 0, and ST says whether digits were lost. A unit that is neither a
digit nor a leading sign stops it with the units before it counted, and a field that is not of 1 to 8 words is refused. -/
def Sys2Proof.Claims.PackString : Prop :=
  ∀ (k : Core) (svc : Bool),
    let n := k.dk.sc.toNat; let m := k.dk.dc.toNat; let sa := k.dk.sa.toNat; let da := k.dk.da.toNat
    let u := fun (i : Nat) => (k.loc.get (sa + i)).toNat; let isDigit := fun (i : Nat) => 0x30 ≤ u i ∧ u i ≤ 0x39
    0 < n → sa + n ≤ 0x8000 → da + m ≤ 0x8000 →
    ((m = 0 ∨ 8 < m) → ∃ t, Runs .pks false svc k t ∧ t.loc = k.loc ∧ t.dk = { k.dk with tl := { k.dk.tl with st := 8 } })
    ∧ (1 ≤ m → m ≤ 8 → k.dk.tl.ps = false → Claims.Apart sa n da m → CleanLocal k sa n → CleanLocal k da m →
      (∀ (signed : Bool), (∀ i, (if signed then 1 else 0) ≤ i → i < n → isDigit i) → (signed = true → u 0 = 0x2D ∨ u 0 = 0x2B) →
        let mag := ((List.range n).drop (if signed then 1 else 0)).foldl (fun a i => 10 * a + (u i - 0x30)) 0
        let neg := signed && decide (u 0 = 0x2D); let lo := mag % 10 ^ (4 * m - 1); let sg := resultSign k lo neg
        ∃ t, Runs .pks false svc k t
          ∧ IsDecField ((List.range m).map (fun i => t.loc.get (da + i))) sg lo
          ∧ (t.loc.get (da + (m - 1))).toNat % 16 = (if sg then 13 else if k.sys.psf then 15 else 12)
          ∧ (∀ x, ¬ (da ≤ x ∧ x < da + m) → t.loc.get x = k.loc.get x)
          ∧ t.dk.sa = k.dk.sa ∧ t.dk.sc = 0 ∧ t.dk.da = k.dk.da ∧ t.dk.dc = k.dk.dc ∧ t.dk.tl.neg = neg ∧ t.dk.tl.ps = false
          ∧ t.dk.tl.st = if 10 ^ (4 * m - 1) ≤ mag then 7 else 0)
      ∧ ∀ j < n, (∀ i, j < i → i < n → isDigit i) → ¬ isDigit j → (j = 0 → u 0 ≠ 0x2D ∧ u 0 ≠ 0x2B) →
        ∃ t, Runs .pks false svc k t ∧ t.dk.tl.st = 3 ∧ t.dk.sc.toNat = j + 1 ∧ t.dk.tl.ps = true
          ∧ ∀ x, ¬ (da ≤ x ∧ x < da + m) → t.loc.get x = k.loc.get x)

/-- UPS (R175) of a valid field into units that it does not meet: digit units, right-aligned, with zeros above the field; NEG is the
field's sign, and ST says whether digits other than 0 were not emitted. A field that is not of 1 to 8 words is refused. -/
def Sys2Proof.Claims.UnpackString : Prop :=
  ∀ (k : Core) (svc neg : Bool) (mag : Nat),
    let n := k.dk.dc.toNat; let m := k.dk.sc.toNat; let sa := k.dk.sa.toNat; let da := k.dk.da.toNat
    0 < n → sa + m ≤ 0x8000 → da + n ≤ 0x8000 →
    ((m = 0 ∨ 8 < m) → ∃ t, Runs .ups false svc k t ∧ t.loc = k.loc ∧ t.dk = { k.dk with tl := { k.dk.tl with st := 8 } })
    ∧ (1 ≤ m → m ≤ 8 → k.dk.tl.ps = false → Claims.Apart sa m da n → CleanLocal k sa m →
      IsDecField ((List.range m).map (fun i => k.loc.get (sa + i))) neg mag →
      ∃ t, Runs .ups false svc k t
        ∧ (∀ i < n, (t.loc.get (da + (n - 1 - i))).toNat = 0x30 + mag / 10 ^ i % 10)
        ∧ (∀ x, ¬ (da ≤ x ∧ x < da + n) → t.loc.get x = k.loc.get x)
        ∧ t.dk.sa = k.dk.sa ∧ t.dk.sc = k.dk.sc ∧ t.dk.da = k.dk.da ∧ t.dk.dc = 0 ∧ t.dk.tl.neg = neg ∧ t.dk.tl.ps = false
        ∧ t.dk.tl.st = if 10 ^ n ≤ mag then 7 else 0)

/-- The DSU instructions (R156, R158, R164, R165): with the deckle group free and its ranges in bounds, each becomes the
outstanding DSU operation after the older local stores have drained, with a stop asked of it at once where its core is on the way
to a quiesce or a gating (R400); a busy group holds it; a range beyond the local region or LRB raises its exception. A stop that
was requested (R178) takes effect through DSU_SUSPEND: the operation, which has not begun or stands where its steps have brought
it, runs so many units more and delivers, leaving the core otherwise free of it; a checkstopped or isolated core drops it. Then what
the edit, pack and unpack instructions do to the words they name (R171 to R175).
Choices of the model on which clauses of it rest: notes/assumptions 32, 33, 34, 169. -/
def Obligations.StringInstructions : Prop :=
  (∀ (s : State) (c : CoreId) (k : Core), Issues s c 1 k →
    let held := (s.quire (coreQuire c)).quiesced || k.ctl.gated
    let starts := fun (i : Instr) (x : BitVec 4) (op : DsuOp) (md : Bool) =>
      (k.dsuBusy = true → Waits i s c k)
      ∧ (k.dsuBusy = false → dsuCheck k op = none → ∃ k1,
          Ends i s s.stamped c 1
            { k1 with
              longs := k.longs ++ [⟨.dsu, .dsu x md k.pc k.sys.mode held none, s.stamp, some s.entryNow, none, none⟩]
              ctl := { k.ctl with dsuStopped := k.ctl.dsuStopped || held } } []
          ∧ OnlyLocal k k1 ∧ (∀ a ws, .loc a ws ∉ k1.sbuf) ∧ ∀ w, localView k1 w = localView k w)
      ∧ (∀ cause xad, k.dsuBusy = false → dsuCheck k op = some (cause, xad) → Raises i s c k cause xad)
    starts (.mvs c) 0 .mvs false ∧ starts (.mvsp c) 1 .mvsp false ∧ starts (.trs c) 2 .trs false
    ∧ starts (.cms c) 3 .cms false ∧ starts (.scs c) 4 .scs false ∧ starts (.scsN c) 4 .scs true
    ∧ starts (.eds c) 5 .eds false ∧ starts (.edsm c) 6 .edsm false ∧ starts (.pks c) 7 .pks false
    ∧ starts (.ups c) 8 .ups false)
  ∧ (∀ (s : State) (c : CoreId) (o : LongOp) (x : BitVec 4) (md svc : Bool) (ia : BitVec 32) (units : Nat) (op : DsuOp)
      (at_ : Option DsuAt) (e : DsuEnd),
    let k := s.core c; let g := (s.quire (coreQuire c)).image
    k.long? .dsu = some o → o.op = .dsu x md ia svc true at_ → dsuOpOf x = some op → (md = true → op = .scs) →
    (k.ctl.cks = true ∨ k.ctl.iso = true → exec (.dsuSuspend c units) s = .next (s.setCore c (k.dropLong .dsu)))
    ∧ (k.ctl.cks = false → k.ctl.iso = false → g.parityOk 4 (dsuSlot x md) = true →
      (match at_ with
        | none => (DsuProg.unit op).run g svc md (k.modTl (fun t => { t with op := x, md := md, ia := ia })) (some units)
        | some d => (DsuProg.unit op).rest g svc md { k with dk := d.dk } d.mark d.regs d.addr (some units)) = some e →
        ∃ k1, exec (.dsuSuspend c units) s = .next (s.setCore c k1)
          ∧ (∀ o ∈ k1.longs, o.dest ≠ .dsu) ∧ k1.dk = e.k.dk ∧ k1.loc = e.k.loc ∧ k1.locBad = e.k.locBad
          ∧ (e.mc = some .localData → k1.ctl.asyncMc = k.ctl.asyncMc ++ [.localData]) ∧ (e.mc = none → k1.ctl = k.ctl)))
  ∧ Claims.EditRows ∧ Claims.PackString ∧ Claims.UnpackString

/-- MVS (R166), from the words it names to the words it writes: n units whose source words are clean and which lie in the local
region move, SA and DA advance by n, SC becomes 0, ST 0, DC is not changed. Where no source word is written before it is
read, destination word i takes source word i; where the destination begins one word above the source, every destination word
takes the first source word. No other word changes. -/
def Sys2Proof.Claims.MoveString : Prop :=
  ∀ (g : Image) (k : Core) (svc : Bool),
    let n := k.dk.sc.toNat; let sa := k.dk.sa.toNat; let da := k.dk.da.toNat
    sa + n ≤ 0x8000 → da + n ≤ 0x8000 → (∀ i < n, k.locBad.get ((sa + i) / 4) = 0#1) →
      ∃ t, (DsuProg.unit .mvs).run g svc false k none = some ⟨t, none⟩
      ∧ t.dk = { k.dk with
          sa := k.dk.sa + BitVec.ofNat 15 n, da := k.dk.da + BitVec.ofNat 15 n, sc := 0, tl := { k.dk.tl with st := 0 } }
      ∧ (da ≤ sa ∨ sa + n ≤ da → ∀ i < n, t.loc.get (da + i) = k.loc.get (sa + i))
      ∧ (da = sa + 1 → ∀ i < n, t.loc.get (da + i) = k.loc.get sa)
      ∧ (∀ x, ¬ (da ≤ x ∧ x < da + n) → t.loc.get x = k.loc.get x)

/-- CMS (R169) over two ranges of one length, all words clean: Z says whether the ranges
are equal, and where they are not, LO whether the first differing unit of the source is the lower, with SA and DA at it. -/
def Sys2Proof.Claims.CompareString : Prop :=
  ∀ (g : Image) (k : Core) (svc : Bool),
    let n := k.dk.sc.toNat; let sa := k.dk.sa.toNat; let da := k.dk.da.toNat
    k.dk.dc = k.dk.sc → sa + n ≤ 0x8000 → da + n ≤ 0x8000 →
    (∀ i < n, k.locBad.get ((sa + i) / 4) = 0#1 ∧ k.locBad.get ((da + i) / 4) = 0#1) →
      ∃ t, (DsuProg.unit .cms).run g svc false k none = some ⟨t, none⟩ ∧ t.loc = k.loc ∧ t.dk.tl.st = 0
      ∧ (t.dk.tl.z = true ↔ ∀ i < n, k.loc.get (sa + i) = k.loc.get (da + i))
      ∧ (∀ i < n, (∀ j < i, k.loc.get (sa + j) = k.loc.get (da + j)) → k.loc.get (sa + i) ≠ k.loc.get (da + i) →
          t.dk.sa.toNat = sa + i ∧ t.dk.da.toNat = da + i
          ∧ (t.dk.tl.lo = true ↔ (k.loc.get (sa + i)).toNat < (k.loc.get (da + i)).toNat))

/-- MVSP (R167): the destination's words take the source's as far as it goes and FILL beyond; a longer source is left over. -/
def Sys2Proof.Claims.MovePadded : Prop :=
  ∀ (k : Core) (svc : Bool),
    let n := k.dk.sc.toNat; let m := k.dk.dc.toNat; let sa := k.dk.sa.toNat; let da := k.dk.da.toNat; let c := min n m
    sa + c ≤ 0x8000 → da + m ≤ 0x8000 → CleanLocal k sa c → (da ≤ sa ∨ sa + c ≤ da) →
      ∃ t, Runs .mvsp false svc k t
      ∧ t.dk = { k.dk with
          sa := k.dk.sa + BitVec.ofNat 15 c, sc := BitVec.ofNat 32 (n - c), da := k.dk.da + BitVec.ofNat 15 m, dc := 0
          tl := { k.dk.tl with st := 0 } }
      ∧ (∀ i < m, t.loc.get (da + i) = if i < c then k.loc.get (sa + i) else k.dk.fill)
      ∧ ∀ x, ¬ (da ≤ x ∧ x < da + m) → t.loc.get x = k.loc.get x

/-- TRS (R168): each unit is translated through the two-level table at EP, as the table stands apart from the destination; a table
fault at unit j stops it there with ST 6, the units before it translated. -/
def Sys2Proof.Claims.TranslateString : Prop :=
  ∀ (k : Core) (svc : Bool) (j : Nat) (f : Nat → Option W16),
    let n := k.dk.sc.toNat; let sa := k.dk.sa.toNat; let da := k.dk.da.toNat; let ep := k.dk.ep.toNat
    let u := fun (i : Nat) => k.loc.get (sa + i)
    sa + n ≤ 0x8000 → da + n ≤ 0x8000 → ep + 256 ≤ 0x8000 → CleanLocal k sa n → (da ≤ sa ∨ sa + n ≤ da) → Claims.Apart da n ep 256 →
    (∀ i < n, dirEntry k (u i) = 0 ∨ Claims.Apart da n (dirEntry k (u i)) 256) → j ≤ n →
    (∀ i < j, Looks k svc (u i) (f i)) → (j < n → LookFaults k svc (u j)) →
      ∃ t, Runs .trs false svc k t
      ∧ t.dk = { k.dk with
          sa := k.dk.sa + BitVec.ofNat 15 j, da := k.dk.da + BitVec.ofNat 15 j, sc := BitVec.ofNat 32 (n - j)
          tl := { k.dk.tl with st := if j = n then 0 else 6 } }
      ∧ (∀ i < j, t.loc.get (da + i) = (f i).getD (u i))
      ∧ ∀ x, ¬ (da ≤ x ∧ x < da + j) → t.loc.get x = k.loc.get x

/-- SCS and, with `md`, SCS.N (R170): the scan ends at the first unit whose class mask meets CSET, for SCS.N at the first whose mask
does not, with Z 0, SA at it and SC counting it; with Z 1 where there is none; and with ST 6 at a table fault. -/
def Sys2Proof.Claims.ScanString : Prop :=
  ∀ (k : Core) (svc md : Bool) (j : Nat) (f : Nat → Option W16),
    let n := k.dk.sc.toNat; let sa := k.dk.sa.toNat; let u := fun (i : Nat) => k.loc.get (sa + i)
    let hit := fun (i : Nat) => decide ((f i).getD 0 &&& k.dk.cset ≠ 0#16) ≠ md
    let ends := fun (z : Bool) (st : BitVec 4) => ∃ t, Runs .scs md svc k t ∧ t.loc = k.loc
      ∧ t.dk = { k.dk with
          sa := k.dk.sa + BitVec.ofNat 15 j, sc := BitVec.ofNat 32 (n - j), tl := { k.dk.tl with z := z, st := st } }
    sa + n ≤ 0x8000 → k.dk.ep.toNat + 256 ≤ 0x8000 → CleanLocal k sa n → j ≤ n → (∀ i < j, Looks k svc (u i) (f i) ∧ ¬ hit i) →
      (j = n → ends true 0) ∧ (j < n → Looks k svc (u j) (f j) → hit j → ends false 0) ∧ (j < n → LookFaults k svc (u j) → ends true 6)

/-- What moves, translations, scans and compares do (R161 to R170).
Choices of the model on which clauses of it rest: notes/assumptions 32, 168. -/
def Obligations.MoveAndCompareStrings : Prop :=
  Claims.MoveString ∧ Claims.MovePadded ∧ Claims.TranslateString ∧ Claims.ScanString ∧ Claims.CompareString

namespace Sys2Proof.Claims

/-- What a floating operation with word 0 w puts in flight beside its result (R205, R206): nothing when it raises no flag, else
the flags, with a trap request for those that FPC enables at issue. -/
def flagsInFlight (k : Core) (w : Nat) (flags : BitVec 5) (d : Nat) : List Flight :=
  let causes := flags &&& k.sys.fpen
  let req : FpReq := ⟨causes, k.pc, BitVec.ofNat 16 w, k.icount⟩
  if flags = 0#5 then [] else [⟨.fp flags (if causes = 0#5 then none else some req), d⟩]

/-- The same of a floating long op (R205). -/
def flagsAtDelivery (k : Core) (w : Nat) (flags : BitVec 5) : FpRaise :=
  let causes := flags &&& k.sys.fpen
  ⟨flags, if causes = 0#5 then none else some ⟨causes, k.pc, BitVec.ofNat 16 w, k.icount⟩⟩

/-- FL after a comparison (R202): less, equal, greater or unordered. -/
def orderFlags (f : Flags) (r : Option Ordering) : Flags :=
  { c := decide (r = some .eq ∨ r = some .gt), v := decide (r = none), z := decide (r = some .eq), n := decide (r = some .lt)
    dc := f.dc }

end Sys2Proof.Claims

/-! ### Floating point -/

/-- The binary64 instructions (R190, R193, R202, R205): the result of the operation on the operands at issue, rounded by BRM,
with distance 3, or as a long op into L for FDIV and FSQRT; the flags come with the result; FCMP writes N, Z, C and V at
once and raises invalid for a signalling NaN. FL does not change otherwise. -/
def Sys2Proof.Claims.Binary64Instructions : Prop :=
  ∀ (s : State) (c : CoreId) (d a b : GReg) (l : LRegId) (k : Core), Issues s c 2 k →
    let x := bvalOf (k.gr a); let y := bvalOf (k.gr b); let rm := brmMode k.sys.brm
    let gives := fun (i : Instr) (w : Nat) (r : BRes) => Ends i s s c 2 k (toG d r.1 3 ++ flagsInFlight k w r.2 3)
    let brings := fun (i : Instr) (w : Nat) (r : BRes) => k.lBusy l = false → Ends i s s.stamped c 2
        { k with longs := k.longs
            ++ [⟨.l l, .calc, s.stamp, some s.entryNow, some (.l r.1 false), some (flagsAtDelivery k w r.2)⟩] } []
    gives (.fadd c d a b) 0x6000 (badd rm x y) ∧ gives (.fsub c d a b) 0x6001 (badd rm x y.negate)
    ∧ gives (.fmul c d a b) 0x6002 (bmul rm x y) ∧ gives (.fma c d a b) 0x6003 (bfma rm x y (bvalOf (k.gr d)))
    ∧ brings (.fdiv c l a b) 0x6004 (bdiv rm x y) ∧ brings (.fsqrt c l a) 0x6005 (bsqrt rm x)
    ∧ Ends (.fcmp c a b) s s c 2 { k with fl := orderFlags k.fl (bcmp x y) }
        (flagsInFlight k 0x6006 (if x = .snan ∨ y = .snan then fpI else 0) 0)
    ∧ gives (.fcvti c d a) 0x6007 (bcvti rm x) ∧ gives (.fcvtf c d a) 0x6008 (bcvtf rm (k.gr a))
    ∧ gives (.frint c d a) 0x6009 (brint rm x)

/-- binary64 results at their edges (R195, R199, R203): sums and products do not depend on the order of the operands; a
signalling NaN, and each invalid operation, gives the canonical NaN with invalid; a quiet NaN gives it with no flag; a finite
number divided by zero gives infinity with divide-by-zero. -/
def Sys2Proof.Claims.Binary64Edges : Prop :=
  (∀ (rm : RMode) (x y : BVal), badd rm x y = badd rm y x ∧ bmul rm x y = bmul rm y x)
  ∧ (∀ (rm : RMode) (x : BVal), badd rm .snan x = (bnan, fpI) ∧ bmul rm .snan x = (bnan, fpI) ∧ bdiv rm .snan x = (bnan, fpI)
      ∧ (x ≠ .snan → badd rm .qnan x = (bnan, 0) ∧ bmul rm .qnan x = (bnan, 0) ∧ bdiv rm .qnan x = (bnan, 0)))
  ∧ (∀ (rm : RMode) (a b : Bool) (m : Nat) (e : Int),
      badd rm (.inf a) (.inf !a) = (bnan, fpI) ∧ bmul rm (.inf a) (.fin b 0 e) = (bnan, fpI)
      ∧ bdiv rm (.inf a) (.inf b) = (bnan, fpI) ∧ bdiv rm (.fin a 0 e) (.fin b 0 e) = (bnan, fpI)
      ∧ (0 < m → bdiv rm (.fin a m e) (.fin b 0 e) = (binf (a != b), fpZ) ∧ bsqrt rm (.fin true m e) = (bnan, fpI)))

/-- The binary64 instructions, and their edges. -/
def Obligations.Binary64 : Prop := Claims.Binary64Instructions ∧ Claims.Binary64Edges

/-- The decimal128 instructions on accumulators that are valid sources and that no long op owns (R191, R192, R193, R202, R205):
the result of the operation, rounded by DRM, with distance 2, or as a long op for DQMUL, DQDIV and DQSQRT. Where the spec
leaves the exponent of a result open, it is the state's next free value, which is then drawn. -/
def Sys2Proof.Claims.Decimal128Instructions : Prop :=
  ∀ (s : State) (c : CoreId) (d a b : AReg) (k : Core) (x y : DVal), Issues s c 2 k → Free k [a, b, d] →
    (k.ac a).dval = some x → (k.ac b).dval = some y →
    let rm := drmMode k.sys.drm
    let after := fun (r : DRes) => if r.1.isOpen then s.drawn else s
    let gives := fun (i : Instr) (w : Nat) (r : DRes) =>
      Ends i s (after r) c 2 k ([⟨.a d (r.1.acc s.free), 2⟩] ++ flagsInFlight k w r.2 2)
    let brings := fun (i : Instr) (w : Nat) (r : DRes) => Ends i s (after r).stamped c 2
      { k with longs := k.longs ++
        [⟨.a d, .calc, s.stamp, some s.entryNow, some (.a1 (r.1.acc s.free)), some (flagsAtDelivery k w r.2)⟩] } []
    gives (.dqadd c d a b) 0x6100 (dqadd rm x y) ∧ gives (.dqsub c d a b) 0x6101 (dqadd rm x y.negate)
    ∧ brings (.dqmul c d a b) 0x6102 (dqmul rm x y) ∧ brings (.dqdiv c d a b) 0x6103 (dqdiv rm x y)
    ∧ brings (.dqsqrt c d a) 0x6104 (dqsqrt rm x)
    ∧ Ends (.dqcmp c a b) s s c 2 { k with fl := orderFlags k.fl (dqcmp x y) }
        (flagsInFlight k 0x6105 (if x = .snan ∨ y = .snan then fpI else 0) 0)
    ∧ Ends (.dqfix c d a) s s c 2 k ([⟨.a d (dqfix rm x).1, 2⟩] ++ flagsInFlight k 0x6106 (dqfix rm x).2 2)
    ∧ Ends (.dqflt c d a) s s c 2 k ([⟨.a d (dqflt (k.ac a) x).1, 2⟩] ++ flagsInFlight k 0x6107 (dqflt (k.ac a) x).2 2)
    ∧ gives (.dqrint c d a) 0x6108 (dqrint rm x) ∧ gives (.dqquant c d a b) 0x6109 (dqquant rm x y)

/-- DQLD and DQST (R188, R192, R201): DQLD decodes 8 local words with distance 2; DQST stores the encoding, every other local
word reading as before; and the encoding of a finite accumulator in range decodes to that accumulator. -/
def Sys2Proof.Claims.Decimal128Memory : Prop :=
  (∀ (s : State) (c : CoreId) (d : AReg) (a : GReg) (k : Core), Issues s c 2 k → Free k [d] →
    let ea : BitVec 40 := BitVec.ofNat 40 (k.gr a).toNat
    MayTouch k ea 8 →
    (CleanLocal k ea.toNat 8 → ∃ k1, OnlyLocal k k1 ∧ (∀ w, localView k1 w = localView k w)
      ∧ (let r := dpdDecode (localWords k ea.toNat 8) s.free
         Ends (.dqld c d a) s (if r.2 then s.drawn else s) c 2 k1 [⟨.a d r.1, 2⟩]))
    ∧ ((k.ac d).dval ≠ none → ∃ k1, OnlyLocal k k1 ∧ localWords k1 ea.toNat 8 = (dpdEncode (k.ac d)).1
      ∧ (∀ w, ¬ (ea.toNat ≤ w ∧ w < ea.toNat + 8) → localView k1 w = localView k w)
      ∧ Ends (.dqst c d a) s s c 2 k1 (flagsInFlight k 0x610B (if (dpdEncode (k.ac d)).2 then fpI else 0) 0)))
  ∧ (∀ (a : Acc) (free : W64), a.tag = 1#7 → bcdOk 34 a.dig.toNat = true → -6176 ≤ a.exp.toInt → a.exp.toInt ≤ 6111 →
      dpdEncode a = ((dpdEncode a).1, false) ∧ dpdDecode (dpdEncode a).1 free = (a, false))

/-- Decimal128, in accumulators and in memory (R191 to R205).
Choices of the model on which clauses of it rest: notes/assumptions 35, 165 (the flag of DQST at distance 0). -/
def Obligations.Decimal128 : Prop := Claims.Decimal128Instructions ∧ Claims.Decimal128Memory

namespace Sys2Proof.Claims

/-- The n words at pa, within one line, are of a region that has memory and are all readable as they are: no mark of an error
or of poison, check bytes that match, and no parity error on the stack's command bus (R213, R272, R406, R410). -/
def CleanMem (s : State) (pa n : Nat) : Prop :=
  pa % 32 + n ≤ 32 ∧
  ((regionOf s.part pa = .vat ∧ s.vatMark.get (vatLine pa) = 0#2)
  ∨ (regionOf s.part pa = .hbm ∧ s.hbm.parErr = 0#2 ∧ ∀ i < n, s.hbmEcc.get ((pa + i) / 16) = 0#32)
  ∨ (regionOf s.part pa = .jnl ∧ ∀ i < n, s.jnlMark.get ((pa + i - jnlBase) / 4) = 0#1))

/-- The request that o makes of a line has entered, at this age, and it is its turn there (R17, R223). -/
def ItsTurn (s : State) (c : CoreId) (o : LongOp) (pa : Nat) : Prop :=
  o.res = none ∧ ∃ e : Entry, o.entry = some e ∧ s.blocked (e.age (srcCore c) o.stamp) (lineOf pa) = false

/-- L register l of core c waits for this request of the device, whose turn it is at its line (R17, R223). -/
def Turn (s : State) (c : CoreId) (l : LRegId) (op : LOp) (pa : Nat) : Prop :=
  ∃ o, (s.core c).long? (.l l) = some o ∧ o.op = op ∧ ItsTurn s c o pa

/-- t is s with words written at pa, all of it clean, and with these frame tags: every mark of an error or of poison reads as it
did. -/
def Written (s t : State) (pa : Nat) (ws : List W16) (keys : Cells 8) : Prop :=
  t = { s with phys := s.phys.write pa ws, vatMark := t.vatMark, hbmEcc := t.hbmEcc, keys := keys }
  ∧ (∀ x, t.vatMark.get x = s.vatMark.get x) ∧ ∀ x, t.hbmEcc.get x = s.hbmEcc.get x

/-- The frame tags after a use of the frame of pa: a write makes its use state written, a read makes it at least read, and key,
guard and every other frame stand (R330). -/
def UsedFrame (s : State) (pa : Nat) (write : Bool) (keys : Cells 8) : Prop :=
  let f := pa / 4096
  (keyedFrame s.part f = false → keys = s.keys)
  ∧ (∀ g, g ≠ f → keys.get g = s.keys.get g)
  ∧ (keyedFrame s.part f = true → tagKey (keys.get f) = tagKey (s.keys.get f) ∧ tagGrd (keys.get f) = tagGrd (s.keys.get f)
      ∧ tagUse (keys.get f) = (if write then 2#2 else if tagUse (s.keys.get f) = 0#2 then 1#2 else tagUse (s.keys.get f)))

end Sys2Proof.Claims

/-! ### The Vat -/

/-- VLD, VST, VGET, VPUT, VCAS, FIND, DSWAP and SWAIT issue as long ops for L (R216 to R218, R230, R235, R305): with L free, the
address aligned and above the local region, and its translation and checks passed, the request is outstanding with the
operands read at issue: it enters the mesh now, but a VST with its store-buffer entry, a DSWAP once the core's earlier stores are
written, and any of them behind an earlier one of the core's to its line (R83, R223, R224); a DSWAP whose bucket does not exist
has its status 2 at once. An address in the local region raises local-placement, a misaligned one Vat-alignment.
Choices of the model on which clauses of it rest: notes/assumptions 41, 42, 43. -/
def Obligations.VatInstructions : Prop :=
  ∀ (s : State) (c : CoreId) (l : LRegId) (a b : GReg) (k : Core), Issues s c 2 k → k.lBusy l = false →
    let ga : BitVec 40 := BitVec.ofNat 40 (k.gr a).toNat; let gb : BitVec 40 := BitVec.ofNat 40 (k.gr b).toNat
    let asks := fun (i : Instr) (k1 : Core) (op : LOp) (sb : List SbEntry) (res : Option LRes) =>
      Ends i s s.stamped c 2 (withLong s { k1 with sbuf := k1.sbuf ++ sb } (.l l) op res) []
    (0x8000 ≤ ga.toNat →
      (ga.toNat % 4 = 0 →
        (∀ pa e k1, Translates k ga (wantRead [0#2, 1#2, 2#2, 3#2]) pa e k1 → asks (.vld c l a) k1 (.vld pa) [] none)
        ∧ (∀ pa e k1, Translates k ga (wantWrite [0#2, 1#2, 3#2]) pa e k1 →
            asks (.vst c l a b) k1 (.vst pa (k.gr b)) [.vst l] none)
        ∧ (∀ pa e k1 b', b.val % 2 = 0 → b'.val = b.val + 1 → Translates k ga (wantBoth [0#2, 1#2]) pa e k1 →
            asks (.vcas c l a b) k1 (.vcas pa (k.gr b) (k.gr b')) [] none))
      ∧ (ga.toNat % 32 = 0 → MayTouch k gb 32 →
        (∀ pa e k1, Translates k ga (wantRead [0#2, 1#2, 2#2]) pa e k1 →
          asks (.vget c l a b) k1 (.vget pa gb.toNat) [] none)
        ∧ (∀ pa e k1, Translates k ga (wantWrite [0#2, 1#2]) pa e k1 → CleanLocal k gb.toNat 32 →
          ∃ k2, asks (.vput c l a b) k2 (.vput pa (localWords k gb.toNat 32)) [] none ∧ OnlyLocal k1 k2
            ∧ ∀ w, localView k2 w = localView k w))
      ∧ (ga.toNat % 4 ≠ 0 → Raises (.vld c l a) s c k 0x07 ga ∧ Raises (.vst c l a b) s c k 0x07 ga)
      ∧ (ga.toNat % 32 ≠ 0 → Raises (.vget c l a b) s c k 0x07 ga ∧ Raises (.vput c l a b) s c k 0x07 ga))
    ∧ (ga.toNat < 0x8000 → Raises (.vld c l a) s c k 0x03 ga ∧ Raises (.vst c l a b) s c k 0x03 ga
        ∧ Raises (.vget c l a b) s c k 0x03 ga ∧ Raises (.vput c l a b) s c k 0x03 ga)
    ∧ asks (.find c l a) k (.find (k.gr a) k.dir none none false) [] none
    ∧ (k.sys.mode = true → MayTouch k ga 16 → CleanLocal k ga.toNat 16 →
        ∃ k2, OnlyLocal k k2 ∧ (∀ w, localView k2 w = localView k w)
          ∧ (let bk := (k.gr b).toNat / 4 % 2 ^ 18
             (k.dir.enabled = true → bk < k.dir.buckets → asks (.dswap c l a b) k2
                (.dswap (k.dir.bucketPa bk + 8 * ((k.gr b).toNat % 4)) (localWords k ga.toNat 16) ga.toNat) [] none)
             ∧ ((k.dir.enabled = false ∨ k.dir.buckets ≤ bk) → asks (.dswap c l a b) k2
                (.dswap 0 (localWords k ga.toNat 16) ga.toNat) [] (some (.slot 2#64 none)))))
    ∧ (let w : WinId := ⟨(k.gr a).toNat % 16, by omega⟩; let x := k.win[w]
       let y := if x.own then { x with own := false, inUse := x.inUse.filter (fun i => i != x.osl) } else x
       asks (.swait c l a) { k with win := k.win.set w y } (.swait w) [] (if x.en then none else some (.l 0x21#64 false)))

/-- POST (R237 to R239) on a descriptor of 20 clean words that passes its checks, with both legs translated for a write, in
normal or Vat memory and not overlapping: a posting with what the descriptor, the rights and the mode hold at issue is in
flight for L, and nothing has been read or locked; its request enters once the core's earlier stores are written (R224). A leg
below 0x8000 is no D-space address that translates (R310). -/
def Sys2Proof.Claims.PostIssue : Prop :=
  ∀ (s : State) (c : CoreId) (l : LRegId) (a : GReg) (k k2 k3 : Core) (paA paB : Nat) (ea eb : TlbEntry), Issues s c 2 k →
    k.lBusy l = false →
    let ga : BitVec 40 := BitVec.ofNat 40 (k.gr a).toNat
    MayTouch k ga 20 → CleanLocal k ga.toNat 20 → (∀ i < 20, k.locOne.get ((ga.toNat + i) / 4) = 0#1) →
    (∀ x ∈ k.sbuf, x.isLoc = false) →
    let ws := localWords k ga.toNat 20; let d := postDesc ws
    postBadWord ws = none → fieldBad ((ws.drop 8).take 4) = none →
    0x8000 ≤ (d.ra.setWidth 40 + BitVec.ofNat 40 d.oa).toNat → 0x8000 ≤ (d.rb.setWidth 40 + BitVec.ofNat 40 d.ob).toNat →
    Translates k (d.ra.setWidth 40 + BitVec.ofNat 40 d.oa) wantLeg paA ea k2 →
    Translates k2 (d.rb.setWidth 40 + BitVec.ofNat 40 d.ob) wantLeg paB eb k3 →
    (ea.mt = 0#2 ∨ ea.mt = 1#2) → (eb.mt = 0#2 ∨ eb.mt = 1#2) → runsMeet paA paB d.n = false →
      ∃ p : Posting, p.id = s.nextPost ∧ p.core = c ∧ p.l = l ∧ p.paA = paA ∧ p.paB = paB ∧ p.n = d.n ∧ p.od = d.od
        ∧ p.amt = (ws.drop 8).take 4 ∧ p.pid = (ws.drop 12).take 4 ∧ p.krr = k.sys.krr ∧ p.mode = k.sys.mode
        ∧ p.stamp = s.stamp ∧ p.phase = .issued ∧ p.entry = (if k.storesBefore s.stamp then some s.entryNow else none)
        ∧ p.wsLo = [] ∧ p.wsHi = [] ∧ p.bad = false
        ∧ Ends (.post c l a) s { s with posts := s.posts ++ [p], nextPost := s.nextPost + 1, stamp := s.stamp + 1 } c 2
            (withLong s k3 (.l l) (.post s.nextPost)) []

/-- The units serve a request when it is its turn at its line (R219, R220, R330), on memory that reads clean and with no HC_INJ
armed: VLD brings the quad, VGET the line, VST and VPUT write theirs and bring status 0, VCAS brings the old quad and writes
the new one only where the old was expected. A POP that reads two lines has a read of its own for each, and with both of them its
quad (R59, R78); the oldest part of a translated PUSH writes its words and is gone. Every other word of memory is as it was, and so
reads every mark: nothing else changes but the use state of the frame, and the request. A request of the core that waited for this
one enters (R223, R224). -/
def Sys2Proof.Claims.VatServes : Prop :=
  ∀ (s : State) (c : CoreId) (l : LRegId) (pa : Nat), s.hbm.injArm = false →
    let quad := s.phys.read pa 4
    (Turn s c l (.vld pa) pa → CleanMem s pa 4 →
      ∃ keys, UsedFrame s pa false keys
        ∧ exec (.vldServe c ⟨l, 0⟩) s = .next ((({ s with keys := keys }).serveL c l (.l (quadOf quad) false)).letIn c))
    ∧ (∀ dst, Turn s c l (.vget pa dst) pa → CleanMem s pa 32 →
      ∃ keys, UsedFrame s pa false keys
        ∧ exec (.vgetServe c l) s = .next ((({ s with keys := keys }).serveL c l (.line 0#64 (s.phys.read pa 32) [])).letIn c))
    ∧ (∀ v, Turn s c l (.vst pa v) pa → CleanMem s pa 4 → pa % 4 = 0 →
      ∃ keys t, UsedFrame s pa true keys ∧ Written s t pa (wordsOf v) keys
        ∧ exec (.vstServe c (.vst l)) s = .next ((t.serveL c l (.l 0#64 false)).letIn c))
    ∧ (∀ ws, ws.length = 32 → Turn s c l (.vput pa ws) pa → CleanMem s pa 32 →
      ∃ keys t, UsedFrame s pa true keys ∧ Written s t pa ws keys
        ∧ exec (.vputServe c l) s = .next ((t.serveL c l (.l 0#64 false)).letIn c))
    ∧ (∀ old new, Turn s c l (.vcas pa old new) pa → CleanMem s pa 4 → pa % 4 = 0 →
      ∃ keys t, UsedFrame s pa (quadOf quad == old) keys ∧ Written s t pa (if quadOf quad = old then wordsOf new else []) keys
        ∧ exec (.vcasServe c l) s = .next ((t.serveL c l (.l (quadOf quad) false)).letIn c))
    -- the parts of a POP and of a PUSH (R59, R78)
    ∧ (∀ pa0 n0 pa1 n1 w0 w1 o, (s.core c).long? (.l l) = some o → o.op = .pop pa0 n0 pa1 n1 w0 w1 false →
      let reads := fun (i : Fin 2) (pb n : Nat) => ItsTurn s c o pb → CleanMem s pb n →
        ∃ keys, UsedFrame s pb false keys ∧ exec (.vldServe c ⟨l, i⟩) s =
          .next ((({ s with keys := keys }).modCore c (fun k => k.popPart l i (s.phys.read pb n) false)).letIn c)
      (w0 = none → 0 < n0 → reads 0 pa0 n0) ∧ (w1 = none → 0 < n1 → reads 1 pa1 n1)
      ∧ ∀ x, let takes := fun (i : Fin 2) (op : LOp) (res : Option LRes) =>
          ((s.core c).popPart l i x false).long? (.l l) = some { o with op := op, res := res }
        takes 0 (.pop pa0 n0 pa1 n1 (some x) w1 false)
          (match w1 with
           | some y => some (.l (quadOf (x ++ y)) false)
           | none => if n1 = 0 then some (.l (quadOf x) false) else none)
        ∧ takes 1 (.pop pa0 n0 pa1 n1 w0 (some x) false) (w0.map (fun y => .l (quadOf (y ++ x)) false)))
    ∧ (∀ ws st e rest, (s.core c).pushq = ⟨pa, ws, st, some e⟩ :: rest → ws ≠ [] → ws.length ≤ 4 → CleanMem s pa ws.length →
      s.blocked (e.age (srcCore c) st) (lineOf pa) = false →
      ∃ keys t, UsedFrame s pa true keys ∧ Written s t pa ws keys
        ∧ exec (.vstServe c .push) s = .next ((t.modCore c (fun k => { k with pushq := rest })).letIn c))

/-- FIND and DSWAP at the directory (R231 to R236). FIND reads its two buckets, each by a service of its own: where both could be
read now, a free value says which is; with both it brings what they give, or 0xC000_0000_0000_0000 with no directory. DSWAP
compares the slot with block words 0 to 7, replaces it with words 8 to 15 only on a match, and brings the old slot with status 0
or 1. -/
def Sys2Proof.Claims.DirectoryServes : Prop :=
  (∀ (s : State) (c : CoreId) (l : LRegId) (o : LongOp) (e : Entry) (key : W64) (d : DirCfg) (w1 w2 : Option (List W16)) (b : Bool),
    (s.core c).long? (.l l) = some o → o.op = .find key d w1 w2 b → o.res = none → o.entry = some e →
    (d.enabled = false → s.spineRuns = true → exec (.findServe c l) s = .next (s.serveL c l (.l 0xC000000000000000#64 false)))
    ∧ (let p1 := d.bucketPa (d.choices key).1; let p2 := d.bucketPa (d.choices key).2
       let turn := fun (w : Option (List W16)) (pa : Nat) => w = none ∧ s.blocked (e.age (srcCore c) o.stamp) (lineOf pa) = false
       let reads := fun (t : State) (second : Bool) => exec (.findServe c l) s = .next (t.modCore c (fun k =>
         k.modLong (.l l) (fun o => o.findPart second (s.phys.read (if second then p2 else p1) 32) false)))
       d.enabled = true → CleanMem s p1 32 → CleanMem s p2 32 →
       (turn w1 p1 → turn w2 p2 → reads s.drawn (s.free.getLsbD 0))
       ∧ (turn w1 p1 → ¬ turn w2 p2 → reads s false) ∧ (¬ turn w1 p1 → turn w2 p2 → reads s true)
       ∧ (¬ turn w1 p1 → ¬ turn w2 p2 → exec (.findServe c l) s = .next s)))
  ∧ (∀ (o : LongOp) (key : W64) (d : DirCfg) (x y : List W16),
    let r := some (LRes.l (findResult key (d.choices key).1 (d.choices key).2 x y) false)
    (o.op = .find key d none none false →
      o.findPart false x false = { o with op := .find key d (some x) none false, res := none }
      ∧ o.findPart true y false = { o with op := .find key d none (some y) false, res := none })
    ∧ (o.op = .find key d none (some y) false →
        o.findPart false x false = { o with op := .find key d (some x) (some y) false, res := r })
    ∧ (o.op = .find key d (some x) none false →
        o.findPart true y false = { o with op := .find key d (some x) (some y) false, res := r }))
  ∧ (∀ (s : State) (c : CoreId) (l : LRegId) (pa addr : Nat) (block : List W16), s.hbm.injArm = false → block.length = 16 →
    Turn s c l (.dswap pa block addr) pa → CleanMem s (lineOf pa * 32) 32 → pa % 8 = 0 →
    let old := s.phys.read pa 8
    ∃ t, Written s t pa (if old = block.take 8 then block.drop 8 else []) s.keys
      ∧ exec (.dswapServe c l) s =
          .next ((t.serveL c l (.slot (if old = block.take 8 then 0#64 else 1#64) (some old))).letIn c))

/-- What the units do for VLD, VST, VGET, VPUT, VCAS, FIND and DSWAP, and what a POST comes to at issue.
Choices of the model on which clauses of it rest: notes/assumptions 14, 40, 41, 43, 44, 46. -/
def Obligations.VatAndDirectory : Prop := Claims.PostIssue ∧ Claims.VatServes ∧ Claims.DirectoryServes

/-- A posting moves money and makes none (R242, R243): where the closing unit closes it, the new balances are the old with the
amount taken from A and added to B, both are valid fields of the same length, and without overdraft A stays at or above its
limit. -/
def Obligations.PostingConservesMoney : Prop :=
  ∀ (p : Posting) (balA balB limit na nb : List W16), 1 ≤ p.n → p.n ≤ 8 → balA.length = p.n → balB.length = p.n →
    limit.length = p.n → postCompute p balA balB limit = .ok (na, nb) →
      (fieldVal na).toInt = (fieldVal balA).toInt - (fieldVal p.amt).toInt
      ∧ (fieldVal nb).toInt = (fieldVal balB).toInt + (fieldVal p.amt).toInt
      ∧ (p.od = false → (fieldVal limit).toInt ≤ (fieldVal na).toInt)
      ∧ fieldBad na = none ∧ fieldBad nb = none ∧ na.length = p.n ∧ nb.length = p.n

/-- The balances and the limit of a posting each lie within one line, the limit in the line of balance A (R237, R238). -/
def Sys2Proof.Claims.FitsLines (p : Posting) : Prop :=
  p.paA % 32 + p.n ≤ 32 ∧ p.paB % 32 + p.n ≤ 32 ∧ p.limit % 32 + p.n ≤ 32 ∧ p.limit / 32 = p.paA / 32

/-- A line reads clean, or, as a Vat line that is poisoned, as bad: neither counts nor changes anything (R213, R220). -/
def Sys2Proof.Claims.LineReads (s : State) (ln : Nat) (bad : Bool) : Prop :=
  (bad = false ∧ CleanMem s (ln * 32) 32)
  ∨ (bad = true ∧ regionOf s.part (ln * 32) = .vat ∧ s.vatMark.get (vatLine (ln * 32)) = 3#2)

/-- The events of a posting whose request has entered (R240 to R246): it locks and reads lo once its turn has come and a lock slot
is free, then hi when the legs lie in two lines; what it closes with is what it has read. A line that read bad gives 5, a key
check that fails 2, then the results of R242, then 4 when the journal is full; else it closes, and only the write of an HBM line
waits for the controller (R422). The unit of lo then writes, unlocks and delivers; the release unlocks hi. While postings are
stopped, the lock of lo delivers 0x7 instead (R262). -/
def Sys2Proof.Claims.PostingEvents : Prop :=
  ∀ (s : State) (id : Nat) (p : Posting), s.post? id = some p → s.spineRuns = true →
    (p.phase = .issued → p.entry ≠ none →
      (postingsStopped s = true → exec (.postLockLo id) s = .next ((postDeliver s p 7#4 0#64).dropPost id))
      ∧ (postingsStopped s = false → regionOf s.part p.paA ≠ .absent → regionOf s.part p.paB ≠ .absent → canLock s p p.lo = true →
        ∀ bad, Claims.LineReads s p.lo bad → exec (.postLockLo id) s = .next
          (({ s with locks := s.locks ++ [(p.lo, p.id)] }).stamped.setPost
            { p with phase := .lockedLo, entry := some s.entryNow, wsLo := s.phys.read (p.lo * 32) 32, bad := bad })))
    ∧ (p.phase = .lockedLo → p.twoLines = true → canLock s p p.hi = true → ∀ bad, Claims.LineReads s p.hi bad →
        exec (.postLockHi id) s = .next (({ s with locks := s.locks ++ [(p.hi, p.id)] }).setPost
          { p with phase := .lockedHi, wsHi := s.phys.read (p.hi * 32) 32, bad := p.bad || bad }))
    ∧ ((p.phase = .lockedHi ∨ (p.phase = .lockedLo ∧ p.twoLines = false)) →
        let refused := fun (r : BitVec 4) =>
          exec (.postClose id) s = .next ((touchLegs s p false).setPost { p with phase := .closed r 0#64 })
        (p.bad = true → refused 5#4)
        ∧ (p.bad = false → ∀ okA okB, legKey s p p.paA = (s, okA) → legKey s p p.paB = (s, okB) →
          ((okA = false ∨ okB = false) → refused 2#4)
          ∧ (okA = true → okB = true → Claims.FitsLines p → p.wsLo = s.phys.read (p.lo * 32) 32 →
            (p.twoLines = true → p.wsHi = s.phys.read (p.hi * 32) 32) →
            let result := postCompute p (s.phys.read p.paA p.n) (s.phys.read p.paB p.n) (s.phys.read p.limit p.n)
            (∀ na nb, result = .ok (na, nb) → s.jnl.held < 65536 →
              (p.twoLines = true → s.hbmShut (p.hi * 32) = true → exec (.postClose id) s = .next s)
              ∧ ((p.twoLines = true → s.hbmShut (p.hi * 32) = false) →
                let t := (appendEntry s (entryBody p)).1; let q := (appendEntry s (entryBody p)).2
                let p1 := { p with newA := na, newB := nb, phase := .closed 0#4 q }
                exec (.postClose id) s =
                  .next ((touchLegs (if p.twoLines then writeLegs t p1 p.hi else t) p true).setPost p1)))
            ∧ (∀ na nb, result = .ok (na, nb) → 65536 ≤ s.jnl.held → refused 4#4)
            ∧ (∀ r, result = .error r → refused r))))
    ∧ (∀ r q, p.phase = .closed r q → (r = 0#4 → s.hbmShut (p.lo * 32) = false) →
        let w := if r = 0#4 then writeLegs s p p.lo else s
        let d := postDeliver { w with locks := w.locks.filter (fun x => !(x.1 == p.lo && x.2 == p.id)) } p r q
        exec (.postWriteLo id) s = .next (if p.twoLines then d.setPost { p with phase := .released } else d.dropPost id))
    ∧ (p.phase = .released → exec (.postReleaseHi id) s =
        .next ({ s with locks := s.locks.filter (fun x => !(x.1 == p.hi && x.2 == p.id)) }.dropPost id))

/-- A long op whose result is known delivers it (R74, R205, R220, R235, R305): its destination takes the value and is free, the
flags of a floating one reach SF and its trap request is due; VGET writes its 32 words and DSWAP its old slot to local
memory, after older stores; SWAIT takes its window's oldest record, with the slot that it names. -/
def Sys2Proof.Claims.Deliveries : Prop :=
  ∀ (s : State) (c : CoreId) (o : LongOp) (l : LRegId),
    let k := s.core c
    s.spineRuns = true → k.discards = false → k.ctl.gated = false →
    let sf := k.sys.fpsf ||| (match o.fp with | some r => r.flags | none => 0#5)
    let due := k.fpDue ++ (match o.fp with | some r => r.req.toList | none => [])
    ((∀ x md ia svc st run, o.op ≠ .dsu x md ia svc st run) →
      (∀ v p, k.long? (.l l) = some o → o.res = some (.l v p) → exec (.longOpDeliver c (.l l)) s = .next (s.setCore c { k with
        l := k.l.set l ⟨v, p⟩, longs := k.longs.filter (fun o => o.dest != .l l), sys := { k.sys with fpsf := sf }, fpDue := due }))
      ∧ (∀ n v, k.long? (.a n) = some o → o.res = some (.a1 v) → exec (.longOpDeliver c (.a n)) s = .next (s.setCore c { k with
        a := k.a.set n v, longs := k.longs.filter (fun o => o.dest != .a n), sys := { k.sys with fpsf := sf }, fpDue := due }))
      ∧ (∀ n hi lo, k.long? (.a n) = some o → o.res = some (.a2 hi lo) →
        exec (.longOpDeliver c (.a n)) s = .next (s.setCore c { k with
          a := (k.a.set n hi).set (nextAcc n) lo, longs := k.longs.filter (fun o => o.dest != .a n)
          sys := { k.sys with fpsf := sf }, fpDue := due })))
    ∧ (∀ pa dst st ws, k.long? (.l l) = some o → o.op = .vget pa dst → o.res = some (.line st ws []) → ws.length = 32 → dst + 32 ≤ 0x8000 →
      ∃ k1, exec (.vgetDeliver c l) s = .next (s.setCore c k1)
        ∧ k1 = { k with l := k.l.set l ⟨st, false⟩, longs := k.longs.filter (fun o => o.dest != .l l), sbuf := k1.sbuf,
                        loc := k1.loc, locBad := k1.locBad, locOne := k1.locOne }
        ∧ (∀ i < 32, localView k1 (dst + i) = ws.getD i 0)
        ∧ ∀ w, ¬ (dst ≤ w ∧ w < dst + 32) → localView k1 w = localView k w)
    ∧ (∀ pa block addr st old, k.long? (.l l) = some o → o.op = .dswap pa block addr → o.res = some (.slot st (some old)) →
      old.length = 8 →
      ∃ k1, exec (.dswapDeliver c l) s = .next (s.setCore c k1)
        ∧ k1 = { k with l := k.l.set l ⟨st, false⟩, longs := k.longs.filter (fun o => o.dest != .l l), sbuf := k1.sbuf,
                        loc := k1.loc, locBad := k1.locBad, locOne := k1.locOne }
        ∧ (∀ i < 8, localView k1 (addr + i) = old.getD i 0)
        ∧ ∀ w, ¬ (addr ≤ w ∧ w < addr + 8) → localView k1 w = localView k w)
    ∧ (∀ (w : WinId) v rest, k.firstSwait w = some o → o.dest = .l l → o.res = none → k.win[w].queue = v :: rest →
      let x := k.win[w]; let slot : BitVec 4 := BitVec.ofNat 4 (v.toNat / 2 ^ 8)
      let y := if slot = 0xF#4 then { x with queue := rest } else { x with
        queue := rest, own := true, osl := slot, inUse := if x.own then x.inUse.filter (fun i => i != x.osl) else x.inUse }
      exec (.swaitDeliver c w) s = .next (s.setCore c { k with
        win := k.win.set w y, l := k.l.set l ⟨v, false⟩, longs := k.longs.filter (fun o => o.dest != .l l) }))

/-- How postings go on and how long ops deliver (R74, R222, R237 to R250, R305, R306).
Choices of the model on which clauses of it rest: notes/assumptions 42, 44, 67, 162 (the words of a VGET stand over every store
that waits in the buffer), 188 (the source of the request for hi) and 209 (the slot that a second SWAIT releases). -/
def Obligations.PostingAndDelivery : Prop := Claims.PostingEvents ∧ Claims.Deliveries

namespace Sys2Proof.Claims

/-- Entry idx of the table in frame t is e: the frame may hold tables, the core's read of it need not wait, and no error is marked
on it (R17, R318). -/
def TableEntry (s : State) (c : CoreId) (t : BitVec 24) (idx : Nat) (e : W64) : Prop :=
  let pa := t.toNat * 4096 + 4 * idx
  tableFrame s.part t = true ∧ CleanMem s pa 4 ∧ s.mustWait (srcCore c) pa = false ∧ e = quadOf (s.phys.read pa 4)

/-- e points at the table in frame t (R317). -/
def Points (e : W64) (t : BitVec 24) : Prop :=
  e.getLsbD 0 = true ∧ e.getLsbD 1 = false ∧ t = BitVec.ofNat 24 (e.toNat / 2 ^ 16)

/-- e is a valid leaf: its frame lies in the region of its memory type, and the frame's key can be read (R317, R318, R333). -/
def IsLeaf (s : State) (e : W64) (f : BitVec 24) : Prop :=
  e.getLsbD 0 = true ∧ e.getLsbD 1 = true ∧ e.toNat / 2 ^ 9 % 16 ≤ 9 ∧ f = BitVec.ofNat 24 (e.toNat / 2 ^ 16)
  ∧ regionOf s.part (f.toNat * 4096) = regionOfMt (BitVec.ofNat 2 (e.toNat / 2 ^ 7)) ∧ keyBad s f.toNat = false

/-- Core c's next instruction waits for the walk of va, and no walk has been kept of its path (R318). -/
def WalkDue (s : State) (c : CoreId) (kind : WalkKind) (va : BitVec 40) : Prop :=
  s.runs c = true ∧ (s.core c).ctl.need = some (kind, va) ∧ (s.core c).ctl.walkBg = none ∧ (s.core c).wcache = []
  ∧ tlbFind ((s.core c).tlbOf kind) (s.core c).cxt.tag (vpnOf va) = none

/-- What the ALU of a nano-word makes of A and B (R383). -/
def NanoResult (alu : Nat) (a b r : W64) : Prop :=
  (alu = 0x00 ∧ r = a) ∨ (alu = 0x01 ∧ r = a + b) ∨ (alu = 0x02 ∧ r = a - b) ∨ (alu = 0x05 ∧ r = a &&& b)
  ∨ (alu = 0x06 ∧ r = a ||| b) ∨ (alu = 0x07 ∧ r = a ^^^ b) ∨ (alu = 0x08 ∧ r = a &&& ~~~b) ∨ (alu = 0x0D ∧ r = a * b)
  ∨ (alu = 0x10 ∧ r = b)

/-- The bits of these device ports that read as they were written (R229, R262, R284, R316, R354, R417, R451, R459, R470, R504,
R535, R539). -/
def heldDevice : Port → W64
  | .intRoute _ _ => 0x1FFF#64
  | .cxt _ => 0x1FFFFFFFFF#64
  | .se _ n => if n.val = 0 then 0x1B#64 else if n.val = 4 ∨ n.val = 7 then 0xFFFFFFFF#64 else if n.val = 8 then 0xFFF#64 else 0#64
  | .dirCfg => 0xFFFFFF#64
  | .dirSeed1 => 0xFFFFFFFFFFFFFFFF#64
  | .dirSeed2 => 0xFFFFFFFFFFFFFFFF#64
  | .jnl n => if n.val = 7 then 0x1F0FFFFFFFFF#64 else if n.val = 8 then 0xFFFFFFFFFFFFF000#64 else if n.val = 9 then 0x1F#64 else 0#64
  | .hc n => if n.val = 0 then 0x3#64 else if n.val = 3 then 0xFF#64 else if n.val = 6 then 0xFFFF#64
    else if n.val = 7 then 0x7FFFFFFFFF#64 else 0#64
  | .hcEc _ => 0xFFFFFFFFFFFF#64
  | .ring n => if n.val = 2 then 0xFFF1F#64 else 0#64
  | .rp _ n => if n.val = 1 then 0xFFFFFFFFFFFFFFFF#64 else 0#64
  | .hi n => if n.val = 0 then 0x1#64 else if n.val = 3 then 0x3FFF#64 else 0#64
  | .cq _ n => if n.val ≤ 1 then 0xFFFFFFFFFFFFF000#64 else if n.val = 3 then 0x1FFFFFFFFF#64
    else if n.val = 4 then 0xFFFFFFFFFFFFFFFF#64 else if n.val = 5 then 0xFFFFFF#64 else 0#64
  | .clkCfg => 0x7#64
  | .thmCfg => 0xFF#64
  | .ioCfg => 0xF#64
  | _ => 0#64

end Sys2Proof.Claims

/-! ### A core's memory events, device requests and customer instructions -/

/-- What letIn does (R17, R83, R223, R224): the requests of the core that may enter the mesh have now entered it, its POSTs among
them once its earlier stores are written, and nothing else changes. -/
def Sys2Proof.Claims.LetsIn : Prop :=
  ∀ (s : State) (c : CoreId), let k := s.core c
    ∃ (f : LongOp → LongOp) (g : PushReq → PushReq) (h : Posting → Posting),
      s.letIn c = { (s.setCore c { k with longs := k.longs.map f, pushq := k.pushq.map g }).stamped with posts := s.posts.map h }
      ∧ (∀ o, f o = o ∨ (o.entry = none ∧ f o = { o with entry := some s.entryNow }))
      ∧ (∀ q, g q = q ∨ (q.entry = none ∧ g q = { q with entry := some s.entryNow }))
      ∧ (∀ p, h p = p ∨ (p.core = c ∧ p.entry = none ∧ h p = { p with entry := some s.entryNow }))
      ∧ (∀ o ∈ k.longs, o.entry = none → k.mayEnter s.part o = true → f o = { o with entry := some s.entryNow })
      ∧ (∀ q ∈ k.pushq, q.entry = none → k.pushMayEnter s.part q = true → g q = { q with entry := some s.entryNow })
      ∧ (∀ p ∈ s.posts, p.core = c → p.entry = none → k.storesBefore p.stamp = true → h p = { p with entry := some s.entryNow })

/-- STORE_BUFFER_DRAIN (R82, R83): an entry for translated D-space leaves the buffer first, past older local ones: a VST joins the
mesh queue, a part of a PUSH joins its partition, and what may enter the mesh does so in this cycle; with none, the oldest local
entry is written and no local word reads otherwise; nothing else changes. While the spine is off the buffer stands (R19). -/
def Sys2Proof.Claims.Drains : Prop :=
  ∀ (s : State) (c : CoreId) (before rest : List SbEntry),
    let k := s.core c; let o := exec (.storeBufferDrain c) s
    (s.spineRuns = false → o = .next s) ∧ (s.spineRuns = true →
    (∀ a ws, k.sbuf = .loc a ws :: rest → (∀ e ∈ rest, e.isLoc = true) → ∃ k1, o = .next (s.setCore c k1) ∧ k1.sbuf = rest
      ∧ OnlyLocal k k1 ∧ ∀ x, localView k1 x = localView k x)
    ∧ ((∀ e ∈ before, e.isLoc = true) →
      (∀ l, k.sbuf = before ++ .vst l :: rest → o = .next ((s.setCore c { k with sbuf := before ++ rest }).letIn c))
      ∧ (∀ pa ws st, k.sbuf = before ++ .push pa ws st :: rest →
        o = .next ((s.setCore c { k with sbuf := before ++ rest, pushq := k.pushq ++ [⟨pa, ws, st, none⟩] }).letIn c))))

/-- TLB_WALK (R317 to R319): three table reads from the core's root, whose entries point on and end in a valid leaf, put into
the TLB an entry with the leaf's fields, the core's tag and the frame's key, and the tables found into the walk cache; with
V = 0, or an entry that is not valid at its level, 1, 2 or 3, the access raises translation with that level in X, and nothing is
installed but the tables found before it; a root that lies in no table region raises placement. -/
def Sys2Proof.Claims.Walks : Prop :=
  ∀ (s : State) (c : CoreId) (kind : WalkKind) (va : BitVec 40), WalkDue s c kind va →
    let k := s.core c; let o := exec (.tlbWalk c kind va) s
    let got := fun (t : State) => t.gotTask (srcCore c) (.walk kind)
    let i1 := va.toNat / 2 ^ 32; let i2 := va.toNat / 2 ^ 22 % 1024; let i3 := va.toNat / 2 ^ 12 % 1024
    (∀ e1 t1 e2 t2 e3 f, k.cxt.v = true → TableEntry s c k.cxt.root i1 e1 → Points e1 t1 → TableEntry s c t1 i2 e2 → Points e2 t2 →
      TableEntry s c t2 i3 e3 → IsLeaf s e3 f → ∃ (e : TlbEntry) (w : List WalkEntry),
        (let k1 := { k with wcache := w, ctl := { k.ctl with need := none } }
         o = .next ((got s.stamped).setCore c (if kind = .data then { k1 with dtlb := tlbFill 64 k.dtlb e }
           else { k1 with itlb := tlbFill 32 k.itlb e })))
        ∧ e = { vpn := vpnOf va, cont := e3.toNat / 2 ^ 9 % 16, frame := f, r := e3.getLsbD 2, w := e3.getLsbD 3
                x := e3.getLsbD 4, u := e3.getLsbD 5, g := e3.getLsbD 6, mt := BitVec.ofNat 2 (e3.toNat / 2 ^ 7)
                tag := k.cxt.tag, key := BitVec.ofNat 4 (s.keys.get f.toNat).toNat
                grd := BitVec.ofNat 2 ((s.keys.get f.toNat).toNat / 16), locked := false, fill := s.stamp }
        ∧ w = [⟨k.cxt.tag, 2, va.toNat / 2 ^ 22, t2⟩, ⟨k.cxt.tag, 1, i1, t1⟩])
    ∧ (s.canTake c = true →
        let raises := fun (lvl : BitVec 2) (w : List WalkEntry) => o = .next ((got s).setCore c
          ({ k with wcache := w }.enterPrecise (if kind = WalkKind.fetch then 0x08#8 else 0x09#8) va lvl))
        let w1 := fun (t1 : BitVec 24) => [(⟨k.cxt.tag, 1, i1, t1⟩ : WalkEntry)]
        let table := fun (e : W64) => e.getLsbD 0 = true ∧ e.getLsbD 1 = false
        (k.cxt.v = false → raises 1 [])
        ∧ (k.cxt.v = true → tableFrame s.part k.cxt.root = false → o = .next ((got s).setCore c
            (k.enterPrecise (if kind = WalkKind.fetch then 0x0A#8 else 0x0B#8) va 1)))
        ∧ (∀ e1, k.cxt.v = true → TableEntry s c k.cxt.root i1 e1 →
          (¬ table e1 → raises 1 [])
          ∧ ∀ t1 e2, Points e1 t1 → TableEntry s c t1 i2 e2 →
            (¬ table e2 → raises 2 (w1 t1))
            ∧ ∀ t2 e3, Points e2 t2 → TableEntry s c t2 i3 e3 →
              (e3.getLsbD 0 = false ∨ e3.getLsbD 1 = false ∨ 9 < e3.toNat / 2 ^ 9 % 16
                ∨ regionOf s.part ((e3.toNat / 2 ^ 16 % 2 ^ 24) * 4096) ≠ regionOfMt (BitVec.ofNat 2 (e3.toNat / 2 ^ 7))) →
              raises 3 (⟨k.cxt.tag, 2, va.toNat / 2 ^ 22, t2⟩ :: w1 t1)))

/-- ICACHE_FILL (R94, R98, R330): a line of normal memory that passes the checks of a fetch and is not cached comes in as the
most recently used of at most 4 of its set; the frame's use state becomes at least read, and nothing else changes. -/
def Sys2Proof.Claims.CacheFill : Prop :=
  ∀ (s : State) (c : CoreId) (a : BitVec 32) (pa : Nat) (e : TlbEntry),
    let k := s.core c
    s.runs c = true → 0x2000 ≤ a.toNat →
    translate k.itlb k.cxt.tag k.sys.mode k.sys.krr (BitVec.ofNat 40 a.toNat) fetchWant = .ok pa e → s.mustWait (srcCore c) pa = false →
    CleanMem s (pa / 32 * 32) 32 → (∀ x ∈ k.icache, ¬ (x.set = a.toNat / 32 % 192 ∧ x.line = pa / 32)) →
    ∃ keys ic, UsedFrame s pa false keys ∧ exec (.icacheFill c a) s = .next (({ s with keys := keys }.gotTask (srcCore c) .fill).setCore c { k with icache := ic })
      ∧ ic.head? = some ⟨a.toNat / 32 % 192, pa / 32, s.phys.read (pa / 32 * 32) 32, []⟩
      ∧ (ic.filter (fun x => x.set == a.toNat / 32 % 192)).length ≤ 4
      ∧ ic.filter (fun x => x.set != a.toNat / 32 % 192) = k.icache.filter (fun x => x.set != a.toNat / 32 % 192)

/-- The drain, the walk and the fill (R82, R83, R94, R98, R317 to R319). -/
def Sys2Proof.Claims.CoreMemoryEvents : Prop := Claims.LetsIn ∧ Claims.Drains ∧ Claims.Walks ∧ Claims.CacheFill

/-- Device ports (R17, R77, R561, R562): the block serves the accesses of every source in age order; the served IN will bring the value
that the port reads, or all ones from a failed warden's block, which is logged; the accepted OUT writes the port, or is only logged
there, and its entry leaves the queue; an unassigned port reads 0 and ignores a write; and the fields of heldDevice read as they were written. -/
def Sys2Proof.Claims.DeviceRequests : Prop :=
  (∀ (s : State) (c : CoreId) (l : LRegId) (o : LongOp) (p : BitVec 24),
    (s.core c).long? (.l l) = some o → o.op = .devIn p → o.res = none → s.spineRuns = true →
    (∃ e : Entry, o.entry = some e ∧ olderAccess s (e.age (srcCore c) o.stamp) (blockOf p.toNat) = false) →
    let brings := fun (t : State) (v : W64) => exec (.deviceInServe c l) s =
      .next (t.modCore c (fun k => k.modLong (.l l) (fun o => { o with res := some (.l v false) })))
    (∀ r, failedBlock s p.toNat = none → devPort p.toNat = some r → brings s (r.read s))
    ∧ (failedBlock s p.toNat = none → devPort p.toNat = none → brings s 0#64)
    ∧ (∀ q, failedBlock s p.toNat = some q →
        brings (logEvent s .failedWardenAccess (BitVec.ofNat 16 q.val)) 0xFFFFFFFFFFFFFFFF#64))
  ∧ (∀ (s : State) (c : CoreId) (x : OutReq) (rest : List OutReq),
    (s.core c).outq = x :: rest → s.spineRuns = true → olderOwn s (x.entry.age (srcCore c) x.stamp) (.core c) = false →
    olderAccess s (x.entry.age (srcCore c) x.stamp) (blockOf x.port.toNat) = false →
    let accepts := fun (t : State) => exec (.deviceOutAccept c) s =
      .next (t.modCore c (fun k => { k with outq := k.outq.tail }))
    (∀ r, failedBlock s x.port.toNat = none → devPort x.port.toNat = some r → accepts (r.write s (.core c) x.val))
    ∧ (failedBlock s x.port.toNat = none → devPort x.port.toNat = none → accepts s)
    ∧ (∀ q, failedBlock s x.port.toNat = some q → accepts (logEvent s .failedWardenAccess (BitVec.ofNat 16 q.val))))
  ∧ (∀ (s : State) (who : Accessor) (v : W64) (r : Port),
    (r.read (r.write s who v)) &&& heldDevice r = v &&& heldDevice r)

/-- A customer instruction (R377 to R383) of the two-word layout of three registers, dispatched to one microword that ends it: it
writes Gd with A op B of its nano-word, a product with distance 2 and the rest at once; FLW 0 leaves FL and FLW 1 changes N and Z
alone. An opcode with no entry is illegal, as is a set reserved bit; with PRIV the entry is privileged. A word that reads with wrong
parity, of the dispatch store, for the vendor's opcodes too, or of its microword or nano-word, stops the core for a reload, and
nothing of the instruction is done (R369, R392).
Choices of the model on which clauses of it rest: notes/assumptions 47, 48. -/
def Obligations.CustomerInstruction : Prop :=
  ∀ (s : State) (c : CoreId) (w0 w1 w2 : W16),
    let m := w0.toNat / 256; let g := (s.quire (coreQuire c)).image; let e := (g.entry m).toNat
    let i := Instr.customerInstruction c w0 w1 w2
    (∀ ws k, s.canIssue c = true → Fetches s c ws k → ¬ DispatchReads s c ws → ∀ j ∈ [Instr.nop c, .svc c 0, .lwait c],
      spells c k ws j = true → exec j s = .next (s.setCore c k.awaitReload))
    ∧ (0xE0 ≤ m → m ≤ 0xEF → (s.core c).micro = none →
    (∀ ws k, s.canIssue c = true → Fetches s c ws k → ¬ DispatchReads s c ws → spells c k ws i = true →
      exec i s = .next (s.setCore c k.awaitReload))
    ∧ (∀ k, Issues s c 1 k → e / 2 ^ 12 % 4 = 0 → Raises i s c k 0x01 (BitVec.ofNat 40 k.pc.toNat))
    ∧ (∀ k, e / 2 ^ 12 % 4 = 2 → e / 2 ^ 14 % 8 = 2 → Issues s c 2 k →
      (w1.getLsbD 0 = true → Raises i s c k 0x01 (BitVec.ofNat 40 k.pc.toNat))
      ∧ (w1.getLsbD 0 = false → e / 2 ^ 17 % 2 = 1 → k.sys.mode = false → Raises i s c k 0x02 0)
      ∧ (w1.getLsbD 0 = false → (e / 2 ^ 17 % 2 = 0 ∨ k.sys.mode = true) →
        let w := (g.micro.get (e % 2 ^ 12)).toNat
        let n := nanoOf (g.nano.get (w % 2 ^ 9))
        let good : Bool := g.parityOk 2 (e % 2 ^ 12) && g.parityOk 3 (w % 2 ^ 9)
        (good = false → AtPc s c i → exec i s = .next (s.setCore c
          { k with micro := some ⟨e % 2 ^ 12, 0, 0, 0, k.flights, [], 0⟩, flights := [] }.awaitReload))
        ∧ (good = true →
        let d : GReg := ⟨w1.toNat / 2 ^ 11, by omega⟩
        let a : GReg := ⟨w1.toNat / 2 ^ 6 % 32, by omega⟩
        let b : GReg := ⟨w1.toNat / 2 % 32, by omega⟩
        w / 2 ^ 21 = 4 → n.asel = 2 → n.bsel = 3 → n.dst = 1 → n.mem = 0 → n.long = 0 → n.dec = 0 → n.fp = 0 → n.port = 0 →
          ∀ r, NanoResult n.alu (k.gr a) (k.gr b) r →
            let own := toG d r (if n.alu = 0x0D then 2 else 0)
            (n.flw = 0 → Ends i s s c 2 k own)
            ∧ (n.flw = 1 → Ends i s s c 2 { k with fl := { k.fl with n := r.msb, z := r == 0#64 } } own)))))

/-- What happens to a core's stores, walks, fills and device requests (R77, R82, R83, R94, R98, R317 to R319, R561, R562).
Choices of the model on which clauses of it rest: notes/assumptions 15, 38, 39, 45, 217. -/
def Obligations.CoreMemoryAndDevices : Prop := Claims.CoreMemoryEvents ∧ Claims.DeviceRequests

namespace Sys2Proof.Claims

/-- What every entry does first: what was issued earlier has written (R72). -/
def written (k : Core) : Core := k.unmicro.settle

/-- k1 is core k after an entry to a cause through the X set (R345 to R348): what it saves, and nothing else of the core changed
but the pc, MODE and IE, and the trap requests of floating long ops in flight (R209). -/
def EntersX (k k1 : Core) (cause : BitVec 8) (xpc : BitVec 32) (xad : BitVec 40) (xtgt : Option (BitVec 32)) (xlp xrs : Bool) :
    Prop :=
  let b := written k
  k1 = { b with
    pc := b.sys.x.xvb + BitVec.ofNat 32 (cause.toNat * 16)
    branch := none
    micro := none
    ahead := []
    longs := b.longs.map (fun o => { o with fp := o.fp.map (fun r => { r with req := none }) })
    ctl := { b.ctl with stallSince := none, opStall := false, fbWait := false, need := none }
    sys := { b.sys with
      mode := true
      ie := false
      x := { xvb := b.sys.x.xvb, xpc := xpc, xfl := b.fl, xms := b.sys.ms
             xtgt := match xtgt with | some a => a | none => b.sys.x.xtgt
             cause := cause, xds := xtgt.isSome, xsh := k.unmicro.shadow, xlp := xlp, xrs := xrs, lvl := 0, xad := xad } } }

/-- k1 is core k, with the return stack rs, after an entry for a machine check through the M set (R366); decimal and floating
requests are discarded (R364). -/
def EntersM (k k1 : Core) (cause : BitVec 8) (lvl : BitVec 2) (mpc : BitVec 32) (mms : BitVec 3) (rs : List (BitVec 32)) : Prop :=
  let b := written k
  k1 = { b with
    rs := rs
    pc := b.sys.x.xvb + BitVec.ofNat 32 (cause.toNat * 16)
    branch := none
    micro := none
    ahead := []
    ovf := none
    fpDue := []
    longs := b.longs.map (fun o => { o with fp := o.fp.map (fun r => { r with req := none }) })
    ctl := { b.ctl with stallSince := none, opStall := false, fbWait := false, need := none }
    sys := { b.sys with
      mode := true
      ie := false
      m := { mpc := mpc, mms := mms, cause := cause, lvl := lvl, mcip := true } } }

/-- The core executes and stands at a boundary at which R359 lets an event be taken, and no quiesce holds it there. -/
def AtEvent (s : State) (c : CoreId) : Prop :=
  s.runs c = true ∧ (s.core c).branch = none ∧ (s.core c).micro = none ∧ (s.core c).ctl.fbWait = false
  ∧ (s.quire (coreQuire c)).quiesced = false

/-- The oldest of some trap requests in issue order (R207). -/
def OldestReq (l : List FpReq) (r : FpReq) : Prop :=
  ∃ a b, l = a ++ r :: b ∧ (∀ x ∈ a, r.issue < x.issue) ∧ ∀ x ∈ b, r.issue ≤ x.issue

/-- The first enabled flag raised gives the cause of a floating trap (R206). -/
def TrapCause (f : BitVec 5) (cause : BitVec 8) : Prop :=
  (f.getLsbD 0 = true ∧ cause = 0x18) ∨ (f % 2 = 0 ∧ f.getLsbD 1 = true ∧ cause = 0x19)
  ∨ (f % 4 = 0 ∧ f.getLsbD 2 = true ∧ cause = 0x1A) ∨ (f % 8 = 0 ∧ f.getLsbD 3 = true ∧ cause = 0x1B) ∨ (f = 16 ∧ cause = 0x1C)

/-- t is s after core c has stopped for good and f has been reported (R372): nothing else of the core is lost, and no other core
changes. -/
def Stopped (s t : State) (c : CoreId) (f : FatalKind) : Prop :=
  let k := s.core c
  t.core c = { k with
    micro := none
    branch := none
    win := k.win.map (fun w => { w with en := false, queue := [], own := false, inUse := [] })
    longs := k.longs.filter (fun o => match o.op with | .swait _ => false | _ => true)
    ctl := { k.ctl with stallSince := none, opStall := false, fbWait := false, need := none, cks := true, run := false, reload := none } }
  ∧ (∀ d, d ≠ c → t.core d = s.core d)
  ∧ (t.quire (coreQuire c)).routes[45].pnd = true
  ∧ (0x07#8 ++ BitVec.ofNat 48 c.val) ∈ (t.quire (coreQuire c)).routes[45].msgs
  ∧ (∀ q, ShootTarget.core c ∉ (t.quire q).shoot.waiting)
  ∧ (∀ e r, (s.eng e).cur = some r → slotCore r.words = some c.val → r.ended = none → r.record = none →
      (t.eng e).cur = some { r with ended := some (0x18, 0) })
  ∧ (∀ n, ∀ u ∈ (t.qp n).subs, u.core ≠ c)
  ∧ f ∈ t.stw.faults ∧ t.stw.fat = true ∧ t.stw.alrt = true

end Sys2Proof.Claims

/-! ### Exceptions, traps, interrupts and machine checks -/

/-- EXCEPTION_ENTRY (R102, R208, R343 to R348): the fetch at the pc gives a fetch cause with the address that failed, words that
spell no instruction give illegal instruction with XAD = the pc, and a cause that the instruction itself raises is entered as its
meaning (runInstr) enters it. A delay slot saves its branch's target, and XLP says that the loop end of this instruction has not
occurred; outside a slot the oldest floating request in flight is reported first, as a floating trap in place of the cause. -/
def Sys2Proof.Claims.PreciseEntry : Prop :=
  ∀ (s : State) (c : CoreId) (x : PreciseCause) (xad : BitVec 40), s.canIssue c = true →
    let enters := fun (k : Core) =>
      let gives := fun (k1 : Core) => exec (.exceptionEntry c x xad 0) s = .next (s.setCore c k1)
      (∀ b, k.branch = some b → ∃ k1, gives k1 ∧ EntersX k k1 (preciseCode x) k.pc xad (some b.target) false false)
      ∧ (k.branch = none → (written k).fpDue = [] → ∃ k1, gives k1
          ∧ EntersX k k1 (preciseCode x) k.pc xad none (decide (k.pc = k.loop.le ∧ k.loop.lc ≠ 0)) false)
      ∧ (∀ r cause, k.branch = none → OldestReq (written k).fpDue r → TrapCause r.causes cause → ∃ k1,
          gives { k1 with fpDue := [], sys := { k1.sys with fop := r.word0 } }
          ∧ EntersX k k1 cause k.pc (BitVec.ofNat 40 r.addr.toNat) none false false)
    (∀ a code, fetchInstr (s.quire (coreQuire c)).image (s.core c) (s.core c).pc = .stop a (.exc code) → code = preciseCode x →
      xad = BitVec.ofNat 40 a.toNat → enters (s.core c))
    ∧ (∀ ws k, Fetches s c ws k → decodeWords c ws = none → x = .illegal → xad = BitVec.ofNat 40 k.pc.toNat → enters k)
    ∧ (∀ ws k i t lvl, Fetches s c ws k → decodeWords c ws = some i → runInstr i s = .next t →
        enteredX s t c (preciseCode x) xad lvl = true → exec (.exceptionEntry c x xad lvl) s = .next t)

/-- DECIMAL_OVERFLOW_TRAP (R151, R364): at the boundary after the instruction, in either mode, with XPC the next instruction and
XAD the address of the one that overflowed; floating requests are discarded. -/
def Sys2Proof.Claims.OverflowTrap : Prop :=
  ∀ (s : State) (c : CoreId) (a : BitVec 32), AtEvent s c → (s.core c).ctl.asyncMc = [] → (s.core c).ovf = some a →
    ∃ k1, exec (.decimalOverflowTrap c) s = .next (s.setCore c { k1 with ovf := none, fpDue := [] })
      ∧ EntersX (s.core c) k1 0x15 (s.core c).pc (BitVec.ofNat 40 a.toNat) none false false

/-- FLOATING_TRAP (R206, R207): one trap for the oldest request, with its cause, its address in XAD and its word 0 in FPC.FOP; the
others are discarded. -/
def Sys2Proof.Claims.FloatTrap : Prop :=
  ∀ (s : State) (c : CoreId) (r : FpReq) (cause : BitVec 8), AtEvent s c → (s.core c).ctl.asyncMc = [] → (s.core c).ovf = none →
    (s.core c).fpDue ≠ [] → OldestReq (written (s.core c)).fpDue r → TrapCause r.causes cause →
    ∃ k1, exec (.floatingTrap c) s = .next (s.setCore c { k1 with fpDue := [], sys := { k1.sys with fop := r.word0 } })
      ∧ EntersX (s.core c) k1 cause (s.core c).pc (BitVec.ofNat 40 r.addr.toNat) none false false

/-- INTERRUPT_ENTRY (R348, R358, R359): with IE = 1 and the highest pending level at or above IPL.MIN, the cause is 0x20 plus that
level, the source stays pending, and XRS says that a DSU instruction is outstanding, which is stopped; a walk that the
instruction waited for goes on in the background. -/
def Sys2Proof.Claims.InterruptTaken : Prop :=
  ∀ (s : State) (c : CoreId) (x : Src),
    let k := s.core c
    AtEvent s c → k.ctl.asyncMc = [] → k.ovf = none → (written k).fpDue = [] → k.fpDue = [] →
    Highest (pendingSrcs s c) x → k.sys.ie = true → k.irq.ipl.toNat ≤ x.lvl.toNat →
    ∃ k1, exec (.interruptEntry c) s = .next (s.setCore c (if k.dsuBusy then k1.stopDsu else k1))
      ∧ EntersX { k with ctl := { k.ctl with walkBg := match k.ctl.need with | some w => some w | none => k.ctl.walkBg } } k1
          (BitVec.ofNat 8 (0x20 + x.lvl.toNat)) k.pc 0 none (decide (k.pc = k.loop.le ∧ k.loop.lc ≠ 0)) k.dsuBusy

/-- The entries through the X set, each where no event that R364 puts before it is due (R102, R151, R206 to R208, R343 to R348,
R358).
Choices of the model on which clauses of it rest: notes/assumptions 36. -/
def Obligations.EntriesThroughX : Prop :=
  Claims.PreciseEntry ∧ Claims.OverflowTrap ∧ Claims.FloatTrap ∧ Claims.InterruptTaken

/-- Machine checks with MCIP = 0 (R365 to R367, R369, R370). A synchronous one saves the address of the instruction, or in a delay
slot undoes its branch and saves that, with the MS of an XRET whose slot it is; an asynchronous one waits for a boundary and
saves the next instruction; a core-state error is taken at a boundary as well, and waits for one; each is logged. A control-store parity error stops the core until its reload, which then takes
cause 0x33, or checkstops the core when the image does not verify; one of a DSU word delivers the DSU instruction first, and its
cause is taken at a boundary after the reload.
Choices of the model on which clauses of it rest: notes/assumptions 52, 53, 202. -/
def Obligations.MachineChecks : Prop :=
  ∀ (s : State) (c : CoreId),
    let k := s.core c
    let logged := fun (t : State) (k1 : Core) => logEvent (t.setCore c k1) .machineCheck (BitVec.ofNat 16 c.val)
    k.sys.m.mcip = false →
    (∀ (m : MCause) (code : BitVec 8), s.canTake c = true → m ∉ k.ctl.asyncMc →
      (m = .localData ∧ code = 0x30 ∨ m = .poisonedData ∧ code = 0x31 ∨ m = .instr ∧ code = 0x34) →
      (k.branch = none → ∃ k1, exec (.machineCheck c m) s = .next (logged s k1)
        ∧ EntersM k k1 code 0 k.pc (written k).sys.ms k.rs)
      ∧ (∀ b, k.branch = some b → ∃ k1, exec (.machineCheck c m) s = .next (logged s k1)
        ∧ EntersM k k1 code 0 b.pc
            (match b.xretMs with
             | some (mode, ie) => BitVec.ofBool k.sys.pred ++ BitVec.ofBool ie ++ BitVec.ofBool mode
             | none => (written k).sys.ms)
            (match b.undo with | .none => k.rs | .pushed => k.rs.tail | .popped v => v :: k.rs)))
    ∧ (∀ m, AtEvent s c → m ∈ k.ctl.asyncMc → ∃ k1, exec (.machineCheck c m) s = .next (logged s k1)
        ∧ EntersM { k with ctl := { k.ctl with asyncMc := k.ctl.asyncMc.erase m } } k1 (mcauseCode m) 0 k.pc (written k).sys.ms k.rs)
    ∧ (.coreState ∉ k.ctl.asyncMc →
        (s.runs c = true → k.branch = none → k.micro = none → k.ctl.fbWait = false →
          ∃ k1, exec (.machineCheck c .coreState) s = .next (logged s k1) ∧ EntersM k k1 0x35 0 k.pc (written k).sys.ms k.rs)
        ∧ (s.interruptible c = false → k.ctl.run = true → k.ctl.cks = false → k.ctl.iso = false →
          exec (.machineCheck c .coreState) s =
            .next (s.setCore c { k with ctl := { k.ctl with asyncMc := k.ctl.asyncMc ++ [.coreState] } })))
    ∧ (AtEvent s c → s.canTake c = true → .csParity ∉ k.ctl.asyncMc →
        exec (.machineCheck c .csParity) s = .next (s.setCore c { k with ctl := { k.ctl with reload := some false } }))
    ∧ (k.branch = none → k.ctl.reload = some false →
        (∃ k1, exec (.controlStoreReload c false true) s = .next (logged s k1)
          ∧ EntersM { k with ctl := { k.ctl with reload := none } } k1 0x33 0 k.pc (written k).sys.ms k.rs)
        ∧ ∃ t, exec (.controlStoreReload c false false) s = .next t
          ∧ Stopped (s.setCore c { k with ctl := { k.ctl with reload := none } }) t c (.reload c))
    ∧ (k.ctl.reload = some true →
        let after := s.setCore c { k with ctl := { k.ctl with reload := none, asyncMc := k.ctl.asyncMc ++ [.csParity] } }
        exec (.controlStoreReload c true true) s = .next after
        ∧ ∃ t, exec (.controlStoreReload c true false) s = .next t ∧ Stopped after t c (.reload c))
    ∧ (∀ o x md ia svc stop run, k.ctl.cks = false → k.ctl.iso = false → k.ctl.run = true → k.ctl.reload = none →
        k.long? .dsu = some o →
        o.op = .dsu x md ia svc stop run → ∃ u, (u = 0 ∨ u < k.dk.sc.toNat + k.dk.dc.toNat) ∧
        ∀ k1, dsuEndAt (s.quire (coreQuire c)).image k x md ia svc run (some u) = some k1 →
          let after := s.drawn.setCore c { k1 with ctl := { k1.ctl with reload := none, asyncMc := k1.ctl.asyncMc ++ [.csParity] } }
          exec (.controlStoreReload c true true) s = .next after
          ∧ ∃ t, exec (.controlStoreReload c true false) s = .next t ∧ Stopped after t c (.reload c))

/-- R371: a machine check raised while MCIP is 1, by an instruction, by an event or on its own, checkstops the core, with no entry and
the M set as it was (R372). -/
def Obligations.SecondMachineCheckStopsCore : Prop :=
  ∀ (s : State) (c : CoreId), (s.core c).sys.m.mcip = true → (s.core c).ctl.iso = false →
    ((s.core c).ctl.run = true → (s.core c).ctl.cks = false → ∃ t, exec (.checkstop c) s = .next t ∧ Stopped s t c (.checkstop c))
    ∧ (∀ m, s.canTake c = true → m ∉ (s.core c).ctl.asyncMc → m ∈ [MCause.localData, .poisonedData, .instr] →
        ∃ t, exec (.machineCheck c m) s = .next t ∧ Stopped s t c (.checkstop c))
    ∧ (∀ m lvl sync, Stopped s (machineCheckAt s c m lvl sync) c (.checkstop c))

namespace Sys2Proof.Claims

/-- Core k of quire q may receive the source: CORES names it, and it is neither checkstopped nor isolated (R355). -/
def Eligible (s : State) (q : QuireId) (r : Route) (k : Fin 8) : Prop :=
  r.cores.getLsbD k.val = true ∧ (s.core (coreOf q k)).ctl.cks = false ∧ (s.core (coreOf q k)).ctl.iso = false

/-- The core that receives with ONE = 1: the next eligible one after the last receiver, wrapping; the first from 0 (R355). -/
def NextReceiver (s : State) (q : QuireId) (r : Route) (k : Fin 8) : Prop :=
  Eligible s q r k ∧
  match r.last with
  | none => ∀ j, j < k → ¬ Eligible s q r j
  | some p =>
    (p < k ∧ ∀ j, p < j → j < k → ¬ Eligible s q r j)
    ∨ ((∀ j, p < j → ¬ Eligible s q r j) ∧ ∀ j, j < k → ¬ Eligible s q r j)

/-- Core k is one to which the source goes. -/
def Receives (s : State) (q : QuireId) (r : Route) (k : Fin 8) : Prop :=
  if r.one then NextReceiver s q r k else Eligible s q r k

/-- The core with source i pending and the Steward's messages in its mailbox, which has room for them (R355, R362, R570). -/
def Delivered (k : Core) (i : Nat) (msgs : List (BitVec 56)) : Core :=
  { k with irq := { k.irq with
    ipnd := k.irq.ipnd ||| (1#64 <<< i), mbx := k.irq.mbx ++ msgs.map (fun m => 0x80#8 ++ m) } }

/-- The entries of both TLBs that an operation of R335 leaves, and an empty walk cache. -/
def Keeps (k k1 : Core) (p : TlbEntry → Bool) : Prop :=
  k1 = { k with itlb := k.itlb.filter p, dtlb := k.dtlb.filter p, wcache := [] }

/-- The queue pair has stopped for a reason, and HI_EVT says so; no engine has work of it left, nor a descriptor that could still
bring something to a core (R468, R470); t is the device after, s before. -/
def QpStopped (s t : State) (n : QpId) (why : BitVec 4) : Prop :=
  (t.qp n).stop = true
  ∧ ((s.qp n).stop = false → (t.qp n).why = why ∧ t.host.evt.getLsbD 2 = true ∧ (t.qp n).fetched = none
    ∧ ∀ e : EngId, (∀ w ∈ (t.eng e).work, w.qp ≠ n)
      ∧ ∀ r w, (t.eng e).cur = some r → r.cam = some w → w.qp = n → r.ended ≠ none ∧ r.record = none)
  ∧ ((s.qp n).stop = true → t.qp n = s.qp n)

/-- The cores of t are those of s, but that the window slots which descriptors of the queue pairs that stop had taken are free
(R302, R468). -/
def SlotsFreed (s t : State) (stops : QpId → Prop) : Prop :=
  ∀ c : CoreId, t.core c = { s.core c with win := (t.core c).win } ∧ ∀ w : WinId,
    let a := (s.core c).win[w]; let b := (t.core c).win[w]
    b = { a with inUse := b.inUse }
    ∧ ∀ i : BitVec 4, i ∈ b.inUse ↔ i ∈ a.inUse ∧ ¬ ∃ e r x, (s.eng e).cur = some r ∧ r.cam = some x ∧ stops x.qp
        ∧ (s.qp x.qp).stop = false ∧ (r.ended = none ∨ r.record ≠ none) ∧ x.core = c ∧ (s.qp x.qp).act.win = w
        ∧ r.slot = i ∧ i ≠ 15#4

/-- The entries that a request of TLB_SHOOT leaves (R335, R337). -/
def shootLeaves (op : BitVec 2) (vpn : BitVec 28) (tag : BitVec 12) (e : TlbEntry) : Bool :=
  match op.toNat with
  | 0 => e.locked || !(e.covers vpn && (e.tag == tag || e.g))
  | 1 => e.locked || !(e.tag == tag && !e.g)
  | 2 => e.locked
  | _ => false

end Sys2Proof.Claims

/-! ### The warden -/

/-- R354, R355, R361, R570: an event on a source sets its PND in its quire, or for sources 42 to 47, which report an event of the
whole device, in all 8 quires, with a Steward message of a code of its source for 42 to 45, and it is logged where
R491 lists it; INT_SET sets PND of sources 48 to 63,
but is discarded and logged at a failed warden (R562); the delivery of a pending enabled source sets its IPND bit in every eligible
core or in the next one in turn, with the Steward's messages, and clears PND; the timer's PND rises when its condition becomes
true. Nothing else changes. Which of several events a source 42 or 43 reports is open.
Choices of the model on which clauses of it rest: notes/assumptions 103, 176. -/
def Obligations.InterruptSources : Prop :=
  (∀ (s : State) (q : QuireId) (i : BitVec 6) (n : Fin 64), n.val = i.toNat → s.spineRuns = true →
    let x := s.quire q; let r := x.routes[n]
    let routed := fun (r' : Route) => s.setQuire q { x with routes := x.routes.set n r' }
    (n.val < 42 ∨ 47 < n.val → exec (.intSourceEvent q i) s = .next (routed { r with pnd := true }))
    ∧ (42 ≤ n.val → n.val ≤ 47 → ∃ (quires : Vector Quire 8) (new : List (BitVec 56)) (w : Steward),
        exec (.intSourceEvent q i) s =
          .next { s with quires := quires, stw := w, freeCount := s.freeCount + if n.val ≤ 43 then 1 else 0 }
        ∧ (∀ p : QuireId,
            let y := s.quire p; let r := y.routes[n]
            let r' := { r with pnd := true, msgs := r.msgs ++ new.filter (fun m => !r.msgs.contains m) }
            quires[p] = { y with routes := y.routes.set n r' })
        ∧ (46 ≤ n.val → new = [] ∧ w = s.stw)
        ∧ (n.val ≤ 45 → ∃ code : BitVec 8, new = [code ++ 0#48]
            ∧ (n.val = 42 → code = 0x03 ∨ code = 0x04 ∨ code = 0x08) ∧ (n.val = 43 → code = 0x01 ∨ code = 0x02)
            ∧ (n.val = 44 → code = 0x05) ∧ (n.val = 45 → code = 0x06)
            ∧ ((code = 0x04 ∨ code = 0x08) → w = s.stw)
            ∧ (code ≠ 0x04 → code ≠ 0x08 → ∃ source, Claims.Logged s { s with stw := w } source
                ∧ (code = 0x02 → source = 0 ∨ source = 1) ∧ (code ≠ 0x02 → source = 0xFFFF))))
    ∧ (r.pnd = true → r.en = true → (∃ k, Receives s q r k) →
        (∀ k, Receives s q r k → (s.core (coreOf q k)).irq.mbx.length + r.msgs.length ≤ 16) →
        ∃ cores last, exec (.intDeliver q i) s = .next { routed { r with pnd := false, msgs := [], last := last } with cores := cores }
          ∧ (∀ k : Fin 8, (Receives s q r k → cores[coreOf q k] = Delivered (s.core (coreOf q k)) n.val r.msgs)
              ∧ (¬ Receives s q r k → cores[coreOf q k] = s.core (coreOf q k)))
          ∧ (∀ c : CoreId, coreQuire c ≠ q → cores[c] = s.core c)
          ∧ if r.one then (∃ k, last = some k ∧ Receives s q r k) else last = r.last)
    ∧ ((r.pnd = false ∨ r.en = false ∨ ∀ k, ¬ Receives s q r k) → exec (.intDeliver q i) s = .next s))
  ∧ (∀ (s : State) (q : QuireId) (v : W64), s.spineRuns = true →
    ((s.quire q).failed = false → ∃ routes,
      exec (.intSet q v) s = .next (s.setQuire q { s.quire q with routes := routes })
      ∧ ∀ n : Fin 64, routes[n] =
          if 48 ≤ n.val ∧ v.getLsbD n.val = true then { (s.quire q).routes[n] with pnd := true } else (s.quire q).routes[n])
    ∧ ((s.quire q).failed = true →
        exec (.intSet q v) s = .next (logEvent s .failedWardenAccess (BitVec.ofNat 16 q.val))))
  ∧ (∀ (s : State) (c : CoreId), s.spineRuns = true →
    let i := (s.core c).irq; let cond := i.ten && decide (i.tcmp.toNat ≤ s.tmr.toNat)
    exec (.timerMatch c) s = .next (s.setCore c { s.core c with
      irq := { i with tpnd := i.tpnd || (cond && !i.tcond), tcond := cond } }))

/-- TLB_SHOOT and SHOOT_APPLY (R337, R338): an accepted request waits for every core that is not gated, checkstopped or isolated,
and for every quire cache whose warden has not failed, and is recorded at the gated cores; each applies it as the
instruction of the same OP, a core after the fill of a walk that it has left in progress, the words that it has fetched by then
executing as fetched (R335); while one is under way another write only sets OVR. -/
def Sys2Proof.Claims.Broadcast : Prop :=
  (∀ (s : State) (q : QuireId) (v : W64), s.spineRuns = true → (s.quire q).failed = false →
    let x := s.quire q
    (x.shoot.waiting ≠ [] → exec (.tlbShoot q v) s = .next (s.setQuire q { x with shoot := { x.shoot with ovr := true } }))
    ∧ (x.shoot.waiting = [] → ∃ cores w, exec (.tlbShoot q v) s = .next ({ s with cores := cores }.setQuire q { x with shoot :=
          { vpn := BitVec.ofNat 28 v.toNat, tag := BitVec.ofNat 12 (v.toNat / 2 ^ 28), op := BitVec.ofNat 2 (v.toNat / 2 ^ 40)
            ovr := false, waiting := w } })
        ∧ (∀ c : CoreId, .core c ∈ w ↔
            (s.core c).ctl.gated = false ∧ (s.core c).ctl.cks = false ∧ (s.core c).ctl.iso = false)
        ∧ (∀ i : QuireId, .quire i ∈ w ↔ (s.quire i).failed = false)
        ∧ (∀ c : CoreId,
            let k := s.core c
            cores[c] = if k.ctl.gated && !k.ctl.cks && !k.ctl.iso then
                { k with ctl := { k.ctl with recShoot := true, recShootF := k.ctl.recShootF || (v.toNat / 2 ^ 40 % 4 == 3) } } else k)))
  ∧ (∀ (s : State) (q : QuireId), s.spineRuns = true →
    let sh := (s.quire q).shoot
    let applied := fun (t : State) (x : ShootTarget) => t.setQuire q { t.quire q with
      shoot := { sh with waiting := sh.waiting.filter (fun u => u != x) } }
    (∀ c, .core c ∈ sh.waiting → (s.core c).ctl.gated = false → (s.core c).ctl.walkBg ≠ none → (s.core c).ctl.cks = false →
        (s.core c).ctl.iso = false → exec (.shootApply q (.core c)) s = .next s)
    ∧ (∀ c, .core c ∈ sh.waiting → (s.core c).ctl.gated = false →
        ((s.core c).ctl.walkBg = none ∨ (s.core c).ctl.cks = true ∨ (s.core c).ctl.iso = true) → ∃ k1,
        exec (.shootApply q (.core c)) s = .next (applied (s.drawn.setCore c k1) (.core c))
        ∧ Keeps { s.core c with ahead := k1.ahead } k1 (shootLeaves sh.op sh.vpn sh.tag)
        ∧ ∃ n, k1.ahead = fetchedAhead (s.core c) (s.core c).pc n)
    ∧ (∀ c, .core c ∈ sh.waiting → (s.core c).ctl.gated = true →
        let k := s.core c
        exec (.shootApply q (.core c)) s = .next (applied (s.setCore c { k with
          ctl := { k.ctl with recShoot := true, recShootF := k.ctl.recShootF || sh.op == 3 } }) (.core c)))
    ∧ (∀ i, .quire i ∈ sh.waiting → exec (.shootApply q (.quire i)) s =
        .next (applied (s.setQuire i { s.quire i with qtc := (s.quire i).qtc.filter (shootLeaves sh.op sh.vpn sh.tag) }) (.quire i))))

/-- CORE_WAKE and CORE_REGATE (R338, R363, R513): a gated core wakes for a source at WLVL or above while WEN is 1, or for a
delivered long op, and the broadcasts recorded meanwhile apply first, to the fill of a walk that the gating found in progress
too; a woken core that has waited GT µs for a long op, with no
source at WLVL or above whatever WEN is, is gated again. -/
def Sys2Proof.Claims.Gating : Prop :=
  ∀ (s : State) (c : CoreId),
    let k := s.core c; let t := k.ctl
    let pends := ∃ x ∈ pendingSrcs s c, t.wlvl.toNat ≤ x.lvl.toNat; let due := t.wen = true ∧ pends
    s.spineRuns = true →
    (t.gated = true → t.noWake = false → (s.quire (coreQuire c)).quiesced = false → t.dsuStopped = false → (due ∨ t.dlv = true) →
      ∃ k1, exec (.coreWake c) s = .next (s.setCore c { k1 with ctl := { t with
          gated := false, recShoot := false, recShootF := false, noWake := false, woken := true, dlv := false, stallSince := none
          walkBg := if t.recShoot then none else t.walkBg } })
        ∧ (t.recShoot = false → k1 = k)
        ∧ (t.recShoot = true → Keeps k k1 (fun e => e.locked && !t.recShootF)))
    ∧ ((t.gated = false ∨ t.noWake = true ∨ (¬ due ∧ t.dlv = false)) → exec (.coreWake c) s = .next s)
    ∧ (∀ since, AtEvent s c → t.woken = true → t.gated = false → t.stallSince = some since → t.opStall = true → ¬ pends →
        s.pwr.gt ≠ 0 → since + s.pwr.gt.toNat * 900 ≤ s.now →
        (s.pwr.st = .idle ∨ (s.pwr.st = .trim ∧ s.pwr.gq.getLsbD (coreQuire c).val = true)) → k.dsuBusy = false →
        exec (.coreRegate c) s = .next (s.setCore c { k with
          ctl := { t with gated := true, noWake := false, woken := false, dlv := false } }))

/-- CORE_RESET (R372, R373): a checkstopped core that is not isolated, with nothing outstanding, returns to the state of R30, with its
RAMs, and runs, gated where the power state gates its quire (R19); with requests outstanding the write is remembered until they
are done; of any other core, and in halt-safe (R375), the write is ignored. WARDEN_FAILED (R22, R23): the quire's cores are
isolated, its engines halt, its queue pairs stop with WHY 2, and a fatal fault is detected; of another core at most a window slot
changes, which a descriptor of such a queue pair had taken. -/
def Sys2Proof.Claims.ResetAndIsolation : Prop :=
  (∀ (s : State) (c : CoreId), s.spineRuns = true → (s.quire (coreQuire c)).failed = false →
    let k := s.core c
    (s.stw.hsf = true → exec (.coreReset c) s = .next s)
    ∧ (s.stw.hsf = false → k.ctl.cks = true → k.ctl.iso = false → k.quiet = true →
      exec (.coreReset c) s = .next (s.setCore c { Core.reset with
        loc := k.loc, locBad := k.locBad, locOne := k.locOne, iram := k.iram, iramBad := k.iramBad, dir := s.dir
        ctl := { Ctl.reset with
          wen := k.ctl.wen, wlvl := k.ctl.wlvl, run := true
          gated := match s.pwr.st with
            | .run => false
            | .trim => s.pwr.gq.getLsbD (coreQuire c).val
            | _ => true } }))
    ∧ (s.stw.hsf = false → k.ctl.cks = true → k.ctl.iso = false → k.quiet = false →
        exec (.coreReset c) s = .next (s.setCore c { k with ctl := { k.ctl with rstDue := true } }))
    ∧ (k.ctl.cks = false ∨ k.ctl.iso = true → exec (.coreReset c) s = .next s))
  ∧ (∀ (s : State) (q : QuireId), (s.quire q).failed = false → s.spineRuns = true → ∃ t, exec (.wardenFailed q) s = .next t
    ∧ (∀ i : Fin 8, (t.core (coreOf q i)).ctl.iso = true ∧ (t.core (coreOf q i)).ctl.run = false
        ∧ (t.core (coreOf q i)).g = (s.core (coreOf q i)).g)
    ∧ (∀ c : CoreId, coreQuire c ≠ q →
        t.core c = { s.core c with win := (t.core c).win } ∧ ∀ w : WinId, let b := (t.core c).win[w]
          b = { (s.core c).win[w] with inUse := b.inUse } ∧ ∀ i ∈ b.inUse, i ∈ (s.core c).win[w].inUse)
    ∧ (∀ e : EngId, engQuire e = q → (t.eng e).halt = true)
    ∧ (∀ n : QpId, (s.qp n).en = true → engQuire (s.qp n).act.eng = q →
        (t.qp n).stop = true ∧ ((s.qp n).stop = false → (t.qp n).why = 2))
    ∧ (t.quire q).failed = true ∧ FatalKind.warden q ∈ t.stw.faults ∧ t.stw.fat = true)

/-- What the wardens do to their cores (R22, R23, R335 to R338, R363, R373, R513).
Choices of the model on which clauses of it rest: notes/assumptions 54, 55, 56, 57. -/
def Obligations.WardenActs : Prop := Claims.Broadcast ∧ Claims.Gating ∧ Claims.ResetAndIsolation

namespace Sys2Proof.Claims

/-- The LOCAL address of word a of core c's local region, or of its instruction RAM (R280). -/
def ramAddr (c : CoreId) (iram : Bool) (a : Nat) : W64 :=
  BitVec.ofNat 64 (2 ^ 63 + c.val * 2 ^ 16 + (if iram then 2 ^ 15 else 0) + a)

/-- t is s with other stream engines. -/
def OnlyEngines (s t : State) : Prop := t = { s with engines := t.engines }

/-- Engine e of t is x and every other is as it was, but that in Idle a pair with nothing to run is gated (R513). -/
def EngineIs (s t : State) (e : EngId) (x : Engine) : Prop :=
  let y := s.eng (pairOf e); let idle := decide (s.pwr.st = .idle) && !x.hasWork && !y.hasWork
  t.eng e = { x with gated := x.gated || idle } ∧ t.eng (pairOf e) = { y with gated := y.gated || idle }
  ∧ ∀ i, i ≠ e → i ≠ pairOf e → t.eng i = s.eng i

/-- The pair of an engine is ungated when it now has something to run, gated in Idle when neither has, and nothing else of the
engines changes but x (R284, R513). -/
def EngineBecomes (s t : State) (e : EngId) (x : Engine) : Prop :=
  OnlyEngines s t ∧ (x.hasWork = false → EngineIs s t e x)
  ∧ (x.hasWork = true → t.eng e = { x with gated := false } ∧ t.eng (pairOf e) = { s.eng (pairOf e) with gated := false }
      ∧ ∀ i, i ≠ e → i ≠ pairOf e → t.eng i = s.eng i)

/-- Every SWAIT of a core that waits on window w has v to deliver (R303). -/
def Answered (k : Core) (w : WinId) (v : W64) : Core :=
  { k with longs := k.longs.map (fun o => if o.op = .swait w ∧ o.res = none then { o with res := some (.l v false) } else o) }

/-- Engine e runs a descriptor, not decided and without data moved, and nothing holds the engines (R285). -/
def EngineRuns (s : State) (e : EngId) (r : Running) : Prop :=
  s.live = true ∧ (s.eng e).cur = some r ∧ r.record = none

/-- The descriptor that engine e runs has ended with a status, a field and a count; without a window it reaches its boundary, and
otherwise its record waits (R285, R289, R302, R304). -/
def DescriptorEnds (s t : State) (e : EngId) (r : Running) (st : BitVec 8) (fld : BitVec 7) (nw : Nat) : Prop :=
  let x := s.eng e; let d := descOf r.words; let bad : Bool := decide (0x10 ≤ st.toNat)
  let rcd : W64 := BitVec.ofNat 64 (st.toNat + r.slot.toNat * 2 ^ 8 + e.val * 2 ^ 12 + nw % 2 ^ 16 * 2 ^ 16 + d.tag.toNat * 2 ^ 32)
  let x1 := { x with
    tail := if r.cam.isSome then x.tail else x.tail + 1, done := x.done + 1, fail := if bad then x.fail + 1 else x.fail
    err := x.err || bad, lst := st, abort := false }
  EngineIs s t e (if d.ws || d.slot then { x1 with cur := some { r with ended := some (st, fld), record := some rcd } }
    else { x1 with
      cur := none, rbase := x.rbaseNew.getD x.rbase, rcfg := x.rcfgNew.getD x.rcfg, xctx := x.xctxNew.getD x.xctx
      rbaseNew := none, rcfgNew := none, xctxNew := none
      ahead := if x.rbaseNew.isSome || x.rcfgNew.isSome then [] else x.ahead })
  ∧ (bad = true → ∀ n : Fin 64, n.val = 40 + e.val % 2 → (t.quire (engQuire e)).routes[n].pnd = true)

end Sys2Proof.Claims

/-! ### Record streams -/

/-- The ports of an engine (R284, R286, R287, R291): SE_CTL's bits change one by one, an abort is kept while data move, SE_HEAD sets
SE_TAIL too while EN is 0, after the core's older local stores have drained, and SE_MDATA writes four words of the mould store
and steps its address, or only sets MWE while the engine is busy. In Dormant the write is discarded, and one of the host sets DAX
(R516). -/
def Sys2Proof.Claims.EnginePorts : Prop :=
  ∀ (s : State) (e : EngId),
    let x := s.eng e
    (s.spineRuns = false → ∀ who v, exec (.seHead who e v) s =
      .next (if who = .host then { s with pwr := { s.pwr with dax := true } } else s))
    ∧ (s.spineRuns = true →
    (∀ v, ∃ t, exec (.seCtlEn e v) s = .next t
      ∧ EngineBecomes s t e { x with en := v, lastCam := if v && !x.en then none else x.lastCam })
    ∧ (∀ v, ∃ t, exec (.seCtlHalt e v) s = .next t ∧ EngineBecomes s t e { x with halt := v })
    ∧ (∃ t, exec (.seCtlAbt e) s = .next t
      ∧ EngineBecomes s t e { x with abort := x.abort || (match x.cur with | some r => r.record.isNone | none => false) })
    ∧ (∀ v, ∃ t, exec (.seCtlCen e v) s = .next t
      ∧ EngineBecomes s t e { x with cen := v, lastCam := if v && !x.cen then none else x.lastCam })
    ∧ (∀ who v, ∃ t, exec (.seHead who e v) s = .next t
      ∧ t = { s with engines := t.engines, cores := t.cores }
      ∧ EngineIs { s with engines := s.engines.set (pairOf e) { s.eng (pairOf e) with gated := false } } t e
          { x with head := v, tail := if x.en then x.tail else v, gated := false }
      ∧ ∀ c, (match who with
        | .core d => if c = d then OnlyLocal (s.core c) (t.core c) ∧ (∀ en ∈ (t.core c).sbuf, en.isLoc = false)
            ∧ ∀ a, localView (t.core c) a = localView (s.core c) a
          else t.core c = s.core c
        | _ => t.core c = s.core c))
    ∧ (∀ v, x.cur = none → ∃ m, exec (.seMdata e v) s = .next (s.setEng e { x with mould := m, maddr := x.maddr + 4 })
      ∧ (∀ i < 4, m.get ((x.maddr.toNat + i) % 4096) = BitVec.ofNat 16 (v.toNat / 2 ^ (48 - 16 * i)))
      ∧ ∀ a < 4096, (∀ i < 4, a ≠ (x.maddr.toNat + i) % 4096) → m.get a = x.mould.get a)
    ∧ (∀ v, x.cur ≠ none → exec (.seMdata e v) s = .next (s.setEng e { x with mwe := true })))

/-- SWIN_CFG (R303): enabling takes the fields of the write and clears WR, the queue and OWN, unless the slots would run past the
local region; disabling answers the waiting SWAITs with 0x21, discards the records and the slots, and ends with 0x18 a
descriptor that waits for one; cancelling answers them with 0x20 and changes nothing else. -/
def Sys2Proof.Claims.WindowPort : Prop :=
  ∀ (s : State) (c : CoreId) (w : WinId), s.spineRuns = true → (s.quire (coreQuire c)).failed = false →
    let k := s.core c; let x := k.win[w]
    (∀ v : W64, x.en = false → v.toNat / 2 ^ 26 % 2 = 0 →
      let y : Window := { x with base := BitVec.ofNat 15 v.toNat, lsz := BitVec.ofNat 4 (v.toNat / 2 ^ 16)
                                 nsl := BitVec.ofNat 4 (v.toNat / 2 ^ 20), ie := decide (v.toNat / 2 ^ 24 % 2 = 1) }
      let size := y.base.toNat + y.nsl.toNat * 2 ^ min 12 (max 2 y.lsz.toNat)
      let z : Window := if size ≤ 0x8000 then { y with en := true, wr := 0, queue := [], own := false, inUse := [] } else y
      exec (.swinEnable c w v) s = .next (s.setCore c { k with win := k.win.set w z }))
    ∧ (x.en = true → exec (.swinDisable c w) s = .next { s with
        cores := s.cores.set c { Answered k w 0x21#64 with
          win := k.win.set w { x with en := false, queue := [], own := false, inUse := [] } }
        engines := s.engines.map (fun e => match e.cur with
          | some r =>
            if (descOf r.words).slot = true ∧ (descOf r.words).cnt ≠ 0 ∧ (descOf r.words).wc = c ∧ (descOf r.words).win = w
                ∧ r.slot = 0xF ∧ r.ended = none ∧ r.record = none
            then { e with cur := some { r with ended := some (0x18, 0) } } else e
          | none => e) })
    ∧ (x.en = true → exec (.swinCancel c w) s = .next (s.setCore c (Answered k w 0x20#64)))

/-- The ports of the streams (R284 to R287, R291, R303).
Choices of the model on which clauses of it rest: notes/assumptions 61, 63. -/
def Obligations.StreamPorts : Prop := Claims.EnginePorts ∧ Claims.WindowPort

/-- SE_DESCRIPTOR_START (R285, R287, R288, R569): an enabled engine with nothing to hold it starts Camwin's work when it did not
start that last or the ring is empty, and otherwise descriptor SE_TAIL of its ring, read from a LOCAL ring when its words can be
trusted; with CNT = 0 the descriptor is already decided, otherwise the checks of R288 decide it; a ring that is misplaced
halts the engine. SE_PREFETCH (R283) reads a later descriptor of such a ring ahead, one of the next three, which begin at SE_TAIL
itself once the write-back of the running one has stepped it, and changes nothing else when it names no
VIRT address. -/
def Sys2Proof.Claims.DescriptorStarts : Prop :=
  ∀ (s : State) (e : EngId),
    let x := s.eng e
    let begun := fun (t : State) (y : Engine) (ws : List W16) (p : Place) (w : Option CamWork) => t.setEng e { y with
      cur := some { words := ws, place := p, cam := w, slot := 0xF, dst := (descOf ws).dst, record := none
                    ended := if (descOf ws).cnt = 0 then some (0x01, 0) else (descCheck s e (descOf ws)).map (fun st => (st, 0)) }
      lastCam := some w.isSome, abort := false }
    let at_ := fun (c : CoreId) (i : Bool) (a : Nat) => x.rbase = ramAddr c i a
    let words := fun (c : CoreId) (i : Bool) (a : Nat) => if i then (s.core c).iram.read a 16 else (s.core c).loc.read a 16
    let clean := fun (c : CoreId) (i : Bool) (a : Nat) =>
      ∀ j < 16, (if i then (s.core c).iramBad else (s.core c).locBad).get ((a + j) / 4) = 0#1
    let offset := fun (n : BitVec 32) => n.toNat % 2 ^ min 12 x.rcfg.toNat * 16
    s.live = true → x.gated = false →
    (x.en = true → x.halt = false → x.cur = none →
      (∀ w rest, x.cen = true → x.work = w :: rest → (x.head = x.tail ∨ x.lastCam ≠ some true) →
        exec (.seDescriptorStart e) s = .next (begun s { x with work := rest } w.words .none (some w)))
      ∧ (x.head ≠ x.tail → (x.cen = false ∨ x.work = [] ∨ x.lastCam = some true) → x.ahead = [] →
        (∀ c i a, a < (if i then 0x2000 else 0x8000) → at_ c i a → a % 16 = 0 →
          a + offset x.tail + 16 ≤ (if i then 0x2000 else 0x8000) → clean c i (a + offset x.tail) →
          exec (.seDescriptorStart e) s =
            .next (begun (s.gotTask (srcEng e) .data) x (words c i (a + offset x.tail)) (.ram c i (a + offset x.tail)) none))
        ∧ (x.rbase.toNat % 16 ≠ 0 → ∃ t, exec (.seDescriptorStart e) s = .next t
          ∧ EngineIs s t e { x with halt := true, err := true, lst := 0x10, fail := x.fail + 1 }
          ∧ t = { s with engines := t.engines, quires := t.quires, waits := t.waits })))
    ∧ (∀ (n : Fin 3) r c i a, x.pfe = true → x.cur = some r →
        let m : BitVec 32 := x.tail + BitVec.ofNat 32 (if r.cam = none ∧ r.record = none then n.val + 1 else n.val)
        (m - x.tail).toNat < (x.head - x.tail).toNat → a < (if i then 0x2000 else 0x8000) → at_ c i a → a % 16 = 0 →
        a + offset m + 16 ≤ (if i then 0x2000 else 0x8000) → clean c i (a + offset m) →
        let ws := words c i (a + offset m)
        skind (descOf ws).src ≠ .virt → ((descOf ws).slot = true ∨ skind (descOf ws).dst ≠ .virt) →
        exec (.sePrefetch e n) s = .next (s.setEng e { x with ahead := x.ahead.filter (fun p => p.1 != m) ++ [(m, ws)] }))

/-- SE_SLOT_TAKE (R305): the descriptor takes slot WR of its window when that is free, and the next slot follows in turn; a window
that is disabled or has no slots decides the descriptor with 0x18, and output that does not fit a slot decides it with 0x10. -/
def Sys2Proof.Claims.SlotTaken : Prop :=
  ∀ (s : State) (e : EngId) (r : Running), EngineRuns s e r →
    let d := descOf r.words; let k := s.core d.wc; let w := k.win[d.win]
    let size := destWords d (if d.mld = 0 then none else mouldAt (s.eng e).mould d.mld)
    d.slot = true → r.ended = none → r.slot = 0xF → (s.eng e).abort = false →
    ((w.en = false ∨ w.nsl = 0) →
      exec (.seSlotTake e) s = .next (s.setEng e { s.eng e with cur := some { r with ended := some (0x18, 0) } }))
    ∧ (w.en = true → w.nsl ≠ 0 → 2 ^ min 12 (max 2 w.lsz.toNat) < size →
      exec (.seSlotTake e) s = .next (s.setEng e { s.eng e with cur := some { r with ended := some (0x10, 0) } }))
    ∧ (w.en = true → w.nsl ≠ 0 → size ≤ 2 ^ min 12 (max 2 w.lsz.toNat) → w.wr ∉ w.inUse → w.base.toNat + w.wr.toNat * 2 ^ min 12 (max 2 w.lsz.toNat) < 0x8000 →
      let y := { w with wr := BitVec.ofNat 4 ((w.wr.toNat + 1) % w.nsl.toNat), inUse := w.inUse ++ [w.wr] }
      let place := ramAddr d.wc false (w.base.toNat + w.wr.toNat * 2 ^ min 12 (max 2 w.lsz.toNat))
      exec (.seSlotTake e) s = .next ((s.setCore d.wc { k with win := k.win.set d.win y }).setEng e
        { s.eng e with cur := some { r with slot := w.wr, dst := place } }))

/-- A ring descriptor in the instruction RAM of core p has ended: words 14 and 15 and its record say how, and of the cores nothing
changes but their RAMs and what p has fetched ahead (R35, R285, R289, R302). -/
def Sys2Proof.Claims.RingEnds (s t : State) (e : EngId) (r : Running) (p : CoreId) (a : Nat) (st : BitVec 8) (fld : BitVec 7) (nw : Nat) :
    Prop :=
  DescriptorEnds s t e r st fld nw
  ∧ (t.core p).iram.get (a + 14) = BitVec.ofNat 16 (fld.toNat * 512 + 256 + st.toNat)
  ∧ (t.core p).iram.get (a + 15) = BitVec.ofNat 16 nw
  ∧ ∀ c, let k := t.core c
    k = { s.core c with loc := k.loc, locBad := k.locBad, locOne := k.locOne, iram := k.iram, iramBad := k.iramBad, ahead := k.ahead }

/-- Core c's local words from a up are those of f, as far as it gives one for an index below n, and every other local word of the
device is as it was. -/
def Sys2Proof.Claims.LocalBecomes (s t : State) (c : CoreId) (a n : Nat) (f : Nat → Option W16) : Prop :=
  (∀ i < n, (t.core c).loc.get (a + i) = (f i).getD ((s.core c).loc.get (a + i)))
  ∧ (∀ p, ¬ (a ≤ p ∧ p < a + n) → (t.core c).loc.get p = (s.core c).loc.get p)
  ∧ ∀ q, q ≠ c → (t.core q).loc = (s.core q).loc

/-- Records under an inbound mould (R281, R290, R292, R294, R458): the host's bytes come in, each record that converts in every field
writes the units that its fields make, the later one standing where two meet, and the words that no field covers are left; the first
that fails ends the descriptor with 0x12 and its field's number, it and the later ones unwritten; a replacement gives 0x02. The
engine's read of the host's memory shows in the same act. -/
def Sys2Proof.Claims.RecordsConvert : Prop :=
  ∀ (s : State) (e : EngId) (r : Running) (n m j : Nat) (g : Mould) (bs : List Byte) (res : Nat → List (Nat × W16)) (rep : Nat → Bool)
    (c p : CoreId) (a a' : Nat), EngineRuns s e r → r.cam = none → r.ended = none → (s.eng e).abort = false →
    let d := descOf r.words; let store := (s.eng e).mould
    let record := fun (i : Nat) => (bs.drop (i * g.rs)).take g.rs
    let last := fun (i k : Nat) => (((res i).reverse.find? (fun u => u.1 == k)).map (·.2))
    d.mld ≠ 0 → mouldAt store d.mld = some g → g.out = false → d.slot = false → d.cnt = n * g.rs → 0 < n → d.dst = r.dst →
    skind d.src = .host → s.host.lup = true → s.host.cfg[(0 : FnId)].bme = true → bs.length = d.cnt →
    (hostAddr d.src) % s.readMax + d.cnt ≤ s.readMax →
    r.dst = ramAddr c false a → a + n * g.ds ≤ 0x8000 → r.place = .ram p true a' → a' + 16 ≤ 0x2000 →
    j ≤ n → (∀ i < j, g.convert store (record i) = .ok (res i) (rep i)) →
    let words := fun (x : Nat) => if x / g.ds < j then last (x / g.ds) (x % g.ds) else none
    let nw := ((List.range (n * g.ds)).filter (fun x => (words x).isSome)).length
    let ends := fun (st : BitVec 8) (fld : BitVec 7) => ∃ t, exec (.seDescriptorComplete e [.data bs] m) s = .next t
      ∧ Claims.RingEnds s t e r p a' st fld nw ∧ Claims.LocalBecomes s t c a (n * g.ds) words
      ∧ t = { s with cores := t.cores, engines := t.engines, waits := t.waits, freeCount := t.freeCount, quires := t.quires
                     out := s.out ++ [.hostRead 0 (hostAddr d.src) d.cnt] }
    (j = n → ends (if (List.range n).any rep then 0x02 else 0x00) 0)
    ∧ (∀ i, j < n → g.convert store (record j) = .fail i → ends 0x12 (BitVec.ofNat 7 i))

/-- The conversions (R293, R295 to R299). COPY makes words of byte pairs. MAP8 gives each byte its map's unit, justified in DL
units with the unit of PAD around it, and fails when too long; UNMAP8 gives each unit the lowest index of its map that holds it. An
integer comes in with its value, in either byte order, exactly when it fits. A zoned field that goes out comes in again with its
value, and well-formed units that go out as UTF-8 come in again. -/
def Sys2Proof.Claims.Conversions : Prop :=
  (∀ (m : Cells 16) (f : MField) (record : List Byte), f.so + f.sl ≤ record.length →
    let bs := (record.drop f.so).take f.sl; let tr := if f.w3.getLsbD 3 then trimPad (f.w3.extractLsb' 8 8) bs else bs
    let map := fun (b : Byte) => m.get (2048 + f.map * 256 + b.toNat); let pad := map (f.w3.extractLsb' 8 8); let n := tr.length
    (f.cv = 0 → f.sl = 2 * f.dl → ∃ us, convField m f record = some (us, false) ∧ us.length = f.dl
        ∧ ∀ i < f.dl, us.getD i 0 = (bs.getD (2 * i) 0 ++ bs.getD (2 * i + 1) 0 : W16))
    ∧ (f.cv = 1 → f.dl < n → convField m f record = none)
    ∧ (f.cv = 1 → n ≤ f.dl → ∃ us, convField m f record = some (us, false) ∧ us.length = f.dl
        ∧ let first := if f.w3.getLsbD 2 then f.dl - n else 0
          ∀ i < f.dl, us.getD i 0 = if first ≤ i ∧ i < first + n then map (tr.getD (i - first) 0) else pad))
  ∧ (∀ (m : Cells 16) (f : MField) (record : List Byte), f.cv = 9 → 2 * (f.so + f.sl) ≤ record.length → f.sl ≤ f.dl →
    f.w3.getLsbD 2 = false →
    let unit := fun (i : Nat) => (record.getD (2 * (f.so + i)) 0 ++ record.getD (2 * (f.so + i) + 1) 0 : W16)
    let map := fun (b : Nat) => m.get (2048 + f.map * 256 + b)
    (∀ i < f.sl, ∃ b < 256, map b = unit i) → ∃ us, convField m f record = some (us, false) ∧ us.length = f.dl
      ∧ (∀ i < f.sl, (us.getD i 0).toNat < 256 ∧ map (us.getD i 0).toNat = unit i ∧ ∀ b < (us.getD i 0).toNat, map b ≠ unit i)
      ∧ ∀ i, f.sl ≤ i → i < f.dl → us.getD i 0 = (f.w3.extractLsb' 8 8).setWidth 16)
  ∧ (∀ (sig le : Bool) (dl : Nat) (bs : List Byte), 1 ≤ dl → bs ≠ [] →
    let signed := fun (bits u : Nat) => if sig = true ∧ 2 ^ (bits - 1) ≤ u then (u : Int) - 2 ^ bits else (u : Int)
    let v := signed (8 * bs.length) (beNat (if le then bs.reverse else bs))
    let low : Int := if sig then -(2 ^ (16 * dl - 1)) else 0; let high : Int := if sig then 2 ^ (16 * dl - 1) else 2 ^ (16 * dl)
    ((v < low ∨ high ≤ v) → intIn sig le dl bs = none)
    ∧ (low ≤ v → v < high → ∃ ws, intIn sig le dl bs = some ws ∧ ws.length = dl
        ∧ signed (16 * dl) (beNat (bytesOfWords ws)) = v ∧ intOut sig le bs.length ws = some bs))
  ∧ (∀ (w3 : W16) (n dl : Nat) (ws : List W16) (bs : List Byte), ws ≠ [] → ws.length ≤ 8 → fieldBad ws = none → 1 ≤ n → n ≤ 32 →
    1 ≤ dl → dl ≤ 8 → (fieldVal ws).mag < 10 ^ (4 * dl - 1) → zonedOut w3 n ws = some bs →
      bs.length = n ∧ ∃ ws', zonedIn w3 dl bs = some ws' ∧ ws'.length = dl ∧ fieldBad ws' = none
        ∧ (fieldVal ws').toInt = (fieldVal ws).toInt)
  ∧ (∀ us : List W16, (utf8Encode us.length us).2 = false →
      let bs := (utf8Encode us.length us).1; utf8Decode bs.length bs = (us, false))

/-- SE_DESCRIPTOR_COMPLETE (R281, R285, R288, R289, R302): a descriptor that is already decided ends with its status and writes no
data; a plain copy of words that can be trusted from one core's local region to another's, to host memory, or to a line of the Vat
or HBM that the engine may write, or from such a line, writes exactly them, and a ring descriptor's words 14 and 15 follow, then
SE_TAIL and the counts; the record of one that signals waits for its window. An access to a page that the engine's context does
not translate, or whose key it has not, ends it with 0x14 or 0x15 before any word is read (R282, R301). -/
def Sys2Proof.Claims.DescriptorCompletes : Prop :=
  ∀ (s : State) (e : EngId) (r : Running) (src : List HostReply) (n : Nat), EngineRuns s e r → r.cam = none →
    let d := descOf r.words; let x := s.eng e; let o := exec (.seDescriptorComplete e src n) s
    (∀ st fld, r.ended = some (st, fld) → r.place = .none → ∃ t, o = .next t
      ∧ DescriptorEnds s t e r st fld 0 ∧ t.cores = s.cores ∧ t.phys = s.phys)
    ∧ (∀ c p a a' len, r.ended = none → x.abort = false → d.mld = 0 → d.slot = false → d.cnt = 2 * len → 0 < len → d.dst = r.dst →
        a + len ≤ 0x8000 → r.place = .ram p true a' → a' + 16 ≤ 0x2000 → s.hbm.injArm = false →
        let words := fun (i : Nat) => (s.core c).loc.get (a + i)
        let trusted := ∀ i < len, (s.core c).locBad.get ((a + i) / 4) = 0#1
        -- LOCAL to LOCAL
        (∀ c2 b, d.src = ramAddr c false a → r.dst = ramAddr c2 false b → b + len ≤ 0x8000 → trusted →
          ∃ t, o = .next t ∧ Claims.RingEnds s t e r p a' 0x00 0 len ∧ Claims.LocalBecomes s t c2 b len (fun i => some (words i))
            ∧ t = { s with cores := t.cores, engines := t.engines, waits := t.waits, freeCount := t.freeCount })
        -- LOCAL to HOST
        ∧ (d.src = ramAddr c false a → skind r.dst = .host → s.host.cfg[(0 : FnId)].bme = true → s.host.lup = true → trusted →
          (hostAddr r.dst) % s.payloadMax + 2 * len ≤ s.payloadMax →
          ∃ t, o = .next t ∧ Claims.RingEnds s t e r p a' 0x00 0 (2 * len) ∧ (∀ q, (t.core q).loc = (s.core q).loc)
            ∧ t = { s with cores := t.cores, engines := t.engines, waits := t.waits, freeCount := t.freeCount
                           out := s.out ++ [.hostWrite 0 (hostAddr r.dst) (bytesOfWords ((List.range len).map words)) false] })
        -- VIRT, within a line, to and from LOCAL
        ∧ (∀ va pa ent, x.xctx.v = true → 0x8000 ≤ va.toNat → let q := engQuire e; let qc := (s.quire q).qtc
            let may := fun (want : Want) => translate qc x.xctx.tag true x.krr va want = .ok pa ent
            CleanMem s pa len → s.mustWait (srcEng e) pa = false →
            (d.src = ramAddr c false a → skind r.dst = .virt → virtAddr r.dst = va → may (wantWrite [0#2, 1#2]) → trusted →
              ∃ t keys, o = .next t ∧ Claims.RingEnds s t e r p a' 0x00 0 len ∧ (∀ q, (t.core q).loc = (s.core q).loc)
                ∧ UsedFrame s pa true keys ∧ (∀ y, t.vatMark.get y = s.vatMark.get y) ∧ (∀ y, t.hbmEcc.get y = s.hbmEcc.get y)
                ∧ t = { s with cores := t.cores, engines := t.engines, waits := t.waits, freeCount := t.freeCount, vatMark := t.vatMark
                               hbmEcc := t.hbmEcc, keys := keys, phys := s.phys.write pa ((List.range len).map words)
                               quires := s.quires.set q { s.quire q with qtc := tlbTouch qc ent } })
            ∧ (r.dst = ramAddr c false a → skind d.src = .virt → virtAddr d.src = va → may (wantRead [0#2, 1#2, 2#2]) →
              ∃ t keys, o = .next t ∧ Claims.RingEnds s t e r p a' 0x00 0 len
                ∧ Claims.LocalBecomes s t c a len (fun i => some (s.phys.get (pa + i))) ∧ UsedFrame s pa false keys
                ∧ t = { s with cores := t.cores, engines := t.engines, waits := t.waits, freeCount := t.freeCount, keys := keys
                               quires := s.quires.set q { s.quire q with qtc := tlbTouch qc ent } }))
        ∧ (r.dst = ramAddr c false a → skind d.src = .virt → let va := virtAddr d.src; let qc := (s.quire (engQuire e)).qtc
          let fails := fun (st : BitVec 8) => ∃ t, o = .next t ∧ Claims.RingEnds s t e r p a' st 0 0
            ∧ (∀ q, (t.core q).loc = (s.core q).loc) ∧ t.phys = s.phys ∧ t.keys = s.keys
          let want := wantRead [0#2, 1#2, 2#2]
          ((x.xctx.v = false ∨ va.toNat < 0x8000) → fails 0x14)
          ∧ (x.xctx.v = true → 0x8000 ≤ va.toNat → translate qc x.xctx.tag true x.krr va want ≠ .miss →
              (∀ pa ent, translate qc x.xctx.tag true x.krr va want ≠ .ok pa ent) → fails 0x15)))

/-- WINDOW_RECORD_ENQUEUE (R303, R304): the record enters its window's queue while that holds fewer than 16, is discarded at a
disabled one, and waits at a full one; the engine reaches its boundary; an interrupt follows when IE is 1 and no SWAIT
waits. -/
def Sys2Proof.Claims.RecordEnters : Prop :=
  ∀ (s : State) (e : EngId) (r : Running) (v : W64),
    s.live = true → (s.eng e).cur = some r → r.record = some v →
    let d := descOf r.words; let k := s.core d.wc; let w := k.win[d.win]; let o := exec (.windowRecordEnqueue e) s
    let ended := fun (t : State) => ∃ u, o = .next u ∧ u = { t with engines := u.engines } ∧ EngineIs s u e (s.eng e).boundary
    (w.en = true → w.queue.length < 16 → ∃ quires, ended ({ s with quires := quires }.setCore d.wc
        { k with win := k.win.set d.win { w with queue := w.queue ++ [v] } })
      ∧ (w.ie = false → quires = s.quires)
      ∧ (w.ie = true → w.queue = [] → (∀ x ∈ k.longs, ¬ (x.op = .swait d.win ∧ x.res = none)) →
          ∀ i : Fin 64, i.val = 32 + d.wc.val % 8 → quires[coreQuire d.wc].routes[i].pnd = true))
    ∧ (w.en = true → 16 ≤ w.queue.length → o = .next s)
    ∧ (w.en = false → ended s)

/-- A descriptor from its start to its record (R281 to R283, R285, R287 to R299, R301 to R305, R569).
Choices of the model on which clauses of it rest: notes/assumptions 58, 59, 60, 62, and 207 (the record of a descriptor with CNT = 0
interrupts as any other). -/
def Obligations.StreamDescriptors : Prop :=
  Claims.DescriptorStarts ∧ Claims.SlotTaken ∧ Claims.DescriptorCompletes ∧ Claims.RecordsConvert ∧ Claims.Conversions
  ∧ Claims.RecordEnters

namespace Sys2Proof.Claims

/-- The link on which the journal replicates: port A joined, its successor accepting, and the bypass open (R264). -/
def Linked (s : State) : Prop :=
  s.ring.acc = true ∧ s.ring.pa.up = true ∧ s.ring.st = .joined ∧ s.ring.byp = false

/-- Entry q can be read back from the own tail, and is ws (R255, R265, R272). -/
def Entry (s : State) (q : Nat) (ws : List W16) : Prop :=
  q ≠ 0 ∧ q ≤ s.jnl.last ∧ s.jnl.last < q + 65536 ∧ (s.jnl.jerr = true → q < s.jnl.jerrSeq.toNat)
  ∧ (∀ i < 4, s.jnlMark.get (q % 65536 * 4 + i) = 0#1) ∧ ws = s.phys.read (0x900000000 + q % 65536 * 16) 16

/-- The HBM region's slot of entry q (R259). -/
def regionAt (s : State) (q : Nat) : Nat := s.jnl.hbase.toNat + q % 2 ^ s.jnl.logh.toNat * 16

/-- The HBM journal region is well configured (R259). -/
def RegionOk (s : State) : Prop :=
  12 ≤ s.jnl.logh.toNat ∧ s.jnl.logh.toNat ≤ 26 ∧ s.jnl.hbase.toNat % (16 * 2 ^ s.jnl.logh.toNat) = 0
  ∧ s.jnl.hbase.toNat + 16 * 2 ^ s.jnl.logh.toNat ≤ hbmWords s.part

/-- A valid sheet arrives at a port whose bypass is open: its header and its payload words (R429 to R432, R441, R444, R446). -/
def Hears (s : State) (p : RPort) (bs : List Block) (h : Hdr) (ws : List W16) : Prop :=
  let r := s.rp p
  s.ringHears = true ∧ s.ring.byp = false ∧ openSheet r.enc r.rx[r.rxSlot] bs = .ok h ws

/-- The device once a valid sheet has been counted at its port; one that was lost is so no longer, and HELLO goes out on it again
(R442, R444). -/
def heard (s : State) (p : RPort) : State :=
  let a := s.modRp p (fun r => { r with
    rx := if r.enc then r.rx.set r.rxSlot { r.rx[r.rxSlot] with count := r.rx[r.rxSlot].count + 1#64 } else r.rx
    lastRx := s.now, tagRun := 0, lost := none })
  if (s.rp p).lost ≠ none ∧ (s.ring.st = .hello ∨ s.ring.st = .census ∨ s.ring.st = .joined) then sendHello a p false false else a

/-- The device sends and replicates (R264, R270, R375, R446). -/
def Sending (s : State) : Prop := s.jnl.rep = true ∧ s.ringSends = true ∧ s.awake = true

/-- The device exchanges sheets with its neighbours: the bypass open, past INSERT, neither frozen nor in halt-safe (R270, R375, R446,
R448). -/
def Talks (s : State) : Prop :=
  s.ringSends = true ∧ (s.ring.st = .hello ∨ s.ring.st = .census ∨ s.ring.st = .joined)

/-- The journal that begins to send from another position now (R435, R439). -/
def atPosition (j : Journal) (q : W64) (now : Nat) : Journal := { j with sendPos := q, restart := now }

/-- Source 42 has a journal event in every quire, with its message (R265, R570). -/
def ToldOfJournal (t : State) (code : BitVec 8) : Prop :=
  ∀ q : QuireId, (t.quire q).routes[42].pnd = true ∧ (code ++ 0#48) ∈ (t.quire q).routes[42].msgs

end Sys2Proof.Claims

/-! ### The journal -/

/-- JNL_CTL's bits, JNL_NEXT and JNL_DUR (R261, R262, R264 to R266): PEN and HDE change alone; RPE brings replication into effect when
the link allows, with JNL_REPL := JNL_DUR and sending from the next entry, or leaves FB with JNL_REPL following; MREL empties
the mirror; JNL_NEXT is taken with PEN 0 and nothing in flight or held, 0 acting as 1; JNL_DUR becomes the larger of itself
and the smaller of the value and the count it may reach. -/
def Sys2Proof.Claims.JournalPorts : Prop :=
  ∀ s : State,
    let j := s.jnl; let o := fun (k : Journal) => Host.Outcome.next (φ := Fault) (ρ := Refusal) { s with jnl := k }
    (∀ v, exec (.jnlPen v) s = o { j with pen := v })
    ∧ (∀ v, exec (.jnlHde v) s = o { j with hde := v })
    ∧ (exec (.jnlRpe false) s = o { j with rpe := false, rep := false })
    ∧ (Linked s → j.rep = false → j.fbSig = false → exec (.jnlRpe true) s =
        o { atPosition j (j.dur + 1#64) s.now with rpe := true, rep := true, repl := j.dur, replSince := s.now })
    ∧ (Linked s → j.rep = false → j.fbSig = true → ∃ t, exec (.jnlRpe true) s = .next t
        ∧ t.jnl = { atPosition j (j.dur + 1#64) s.now with
            rpe := true, rep := true, repl := j.dur, replSince := s.now, fbSig := false }
        ∧ ToldOfJournal t 0x04 ∧ t.host.evt.getLsbD 1 = true ∧ t.cores = s.cores ∧ t.phys = s.phys)
    ∧ (¬ Linked s → j.rep = false → exec (.jnlRpe true) s = o { j with rpe := true, repl := j.dur })
    ∧ (¬ Linked s → j.rep = true → ∃ t, exec (.jnlRpe true) s = .next t
        ∧ t.jnl = { j with rpe := true, rep := false, repl := j.dur, fbSig := true }
        ∧ ToldOfJournal t 0x03 ∧ t.host.evt.getLsbD 0 = true ∧ t.cores = s.cores ∧ t.phys = s.phys ∧ Logged s t 0xFFFF)
    ∧ ((s.ring.pb.nKnown = false ∨ s.ring.pb.up = false) →
        exec .jnlMrel s = o { j with mv := false, mslots := [], mhi := 0, stuck := false })
    ∧ (∀ v : W64, j.pen = false → jnlInfl s = false → j.held = 0 →
        let n := if v = 0#64 then 1#64 else v
        exec (.jnlNext v) s = o { atPosition j n s.now with
          next := n, repl := n - 1#64, hbm := n - 1#64, host := n - 1#64, dur := n - 1#64, appended := [], replSince := s.now })
    ∧ (∀ v, (j.pen = true ∨ jnlInfl s = true ∨ j.held ≠ 0) → exec (.jnlNext v) s = .next s)
    ∧ (∀ v : W64, ∃ d : W64, d.toNat = max j.dur.toNat (min v.toNat (if j.hde then j.host.toNat else j.hbm.toNat))
        ∧ exec (.jnlDur v) s = o { j with dur := d, repl := if j.rpe && !j.rep then d else j.repl })

/-- The copies and the power failure (R257, R259, R260, R268 to R270): the next entry goes from the own tail to its slot of the HBM
region, and from there to its slot of the host ring in one posted write of the PF, each only while the slot is durable;
PFAIL_N stops postings and tells the cores, once, and freezes a device in Dormant at once (R519); the freeze follows after 45 us or as soon as nothing is left to push. -/
def Sys2Proof.Claims.JournalCopiesAndPowerFailure : Prop :=
  (∀ (s : State) (ws : List W16),
    let j := s.jnl; let q := j.hbm.toNat + 1; let pa := regionAt s q
    s.jnlWorks = true → RegionOk s → Entry s q ws → q ≤ j.dur.toNat + 2 ^ j.logh.toNat → s.mustWait srcJournal pa = false →
    s.hbm.injArm = false → s.hbm.parErr = 0#2 →
    exec .journalHbmCopy s = .next { s.gotTask srcJournal .data with
      phys := s.phys.write pa ws, hbmEcc := s.hbmEcc.set (pa / 16) 0#32, jnl := { j with hbm := j.hbm + 1#64 } })
  ∧ (∀ s : State,
    let j := s.jnl; let q := j.host.toNat + 1; let pa := regionAt s q
    s.jnlWorks = true → s.pins.phase = .running → j.hde = true → 8 ≤ j.logq.toNat → j.logq.toNat ≤ 24 → RegionOk s →
    s.host.lup = true → s.host.cfg[(0 : FnId)].bme = true → q ≤ j.hbm.toNat → q ≤ j.dur.toNat + 2 ^ j.logq.toNat →
    s.mustWait srcJournal pa = false → s.hbm.parErr = 0#2 → s.hbmEcc.get (pa / 16) = 0#32 →
    exec .hostDrain s = .next { s.gotTask srcJournal .drain with
      out := s.out ++ [.hostWrite 0 (j.qaddr.toNat * 4096 + q % 2 ^ j.logq.toNat * 32) (bytesOfWords (s.phys.read pa 16)) false]
      jnl := { j with host := j.host + 1#64 } })
  ∧ (∀ s : State,
    (s.stw.hsf = false → s.jnl.pf = false → s.awake = true → s.ring.st ∈ [RingSt.off, .joined, .left] →
      ∃ t, exec .pfail s = .next t ∧ t.jnl = { s.jnl with
          pf := true, pfSince := s.now, frz := s.jnl.frz || decide (s.pwr.st = .dormant) } ∧ t.pins = { s.pins with pfailN := false }
        ∧ (∀ q : QuireId, (t.quire q).routes[44].pnd = true ∧ (0x05#8 ++ 0#48) ∈ (t.quire q).routes[44].msgs)
        ∧ t.cores = s.cores ∧ t.phys = s.phys ∧ t.ring = s.ring)
    ∧ ((s.stw.hsf = true ∨ s.jnl.pf = true) → exec .pfail s = .next { s with pins := { s.pins with pfailN := false } }))
  ∧ (∀ s : State,
    let due := s.jnl.pfSince + 40500 ≤ s.now ∨ (jnlInfl s = false ∧ (s.jnl.held = 0 ∨ (s.jnl.rep = true ∧ s.jnl.last ≤ s.jnl.repl.toNat)
      ∨ ¬ (s.ring.pa.up = true ∧ s.ring.byp = false ∧ s.ring.st = .joined)))
    (s.jnl.pf = true → s.jnl.frz = false → s.stw.hsf = false → due → exec .freeze s =
      .next { s with jnl := { s.jnl with frz := true }, hbm := { s.hbm with sr := s.hbm.sr || s.pwr.trip } })
    ∧ (¬ due → exec .freeze s = .next s))

/-- What the predecessor sends (R435, R438 to R440): four waiting entries in one sheet, or the 1 to 3 of which the oldest has waited
16 ns since its append or since sending began again; an
acknowledgement above JNL_REPL raises it, and a lower one is ignored; a RESEND above it, or 5 us without progress, begins
sending again from there and counts in RSND, and one at or below it is answered by a DUR, but not in INSERT, where nothing is
sent (R448); a changed JNL_DUR goes out in a DUR at most every 10 us. -/
def Sys2Proof.Claims.Predecessor : Prop :=
  (∀ (s : State) (n : Nat) (es : List (List W16)), Sending s →
    let j := s.jnl; let q := j.sendPos; let waiting := j.next.toNat - q.toNat
    1 ≤ n → es.length = n → q.toNat + n < 2 ^ 64 → (∀ i < n, Entry s (q.toNat + i) (es.getD i [])) →
    let sent := sendSheet s .a 1 s.ring.pos (BitVec.ofNat 3 n) (BitVec.ofNat 48 q.toNat) (some es.flatten)
    let t := { sent with jnl := { j with
      sendPos := q + BitVec.ofNat 64 n, replSince := if q.toNat ≤ j.repl.toNat + 1 then s.now else j.replSince } }
    (4 ≤ waiting → n = 4 → exec .journalSheetSend s = .next t)
    ∧ (n = waiting → n < 4 → max j.restart (j.appended.getD (n - 1) 0) + 15 ≤ s.now → exec .journalSheetTimer s = .next t))
  ∧ (∀ (s : State) (bs : List Block) (h : Hdr) (ws : List W16) (v : Nat), Hears s .a bs h ws → h.typ = 2#4 →
    let j := (heard s .a).jnl
    h.sseq = BitVec.ofNat 48 v → v ≤ j.last →
    (s.jnl.rep = true → j.repl.toNat < v → v < j.repl.toNat + 2 ^ 47 →
      exec (.acknowledgement bs) s = .next { heard s .a with
        jnl := { (if j.sendPos.toNat ≤ v then { j with sendPos := BitVec.ofNat 64 (v + 1) } else j) with
          repl := BitVec.ofNat 64 v, replSince := s.now } })
    ∧ (v ≤ j.repl.toNat → j.repl.toNat < v + 2 ^ 47 → exec (.acknowledgement bs) s = .next (heard s .a)))
  ∧ (∀ (s : State) (bs : List Block) (h : Hdr) (ws : List W16) (q : Nat), Hears s .a bs h ws → h.typ = 5#4 →
    let j := (heard s .a).jnl
    h.sseq = 4#8 ++ BitVec.ofNat 40 q →
    (j.rep = true → j.repl.toNat < q → q < j.repl.toNat + 2 ^ 39 → q ≤ j.next.toNat →
      exec (.resend bs) s = .next ({ heard s .a with
        jnl := { atPosition j (BitVec.ofNat 64 q) s.now with replSince := s.now } }.modRp .a
          (fun r => { r with rsnd := sat16 r.rsnd })))
    ∧ (q ≤ j.repl.toNat → j.repl.toNat < q + 2 ^ 39 →
      (Talks s → exec (.resend bs) s = .next (sendDur (heard s .a)))
      ∧ (¬ Talks s → exec (.resend bs) s = .next (heard s .a))))
  ∧ (∀ s : State, Sending s →
    let j := s.jnl
    (j.repl.toNat + 1 < j.sendPos.toNat → j.replSince + 4500 ≤ s.now →
      exec .resendTimeout s = .next ({ s with jnl := { atPosition j (j.repl + 1#64) s.now with replSince := s.now } }.modRp .a
        (fun r => { r with rsnd := sat16 r.rsnd })))
    ∧ (s.ring.pa.up = true → j.dur ≠ j.durSent → j.durSince + 9000 ≤ s.now → exec .durSend s = .next (sendDur s)))

/-- What the successor does with a journal sheet (R258, R437, R438): an entry at E goes into its free mirror slot, E moves past it and
an acknowledgement goes out; a duplicate is dropped; one beyond E, or at a slot that is not free, is dropped with the rest,
and the gap is asked for again; a DUR of the source frees slots and moves E past what is durable, and where E waited for a slot
that is free now, E is asked for again; the acknowledgement is repeated while the
mirror holds entries, one that JNL_DUR has freed among them (R258, R262). -/
def Sys2Proof.Claims.Successor : Prop :=
  (∀ (s : State) (bs : List Block) (h : Hdr) (ws : List W16) (q : Nat), Hears s .b bs h ws → sourceOk s = true → h.typ = 1#4 →
    let t := heard s .b; let j := s.jnl; let e := j.expect.toNat; let slot := j.mslots.get (q % 65536)
    h.n = 1#3 → h.sseq = BitVec.ofNat 48 q → q < 2 ^ 64 - 1 → e < q + 2 ^ 47 → q < e + 2 ^ 47 → ws.length = 64 →
    (q = e → slot = 0#64 → ∃ marks, exec (.journalSheetReceive bs) s = .next (sendAck { t with
        phys := s.phys.write (0x900100000 + q % 65536 * 16) (ws.take 16), jnlMark := marks
        jnl := { j with mslots := j.mslots.set (q % 65536) (BitVec.ofNat 64 q), mhi := BitVec.ofNat 64 q
                        expect := BitVec.ofNat 64 (q + 1) } }))
    ∧ (q < e → exec (.journalSheetReceive bs) s = .next t)
    ∧ (q = e → slot ≠ 0#64 → exec (.journalSheetReceive bs) s = .next { t with jnl := { j with stuck := true } })
    ∧ (e < q → exec (.journalSheetReceive bs) s = .next
        (if j.resendFor = j.expect ∧ s.now < j.resendSince + 900 then t
         else
          let a := sendControl t .b 4 (BitVec.ofNat 40 e) none
          { a with jnl := { a.jnl with resendFor := j.expect, resendSince := s.now } })))
  ∧ (∀ (s : State) (bs : List Block) (h : Hdr) (ws : List W16) (d : W64), Hears s .b bs h ws → sourceOk s = true → h.typ = 5#4 →
    h.sseq = 3#8 ++ 0#40 → h.p = true → d = quadOf (ws.take 4) →
    let j := { s.jnl with
      pdur := d, mslots := s.jnl.mslots.filter (fun e => decide (d.toNat < e.2.toNat))
      expect := if s.jnl.expect.toNat ≤ d.toNat then d + 1#64 else s.jnl.expect }
    ((s.jnl.stuck = false ∨ j.mslots.get (j.expect.toNat % 65536) ≠ 0#64) →
      exec (.dur bs) s = .next { heard s .b with jnl := j })
    ∧ (s.jnl.stuck = true → j.mslots.get (j.expect.toNat % 65536) = 0#64 →
        let a := sendControl { heard s .b with jnl := { j with stuck := false } } .b 4 (BitVec.ofNat 40 j.expect.toNat) none
        exec (.dur bs) s = .next { a with jnl := { a.jnl with resendFor := j.expect, resendSince := s.now } }))
  ∧ (∀ s : State, sourceOk s = true → s.ringSends = true → s.awake = true → s.jnl.mhi ≠ 0#64 → s.jnl.ackSince + 900 ≤ s.now →
    let a := sendSheet s .b 2 s.ring.pos 0 (BitVec.ofNat 48 (s.jnl.expect - 1#64).toNat) none
    exec .ackRepeat s = .next { a with jnl := { a.jnl with ackSince := s.now } })

/-- The journal between two devices, from the predecessor's side and from the successor's (R258, R435, R437 to R440).
Choices of the model on which clauses of it rest: notes/assumptions 65, 68, 70, 72, 155, 198. -/
def Obligations.JournalSheets : Prop := Claims.Predecessor ∧ Claims.Successor

/-- The journal unit of one device (R257, R259 to R266, R268 to R270).
Choices of the model on which clauses of it rest: notes/assumptions 64, 66, 67, 69, 71, 73, 74, 212, 213. -/
def Obligations.JournalUnit : Prop := Claims.JournalPorts ∧ Claims.JournalCopiesAndPowerFailure

namespace Sys2Proof.Claims

/-- A ring port once the bypass is closed (R446). -/
def portDown (r : RingPort) : RingPort :=
  { r with up := false, lost := none, hello := false, nKnown := false, tagRun := 0, enc := false }

/-- t is s with the bypass closed, replication ended, and then these ring registers (R264, R265, R446): where replication was in
effect with RPE set, the fallback is told. -/
def Closed (s t : State) (g : Ring) : Prop :=
  t.ring = g ∧ g.byp = true ∧ g.acc = false
  ∧ t.jnl = { s.jnl with
      rep := false, repl := if s.jnl.rpe then s.jnl.dur else s.jnl.repl, fbSig := s.jnl.fbSig || (s.jnl.rep && s.jnl.rpe) }
  ∧ (s.jnl.rep = true → s.jnl.rpe = true → ToldOfJournal t 0x03 ∧ t.host.evt.getLsbD 0 = true)
  ∧ (s.jnl.rep = false → t.quires = s.quires ∧ t.host = s.host)
  ∧ t.cores = s.cores ∧ t.phys = s.phys

/-- The ring registers of a device with its bypass closed. -/
def closed (g : Ring) : Ring := { g with byp := true, acc := false, pa := portDown g.pa, pb := portDown g.pb }

/-- The ring registers on entry to a state (R448). -/
def entering (g : Ring) (st : RingSt) (now : Nat) : Ring := { g with st := st, since := now, clean := none, censusSent := false }

/-- The ring registers on entry to LISTEN: traffic is clean from the moment at which both ports are locked (R448). -/
def listening (g : Ring) (now : Nat) : Ring :=
  { entering g .listen now with clean := if g.pa.locked && g.pb.locked then some now else none }

/-- The ring registers after a leave that uses a join attempt (R443): LISTEN while RJN is below RJMAX, else LEFT. -/
def retried (g : Ring) (why : BitVec 4) (now : Nat) : Ring :=
  let n : BitVec 4 := if g.rjn = 15#4 then 15#4 else g.rjn + 1#4
  let c := { closed g with why := why, rjn := n }
  if n.toNat < g.rjmax.toNat then listening c now else entering c .left now

/-- A device in OFF may go to LISTEN (R446, R448, R450, R515). -/
def MayListen (s : State) : Prop :=
  s.ring.st = .off ∧ s.ring.pv = true ∧ s.hbm.rdy = true ∧ s.jnl.pf = false ∧ s.stw.hsf = false ∧ s.pwr.st ≠ .dormant
  ∧ s.pwr.move ≠ .toDormant ∧ s.pins.phase = .running

/-- Port p, not lost so far, has stayed without its valid sheets (R442). -/
def LostNow (s : State) (p : RPort) : Prop :=
  s.ring.byp = false ∧ (s.rp p).lost = none ∧ ((s.rp p).lastRx + 90000 ≤ s.now ∨ 16 ≤ (s.rp p).tagRun)

end Sys2Proof.Claims

/-! ### The ring -/

/-- A sheet that a port without encryption sends is the sheet that such a port receives (R429 to R433, R441): the CRC over header,
payload and trailer holds, and the header and the payload come back: of an acknowledgement, tag or calibration sheet, of a journal
sheet that carries its first entry's sequence number, and of a control sheet with a listed code. A journal sheet with another
number and a control sheet with a reserved code are in error.
Choices of the model on which clauses of it rest: notes/assumptions 76. -/
def Obligations.SheetsComeBack : Prop :=
  (∀ (s : State) (p : RPort) (typ src : BitVec 4) (n : BitVec 3) (sseq : BitVec 48) (payload : Option (List W16)) (slot : KeySlot),
    s.ringSends = true → (s.rp p).enc = false → 1 ≤ typ.toNat → typ.toNat ≤ 5 →
    let ws := match payload with | some ws => padTo 64 ws | none => []; let code := sseq.toNat / 2 ^ 40
    let first : BitVec 48 := BitVec.ofNat 48 (quadOf (ws.take 4)).toNat
    ∃ bs, sendSheet s p typ src n sseq payload = { s.modRp p (fun r => { r with lastTx := s.now }) with out := s.out ++ [.sheet p bs] }
      ∧ ((typ = 1#4 → sseq = first) → (typ = 5#4 → 1 ≤ code ∧ code ≤ 6) →
          openSheet false slot bs = .ok ⟨typ, src, payload.isSome, n, sseq⟩ ws)
      ∧ ((typ = 1#4 ∧ sseq ≠ first) ∨ (typ = 5#4 ∧ (code = 0 ∨ 6 < code)) → openSheet false slot bs = .error))
  ∧ (∀ h : Hdr, Hdr.ofBits h.bits = h)

/-- RING_CTL and RING_EN (R443, R446, R448): JEN rising, RING_EN high let a device in OFF begin to listen, with RJN at 0 for JEN; JEN
falling sends LEAVE on both ports while the bypass is open, closes it and goes to OFF with the reason; RING_EN low does so
without a LEAVE and leaves OFF and LEFT alone; RJR only clears RJN. In Dormant a write of RING_CTL is discarded and sets DAX (R516). -/
def Sys2Proof.Claims.RingControl : Prop :=
  ∀ s : State,
    let g := s.ring; let g1 := { g with jen := true, rjn := 0 }; let low := { s with pins := { s.pins with ringEn := false } }
    (s.spineRuns = true →
      (exec .ringRjr s = .next { s with ring := { g with rjn := 0 } })
      ∧ (g.jen = true → exec .ringJenSet s = .next s)
      ∧ (g.jen = false → MayListen s → s.pins.ringEn = true → exec .ringJenSet s = .next { s with ring := listening g1 s.now })
      ∧ (g.jen = false → (¬ MayListen s ∨ s.pins.ringEn = false) → exec .ringJenSet s = .next { s with ring := g1 })
      ∧ (g.jen = false → exec .ringJenClear s = .next s)
      ∧ (g.jen = true → g.st = .off → exec .ringJenClear s = .next { s with ring := { g with jen := false } })
      ∧ (g.jen = true → g.st ≠ .off → ∃ t, exec .ringJenClear s = .next t
          ∧ (let u := if g.byp then s else sendControl (sendControl s .a 6 0 none) .b 6 0 none
             Closed s t (entering { closed u.ring with jen := false, why := 1 } .off s.now))))
    ∧ (s.spineRuns = false → ∀ i ∈ [Instr.ringRjr, .ringJenSet, .ringJenClear],
        exec i s = .next { s with pwr := { s.pwr with dax := true } })
    ∧ (g.st = .off ∨ g.st = .left → exec .ringEnLow s = .next low)
    ∧ (g.st ≠ .off → g.st ≠ .left → ∃ t, exec .ringEnLow s = .next t ∧ t.pins = low.pins
        ∧ Closed s t (entering { closed g with why := 2 } .off s.now))
    ∧ (g.jen = true → MayListen s → exec .ringEnHigh s =
        .next { s with pins := { s.pins with ringEn := true }, ring := listening g s.now })
    ∧ ((g.jen = false ∨ ¬ MayListen s) → exec .ringEnHigh s = .next { s with pins := { s.pins with ringEn := true } })

/-- The states of a join and its failures (R442, R443, R448): LISTEN ends in INSERT, with the bypass open and the encryption settings
taken, after its time; INSERT in HELLO once both ports are aligned, with HELLO on both; HELLO without both exchanges for 1 ms,
and a port lost for LVT, use an attempt. -/
def Sys2Proof.Claims.Joining : Prop :=
  ∀ s : State,
    let g := s.ring
    let due := (∃ t, g.clean = some t ∧ t + 900000 + g.pos.toNat * 90000 ≤ s.now) ∨ g.since + 1800000 + g.pos.toNat * 900000 ≤ s.now
    let opened := fun (r : RingPort) (enc : Bool) =>
      { portDown r with lk := 0, algn := false, enc := enc, lastRx := s.now, lastTx := s.now }
    (g.st = .listen → due → exec .ringInsert s = .next { s with ring :=
        { entering g .insert s.now with byp := false, pa := opened g.pa g.enca, pb := opened g.pb g.encb } })
    ∧ ((g.st ≠ .listen ∨ ¬ due) → exec .ringInsert s = .next s)
    ∧ (g.st = .insert → g.pa.locked = true → g.pb.locked = true → g.pa.hello = false → exec .ringHelloStart s =
        .next (sendHello (sendHello { s with ring := entering g .hello s.now } .a false false) .b false false))
    ∧ (g.st = .hello → g.since + 900000 ≤ s.now → s.jnl.pf = false → ∃ t, exec .helloTimeout s = .next t
        ∧ Closed s t (retried g 7 s.now))
    ∧ ((g.st ≠ .hello ∨ s.now < g.since + 900000) → exec .helloTimeout s = .next s)
    ∧ (∀ (p : RPort) since, g.byp = false → (s.rp p).lost = some since → since + g.lvt.toNat * 900000 ≤ s.now → s.jnl.pf = false →
        ∃ t, exec .ringLeave s = .next t ∧ Closed s t (retried g 3 s.now))
    ∧ (g.pa.lost = none → g.pb.lost = none → exec .ringLeave s = .next s)

/-- The lanes (R442, R448): lock and its loss change the port and, in LISTEN, restart the clean time; a relock is counted, and HELLO
goes out again; a port without valid sheets for 100 us, or with 16 tags failed, is lost, which at port A ends replication,
and source 43 tells of it. -/
def Sys2Proof.Claims.Lanes : Prop :=
  ∀ (s : State) (p : RPort),
    let g := s.ring
    (g.st ≠ .listen →
      exec (.lanesLocked p) s = .next (s.modRp p (fun r => { r with lk := 0xF, algn := true }))
      ∧ exec (.lossOfLock p) s = .next (s.modRp p (fun r => { r with lk := 0, algn := false })))
    ∧ (g.st = .listen → ∃ t, exec (.lossOfLock p) s = .next t ∧ t.ring.clean = none
        ∧ t = { s.modRp p (fun r => { r with lk := 0, algn := false }) with ring := t.ring })
    ∧ (g.byp = false → (g.st = .hello ∨ g.st = .census ∨ g.st = .joined) → exec (.relock p) s =
        .next (sendHello (s.modRp p (fun r => { r with
          lk := 0xF, algn := true, rlk := if r.lost = none ∧ r.rlk ≠ 0xFFFF then r.rlk + 1 else r.rlk })) p false false))
    ∧ (LostNow s p → ∃ t, exec (.portLost p) s = .next t
        ∧ t.ring = (s.modRp p (fun r => { r with up := false, hello := false, lost := some s.now, tagRun := 0 })).ring
        ∧ (∀ q : QuireId, (t.quire q).routes[43].pnd = true ∧ (0x02#8 ++ 0#48) ∈ (t.quire q).routes[43].msgs)
        ∧ (p = .a → t.jnl.rep = false ∧ (s.jnl.rep = true → s.jnl.rpe = true → ToldOfJournal t 0x03))
        ∧ (p = .b → t.jnl = s.jnl) ∧ t.cores = s.cores ∧ t.phys = s.phys)
    ∧ (¬ LostNow s p → exec (.portLost p) s = .next s)

/-- How a device comes to the ring, stays on it and leaves it (R442, R443, R446, R448). -/
def Sys2Proof.Claims.RingMembership : Prop := Claims.RingControl ∧ Claims.Joining ∧ Claims.Lanes

/-- HELLO (R433, R442, R444, R449): one with this port's encryption setting brings the port up with its sender's position and serial
number; a first one at port B brings the predecessor's JNL_DUR, may be accepted as mirror source, whose durable slots are then
free (R258, R266, R437), and is answered with the acceptance. With another setting the neighbours do not come up, and ENCM is set. -/
def Sys2Proof.Claims.Hello : Prop :=
  ∀ (s : State) (bs : List Block) (h : Hdr) (ws : List W16), Hears s .b bs h ws → h.typ = 5#4 → h.sseq = 1#8 ++ 0#40 → h.p = true →
    helloInOtherForm s .b bs = false → s.ring.st = .census → ws.length = 64 →
    let serial := quadOf (ws.take 4); let w := ws.getD 4 0; let pos : BitVec 4 := BitVec.ofNat 4 w.toNat
    let up := (heard s .b).modRp .b (fun r => { r with
      nPos := pos, nSerial := serial, nKnown := true, up := true, hello := true, lost := none })
    let j := { s.jnl with pdur := quadOf ((ws.drop 8).take 4) }
    let accepts := serial ≠ s.serial ∧ (s.jnl.mv = false ∨ s.jnl.msrc = pos)
    (w.getLsbD 4 = s.ring.pb.enc → s.ring.pb.nKnown = false → w.getLsbD 5 = false →
      (accepts → exec (.hello .b bs) s = .next (sendHello { up with jnl := { j with
          mv := true, msrc := pos, expect := j.pdur + 1#64, stuck := false, resendFor := 0
          mslots := j.mslots.filter (fun e => decide (j.pdur.toNat < e.2.toNat)) } } .b true true))
      ∧ (¬ accepts → exec (.hello .b bs) s = .next (sendHello { up with jnl := j } .b true false)))
    ∧ (w.getLsbD 4 ≠ s.ring.pb.enc → s.jnl.rep = false → s.jnl.rpe = false → ∃ t, exec (.hello .b bs) s = .next t
      ∧ t.ring.encm = true ∧ t.ring.pb.up = false ∧ t.ring.pb.hello = false ∧ t.ring.st = .census ∧ t.cores = s.cores ∧ t.jnl = s.jnl)

/-- CENSUS (R448): another device's goes on with this device's entry added, unless it is there already; its own that comes back in state CENSUS gives the list,
and the device is JOINED, or with two serial numbers at one position leaves with DUP set. -/
def Sys2Proof.Claims.Census : Prop :=
  ∀ (s : State) (bs : List Block) (h : Hdr) (ws : List W16), Hears s .b bs h ws → h.typ = 5#4 → h.sseq = 2#8 ++ 0#40 → h.p = true →
    s.ring.st = .census →
    let l := censusList ws; let own := (s.ring.pos, s.serial.setWidth 56)
    let dup := ∃ x ∈ l, ∃ y ∈ l, x.1 = y.1 ∧ x.2 ≠ y.2
    let g := { (heard s .b).ring with members := l, nmem := BitVec.ofNat 5 l.length }
    (own ∉ l → exec (.census bs) s = .next (sendSheet (heard s .b) .a 5 h.src 0 (2#8 ++ 0#40)
        (some (((l ++ [own]).take 16).flatMap (fun e => wordsOf (0x8#4 ++ e.1 ++ e.2))))))
    ∧ (h.src ≠ s.ring.pos → own ∈ l → exec (.census bs) s = .next (heard s .b))
    ∧ (h.src = s.ring.pos → own ∈ l → s.ring.censusSent = true → ¬ dup → ∃ t, exec (.census bs) s = .next t
        ∧ t.ring = entering g .joined s.now
        ∧ ∀ q : QuireId, (t.quire q).routes[43].pnd = true ∧ (0x01#8 ++ 0#48) ∈ (t.quire q).routes[43].msgs)
    ∧ (h.src = s.ring.pos → own ∈ l → s.ring.censusSent = true → dup → s.jnl.pf = false → ∃ t, exec (.census bs) s = .next t
        ∧ Closed s t (retried { g with dup := true, censusSent := false } 4 s.now))

/-- Keys, keepalive and calibration (R434, R444, R445): KEYSW switches the receiver's slot and restarts its count; a port idle for 1 us
sends one keepalive; a calender slot sends two calibration sheets, whose other words than 0 to 7 are 0, and counts; a
calibration sheet adds its trims to the transmitter's, lane by lane. -/
def Sys2Proof.Claims.Upkeep : Prop :=
  (∀ (s : State) (p : RPort) (bs : List Block) (h : Hdr) (ws : List W16) (k : Fin 2), Hears s p bs h ws → h.typ = 5#4 →
    h.sseq = 5#8 ++ BitVec.ofNat 40 k.val → ∀ x : KeySlot, x = { ((heard s p).rp p).rx[k] with count := 0 } →
    exec (.keysw p bs) s = .next ((heard s p).modRp p (fun r => { r with rxSlot := k, rx := r.rx.set k x })))
  ∧ (∀ (s : State) (p : RPort), s.awake = true → (s.ring.st = .hello ∨ s.ring.st = .census ∨ s.ring.st = .joined) →
    ((s.rp p).lastTx + 900 ≤ s.now → exec (.keepalive p) s = .next (sendSheet s p 3 s.ring.pos 0 0 none))
    ∧ (s.now < (s.rp p).lastTx + 900 → exec (.keepalive p) s = .next s)
    ∧ (s.ring.byp = false → s.jnl.pf = false → s.tmr ≠ 0 → s.tmr.toNat % 900000 = 0 → (s.rp p).calAt ≠ s.tmr →
      ∃ m f1 f2 w1 w2,
        let a := { s.modRp p (fun r => { r with calAt := s.tmr, mrg := m }) with freeCount := f1 }
        let b := { sendSheet a p 4 s.ring.pos 0 0 (some w1) with freeCount := f2 }
        exec (.calenderSlot p) s = .next ((sendSheet b p 4 s.ring.pos 0 0 (some w2)).modRp p (fun r => { r with slots := r.slots + 1 }))
        ∧ ∀ w ∈ [w1, w2], w.length = 8
          ∧ (∀ i < 4, ((w.getD i 0).toNat / 256 ∈ [0, 1, 255]) ∧ ((w.getD i 0).toNat % 256 ∈ [0, 1, 255]))
          ∧ (∀ i < 4, (w.getD (4 + i) 0).toNat = m.toNat / 2 ^ (8 * i) % 256)))
  ∧ (∀ (s : State) (p : RPort) (bs : List Block) (h : Hdr) (ws : List W16), Hears s p bs h ws → h.typ = 4#4 → h.p = true →
    ∃ t e, exec (.calibrationSheet p bs) s = .next ((heard s p).modRp p (fun r => { r with trim := t, txEye := e }))
      ∧ (∀ l < 4, t.toNat / 2 ^ (16 * l + 8) % 256 =
          ((s.rp p).trim.toNat / 2 ^ (16 * l + 8) + (ws.getD l 0).toNat / 256) % 256
        ∧ t.toNat / 2 ^ (16 * l) % 256 = ((s.rp p).trim.toNat / 2 ^ (16 * l) + (ws.getD l 0).toNat) % 256)
      ∧ ∀ l < 4, e.toNat / 2 ^ (8 * l) % 256 = (ws.getD (4 + l) 0).toNat % 256)

/-- What a port makes of the control and calibration sheets, and what it sends by itself (R433, R434, R442, R444, R445, R448,
R449). -/
def Sys2Proof.Claims.RingSheets : Prop := Claims.Hello ∧ Claims.Census ∧ Claims.Upkeep

/-- The ring (R433, R434, R442 to R446, R448, R449).
Choices of the model on which clauses of it rest: notes/assumptions 78, 79, 80, 82, 83, 84, 85, 86, 155. -/
def Obligations.RingConduct : Prop := Claims.RingMembership ∧ Claims.RingSheets

namespace Sys2Proof.Claims

/-- The stack is ready and out of self-refresh, the device works and its spine is clocked (R19, R421, R424). -/
def StackRuns (s : State) : Prop :=
  s.hbm.rdy = true ∧ s.hbm.sr = false ∧ s.stw.hsf = false ∧ s.awake = true ∧ s.pwr.spine = true

/-- An access to port p that enters now waits for nothing: no older IN, OUT or access stands at the port's block, and none of its own
sender waits. That the host's and the Steward's accesses are taken in the order in which they come is the model's choice
(notes/assumptions/217.md). -/
def NoneOlder (s : State) (who : Accessor) (p : Nat) : Prop :=
  let now : Age := ⟨s.now, accSource who, s.stamp, s.stamp⟩
  (∀ c : CoreId, ∀ o ∈ (s.core c).longs, ∀ q e, o.op = .devIn q → o.res = none → o.entry = some e → blockOf q.toNat = blockOf p →
    (e.age (srcCore c) o.stamp).before now = false)
  ∧ (∀ c : CoreId, ∀ o ∈ (s.core c).outq, (blockOf o.port.toNat = blockOf p ∨ who = .core c) →
    (o.entry.age (srcCore c) o.stamp).before now = false)
  ∧ ∀ a ∈ s.accs, (a.who = who ∨ blockOf p ∈ a.blocks) → a.age.before now = false

/-- A memory request of the host to a BAR of function f is served (R453, R454). -/
def Reaches (s : State) (f : FnId) : Prop :=
  s.host.lup = true ∧ s.stw.hsf = false ∧ s.pins.phase = .running ∧ f.val ≤ s.host.nvf.toNat ∧ s.host.cfg[f].mse = true

/-- The port value that the host's quad write carries: byte 0 is the lowest (R565). -/
def quadOfBytes (bs : List Byte) : W64 := BitVec.ofNat 64 (bs.foldr (fun b n => b.toNat + 256 * n) 0)

/-- Camwin issues requests for queue pair n of an owner that may (R458, R460, R462, R469). -/
def CamReady (s : State) (n : QpId) : Prop :=
  let x := s.qp n
  s.live = true ∧ s.jnl.pf = false ∧ s.pwr.st ≠ .dormant ∧ s.stw.bst ≠ .vendor ∧ s.host.lup = true ∧ x.en = true
  ∧ s.host.cfg[x.act.fn].bme = true

/-- Core c may be a target of queue pair n (R462). -/
def Target (s : State) (x : QueuePair) (c : CoreId) : Prop :=
  x.cores.getLsbD c.val = true ∧ (s.core c).ctl.cks = false ∧ (s.core c).ctl.iso = false

/-- The target chosen: the next after the one chosen last, wrapping; the first from core 0 (R463). -/
def NextTarget (s : State) (x : QueuePair) (c : CoreId) : Prop :=
  Target s x c ∧
  match x.lastCore with
  | none => ∀ d, d < c → ¬ Target s x d
  | some p =>
    (p < c ∧ ∀ d, p < d → d < c → ¬ Target s x d) ∨ ((∀ d, p < d → ¬ Target s x d) ∧ ∀ d, d < c → ¬ Target s x d)

/-- The message of vector v of function f goes out, or becomes pending while the vector is masked or the function may not issue
requests; a function whose MSI-X is not enabled signals nothing (R458, R466); `t` is the device before it. -/
def Signalled (t : State) (f : FnId) (v : BitVec 7) : State :=
  if t.host.cfg[f].msixEn = false then t
  else if msixMasked t f v = true ∨ t.host.cfg[f].bme = false then
    { t with host := { t.host with pba := t.host.pba.set (128 * f.val + v.toNat) 1#1 } }
  else if t.host.lup then
    { t with out := t.out ++ [.msix f v.toNat
      ((t.host.msix.get (512 * f.val + 4 * v.toNat + 1)).toNat * 2 ^ 32 + (t.host.msix.get (512 * f.val + 4 * v.toNat)).toNat)
      (t.host.msix.get (512 * f.val + 4 * v.toNat + 2))] }
  else t

/-- The entries of the submission queue and of the completion queue that are taken (R462). -/
def freeCqEntries (x : QueuePair) : Nat := x.cqn.toNat - 1 - (x.cqt.toNat + x.cqn.toNat - x.cqh.toNat) % x.cqn.toNat

end Sys2Proof.Claims

/-! ### The HBM controller -/

/-- Where words lie and what an armed injection does (R406, R408, R409, R411, R417): a word address and a place in the stack say
each other, two neighbouring bursts of a line are in one row of one bank of one pseudo-channel, and the section's example
holds, the word 0x1_2345_6789 and the line of it; a whole burst stored under an injection of one or two bytes reads corrected, and as it was written, in the modes that
correct as many symbols, and uncorrectable in the others; one stored poisoned reads so; one parity error of a command is counted
and the command issued again, and a second one makes the burst uncorrectable. -/
def Sys2Proof.Claims.Stack : Prop :=
  (∀ a b : BitVec 34, hbmPlace a = hbmPlace b → a = b)
  ∧ (let x := hbmPlace 0x123456789#34
     x.word = 9 ∧ x.pc = 12 ∧ x.channel = 6 ∧ x.column = 0b00110 ∧ x.bank = 0x9 ∧ x.row = 0x11A2 ∧ x.stackId = 1
     ∧ (∀ a : BitVec 34, lineOf a.toNat = lineOf 0x123456789 ↔ 0x123456780 ≤ a.toNat ∧ a.toNat ≤ 0x12345679F)
     ∧ ∀ a : BitVec 34, lineOf a.toNat = lineOf 0x123456789 →
       let y := hbmPlace a; y.pc = x.pc ∧ y.bank = x.bank ∧ y.row = x.row ∧ y.stackId = x.stackId)
  ∧ (∀ a : BitVec 34, a.getLsbD 4 = false →
    let x := hbmPlace a; let y := hbmPlace (a ||| 16#34)
    x.pc = y.pc ∧ x.bank = y.bank ∧ x.row = y.row ∧ x.stackId = y.stackId ∧ x.word = y.word ∧ x.column.toNat + 1 = y.column.toNat)
  ∧ (∀ (s : State) (b : Nat) (ws : List W16), ws.length = 16 → s.hbm.parErr = 0 → s.hbm.injArm = true →
    s.hbm.injAddr.toNat / 16 = b →
    let t := hbmWrite s b ws; let m := s.hbm.injMode; let fixed := (List.range 16).map (fun i => wordAsRead t (16 * b + i))
    t.hbm = { s.hbm with injArm := false }
    ∧ (m = 0 → burstSt t b = .clean ∧ fixed = ws)
    ∧ (m = 1 → (s.hbm.cm ≠ 2 → (∃ err, burstSt t b = .corrected err) ∧ fixed = ws)
        ∧ (s.hbm.cm = 2 → burstSt t b = .uncorrectable)
        ∧ t.phys.get (16 * b) = ws.headD 0 ^^^ 0xFF00#16)
    ∧ (m = 2 → ((s.hbm.cm = 0 ∨ s.hbm.cm = 3) → (∃ err, burstSt t b = .corrected err) ∧ fixed = ws)
        ∧ ((s.hbm.cm = 1 ∨ s.hbm.cm = 2) → burstSt t b = .uncorrectable)
        ∧ t.phys.get (16 * b) = ws.headD 0 ^^^ 0xFFFF#16)
    ∧ (m = 3 → burstSt t b = .poisoned ∧ fixed = ws))
  ∧ (∀ (s : State) (b : Nat),
    let t := { s with hbm := { s.hbm with parErr := 0, parc := s.hbm.parc + 1 } }
    (s.hbm.parErr = 1 → hbmRead s b = hbmRead t b)
    ∧ (s.hbm.parErr = 2 → hbmRead s b = (hbmStored (countUncorrectable t b false false) b true, true)))

/-- Scrub, refresh, temperature and calender windows (R415, R417 to R421): the scrub reads the next burst in its turn, leaves a
clean or poisoned one and rewrites one that the mode corrects, which it counts, and steps HC_SCRUB, a pass ending with the last
burst; refresh keeps every content; a temperature sets HC_TEMP and the refresh interval of a controller that is clocked; a window opens at a multiple of
3,600,000 and closes after 900 cycles with its margins, counted. -/
def Sys2Proof.Claims.Controller : Prop :=
  (∀ s : State,
    let b := s.hbm.pos.toNat / 16; let p : Fin 16 := ⟨b / 2 % 16, by omega⟩; let h := s.hbm; let t := s.gotTask srcHbm .data
    let stepped := fun (h : Hbm) =>
      if s.hbm.pos.toNat + 16 < hbmWords s.part then { h with pos := BitVec.ofNat 36 (s.hbm.pos.toNat + 16) }
      else { h with pos := 0, pass := s.hbm.pass + 1 }
    StackRuns s → h.per ≠ 0 → s.mustWait srcHbm (b * 16) = false → h.parErr = 0 →
      ((burstSt s b = .clean ∨ burstSt s b = .poisoned) → exec .scrubRead s = .next { t with hbm := stepped h })
      ∧ ((∃ err, burstSt s b = .corrected err) → h.thr = 0 → h.injArm = false →
          exec .scrubRead s = .next { t with
            phys := s.phys.write (16 * b) ((List.range 16).map (fun i => wordAsRead s (16 * b + i)))
            hbmEcc := s.hbmEcc.set b 0#32
            hbm := stepped { h with ec := h.ec.set p { h.ec[p] with ce := if h.ec[p].ce = 0xFFFF#16 then 0xFFFF#16 else h.ec[p].ce + 1 } } }))
  ∧ (∀ s : State, (s.hbm.per = 0 ∨ ¬ StackRuns s) → exec .scrubRead s = .next s)
  ∧ (∀ s : State, s.mustWait srcHbm (s.hbm.pos.toNat / 16 * 16) = true → s.hbm.per ≠ 0 → StackRuns s →
    exec .scrubRead s = .next (s.await srcHbm .data (s.hbm.pos.toNat / 32)))
  ∧ (∀ s : State, exec .hbmRefresh s = .next s)
  ∧ (∀ (s : State) (t : BitVec 8), 
    (s.hbm.rdy = true → s.pwr.spine = true → exec (.hbmTempRead t) s = .next { s with hbm := { s.hbm with
      temp := t, tempV := true, tr := if t.toInt < 85 then 0 else if t.toInt < 95 then 1 else 2 } })
    ∧ ((s.hbm.rdy = false ∨ s.pwr.spine = false) → exec (.hbmTempRead t) s = .next s))
  ∧ (∀ s : State,
    let due := s.tmr ≠ 0 ∧ s.tmr.toNat % 3600000 = 0 ∧ StackRuns s ∧ s.hbm.cal = false ∧ s.jnl.pf = false
    (due → exec .calenderWindowOpen s = .next { s with hbm := { s.hbm with cal := true, calOpened := s.now } })
    ∧ (¬ due → exec .calenderWindowOpen s = .next s))
  ∧ (∀ (s : State) (w r : BitVec 8) (low : Bool),
    let t := { s with hbm := { s.hbm with cal := false, win := s.hbm.win + 1, wmin := w, rmin := r, low := low } }
    let open_ := s.hbm.cal = true ∧ s.hbm.calOpened + 900 ≤ s.now
    (open_ → (low = false ∨ s.hbm.low = true) → exec (.calenderWindowClose w r low) s = .next t)
    ∧ (open_ → low = true → s.hbm.low = false → exec (.calenderWindowClose w r low) s = .next (logEvent t .eyeLow 0xFFFF))
    ∧ (¬ open_ → exec (.calenderWindowClose w r low) s = .next s))

/-- The HBM controller (R406, R408, R409, R411, R415, R417 to R421).
Choices of the model on which clauses of it rest: notes/assumptions 87, 88, 89, 178, 189. -/
def Obligations.HbmController : Prop := Claims.Stack ∧ Claims.Controller

/-! ### The host -/

/-- What the host reads and writes through its BARs (R375, R453, R455, R457, R516, R562, R565, R566): a quad read of BAR0 brings the
port's bytes, lowest first, and a quad write its value, each after the older accesses at the port's block and the host's own older
ones, for which it waits (R17); another size or alignment of write only sets PWE; a quad that the
device does not serve in Dormant reads 0 or is ignored, and sets DAX; a read of BAR4 brings the Vat's bytes, in word order
with the high byte first, and a write is discarded and reported. Out of reach a read completes with an abort or as
unsupported, and no state changes. -/
def Sys2Proof.Claims.Bars : Prop :=
  (∀ (s : State) (p : Nat), Reaches s 0 → p < 0x800000 → failedBlock s p = none →
    let quad := fun (v : W64) => (List.range 8).map (fun i => BitVec.ofNat 8 (v.toNat / 2 ^ (8 * i)))
    let access := fun (v : Option W64) => PortAcc.mk .host (8 * p) 8 v s.now s.stamp
    (NoneOlder s .host p → ∀ r, s.pwr.spine = true → 0x100000 ≤ p → devPort p = some r → r.host = true →
      exec (.bar0Read (8 * p) 8) s = .next { s with out := s.out ++ [.cplData (quad (r.read s)) false] }
      ∧ ∀ bs, bs.length = 8 → exec (.bar0Write (8 * p) bs) s = .next (r.write s .host (quadOfBytes bs)))
    ∧ (NoneOlder s .host p → s.pwr.spine = true → (p < 0x100000 ∨ devPort p = none ∨ ∃ r, devPort p = some r ∧ r.host = false) →
      exec (.bar0Read (8 * p) 8) s = .next { s with out := s.out ++ [.cplData (quad 0) false] }
      ∧ ∀ bs, bs.length = 8 → exec (.bar0Write (8 * p) bs) s = .next s)
    ∧ (¬ NoneOlder s .host p →
      exec (.bar0Read (8 * p) 8) s = .next { s.stamped with accs := s.accs ++ [access none] }
      ∧ ∀ bs, bs.length = 8 →
          exec (.bar0Write (8 * p) bs) s = .next { s.stamped with accs := s.accs ++ [access (some (quadOfBytes bs))] })
    ∧ (∀ off bs, (bs.length ≠ 8 ∨ off % 8 ≠ 0) → off + bs.length ≤ 0x4000000 →
      exec (.bar0Write off bs) s = .next { s with host := { s.host with pwe := true } })
    ∧ (NoneOlder s .host p → s.pwr.spine = false → p < 0x700000 → (∀ n, devPort p ≠ some (.jnl n)) →
      let t := { s with pwr := { s.pwr with dax := true } }
      exec (.bar0Read (8 * p) 8) s = .next { t with out := s.out ++ [.cplData (quad 0) false] }
      ∧ ∀ bs, bs.length = 8 → exec (.bar0Write (8 * p) bs) s = .next t))
  ∧ (∀ (s : State) (off len : Nat), Reaches s 0 → s.host.b4e = true → s.host.reads = [] → off + len ≤ 0x2000000 → 0 < len →
    (∀ b, off / 64 ≤ b → b ≤ (off + len - 1) / 64 →
      s.vatMark.get b = 0#2 ∧ s.blocked ⟨s.now, srcPcie, s.stamp, s.stamp⟩ (0x40000000 + b) = false) →
    exec (.bar4Read off len) s = .next { s.stamped with out := s.out ++ [.cplData ((List.range len).map (fun i =>
      BitVec.ofNat 8 ((s.phys.get (0x800000000 + (off + i) / 2)).toNat / (if (off + i) % 2 = 0 then 256 else 1)))) false] })
  ∧ (∀ (s : State) (off : Nat) (bs : List Byte), Reaches s 0 →
    exec (.bar4Write off bs) s = .next { s with out := s.out ++ [.aerUnsupported] })
  ∧ (∀ (s : State) (off len : Nat) (bs : List Byte), s.host.lup = true →
    ((s.stw.hsf = true ∨ s.pins.phase ≠ .running) →
      exec (.bar0Read off len) s = .next { s with out := s.out ++ [.cplAbort] }
      ∧ exec (.bar4Read off len) s = .next { s with out := s.out ++ [.cplAbort] }
      ∧ exec (.bar0Write off bs) s = .next s ∧ exec (.bar4Write off bs) s = .next s)
    ∧ (s.stw.hsf = false → s.pins.phase = .running → s.host.cfg[(0 : FnId)].mse = false →
      exec (.bar0Read off len) s = .next { s with out := s.out ++ [.cplUnsupported] }
      ∧ exec (.bar4Read off len) s = .next { s with out := s.out ++ [.cplUnsupported] }))

/-- Configuration, MSI-X, Bus Master Enable and the link (R452, R453, R456, R458, R466, R468 to R470): requests before READY are asked to
retry; the command bits, the BARs with their size and type, the payload sizes and the MSI-X control change alone; a table entry is written, and a vector that is pending and may go now does; without Bus
Master Enable the owner's waiting queue pairs stop, and a request before READY that clears or sets it, or resets a function, is
asked to retry too; a link of 4, 8 or 16 lanes comes up, and one that goes down stops every
enabled queue pair. -/
def Sys2Proof.Claims.Functions : Prop :=
  (∀ (s : State) (f : FnId) (reg : BitVec 12) (v : Bool), s.host.lup = true →
    (s.answersConfig = false → ∀ r, exec (.configRequest f r) s = .next { s with out := s.out ++ [.cplRetry] })
    ∧ (s.answersConfig = true → f.val ≤ s.host.nvf.toNat →
      let with_ := fun (x : FnCfg) => { s with host := { s.host with cfg := s.host.cfg.set f x } }
      exec (.configRequest f (.memSpace v)) s = .next (with_ { s.host.cfg[f] with mse := v })
      ∧ (∀ z, exec (.configRequest f (.payload z)) s = .next (with_ { s.host.cfg[f] with mps := z })
        ∧ exec (.configRequest f (.readReq z)) s = .next (with_ { s.host.cfg[f] with mrrs := z }))
      ∧ (∀ m, (∀ u : BitVec 7, s.host.pba.get (128 * f.val + u.toNat) = 0#1) →
        exec (.configRequest f (.msix v m)) s = .next (with_ { s.host.cfg[f] with msixEn := v, fnMask := m }))
      ∧ (∀ (z : W64) (lo hi : BitVec 12) (r : BarNo) (size type : Nat), f = 0 →
        (r = .bar0 ∧ lo = 0x10 ∧ hi = 0x14 ∧ size = 0x4000000 ∧ type = 4
          ∨ r = .bar2 ∧ lo = 0x18 ∧ hi = 0x1C ∧ size = 0x4000 ∧ type = 4
          ∨ r = .bar4 ∧ lo = 0x20 ∧ hi = 0x24 ∧ size = 0x2000000 ∧ type = 0xC) →
        ∃ t, exec (.configRequest f (.bar r z)) s = .next t
          ∧ exec (.configRequest f (.read lo)) t = .next { t with out := s.out ++ [.cplConfig f lo (BitVec.ofNat 32 (z.toNat / size * size + type))] }
          ∧ exec (.configRequest f (.read hi)) t = .next { t with out := s.out ++ [.cplConfig f hi (BitVec.ofNat 32 (z.toNat / 2 ^ 32))] })
      ∧ ∃ x : BitVec 32, exec (.configRequest f (.read reg)) s = .next { s with out := s.out ++ [.cplConfig f reg x] }
        ∧ (reg = 0 → x.toNat / 2 ^ 16 = if f = 0 then 0x0640 else 0x0641)
        ∧ (reg = 4 → x.getLsbD 1 = s.host.cfg[f].mse ∧ x.getLsbD 2 = s.host.cfg[f].bme)
        ∧ (reg = 8 → x.toNat / 2 ^ 8 = 0x120000)))
  ∧ (∀ (s : State) (f : FnId) (v : BitVec 7) (dw : Fin 4) (x : BitVec 32), Reaches s f →
    let y := if dw.val = 3 then (x &&& 1#32) ^^^ 1#32 else x
    let t := { s with host := { s.host with msix := s.host.msix.set (512 * f.val + 4 * v.toNat + dw.val) y } }
    ((∀ u : BitVec 7, s.host.pba.get (128 * f.val + u.toNat) = 0#1) → exec (.msixTableWrite f v dw x) s = .next t)
    ∧ (dw.val = 3 → x.getLsbD 0 = false → s.host.cfg[f].bme = true → s.host.cfg[f].msixEn = true → s.host.cfg[f].fnMask = false →
        s.host.pba.get (128 * f.val + v.toNat) = 1#1 →
        (∀ u : BitVec 7, u ≠ v → s.host.pba.get (128 * f.val + u.toNat) = 0#1) →
        exec (.msixTableWrite f v dw x) s = .next (Signalled { t with host := { t.host with
          pba := t.host.pba.set (128 * f.val + v.toNat) 0#1 } } f v)))
  ∧ (∀ (s : State) (f : FnId) (v : Bool), s.host.lup = true →
    (s.answersConfig = false →
      ∀ i ∈ [Instr.busMasterEnable f v, .flrPf], exec i s = .next { s with out := s.out ++ [.cplRetry] })
    ∧ (s.answersConfig = false → f ≠ 0 → exec (.flrVf f) s = .next { s with out := s.out ++ [.cplRetry] })
    ∧ (s.answersConfig = true → s.host.nvf.toNat < f.val →
      ∀ i ∈ [Instr.busMasterEnable f v, .flrVf f], exec i s = .next { s with out := s.out ++ [.cplUnsupported] }))
  ∧ (∀ (s : State) (f : FnId), s.host.lup = true → s.answersConfig = true → f.val ≤ s.host.nvf.toNat →
    ((∀ u : BitVec 7, s.host.pba.get (128 * f.val + u.toNat) = 0#1) → exec (.busMasterEnable f true) s =
      .next { s with host := { s.host with cfg := s.host.cfg.set f { s.host.cfg[f] with bme := true } } })
    ∧ ∃ t, exec (.busMasterEnable f false) s = .next t ∧ t.host.cfg[f].bme = false
      ∧ ∀ n : QpId, ((s.qp n).act.fn = f → (s.qp n).fetched ≠ none → QpStopped s t n 4) ∧ ((s.qp n).act.fn ≠ f → t.qp n = s.qp n))
  ∧ (∀ (s : State) (w : BitVec 6) (v : BitVec 4),
    ((w = 4 ∨ w = 8 ∨ w = 16) → 1 ≤ v.toNat → v.toNat ≤ 5 → s.awake = true → s.pins.perstN = true →
      exec (.linkUp w v) s = .next { s with host := { s.host with lup := true, lw := w, ls := v } })
    ∧ (s.host.lup = true → ∃ t, exec .linkDown s = .next t ∧ t.host.lup = false ∧ t.host.lw = 0 ∧ t.host.ls = 0
        ∧ t.host.evt.getLsbD 5 = true
        ∧ (∀ n, ((s.qp n).en = true → QpStopped s t n 5) ∧ ((s.qp n).en = false → t.qp n = s.qp n))
        ∧ SlotsFreed s t (fun n => (s.qp n).en = true) ∧ t.host.reads = [] ∧ ∀ a ∈ t.accs, a.who ≠ .host)
    ∧ (s.host.lup = false → exec .linkDown s = .next s))

/-- What the host does to the device but for the queue pairs (R452 to R458, R466, R469).
Choices of the model on which clauses of it rest: notes/assumptions 93, 94, 96, 102, 105, 194, 196, 197, 217. -/
def Obligations.HostInterface : Prop := Claims.Bars ∧ Claims.Functions

/-- Doorbells and CQ_SIZE (R456, R459, R460, R468, R516): the owner's tail within the queue is taken, and raises the queue's source; one
outside stops the queue pair, as does a head that moves past what has been written; a disabled queue pair and another
function's doorbell change nothing; Dormant records. Enabling latches the bases and the binding and starts every count. -/
def Sys2Proof.Claims.Doorbells : Prop :=
  (∀ (s : State) (f : FnId) (n : QpId) (v : W64), Reaches s f →
    let x := s.qp n; let t : BitVec 13 := BitVec.ofNat 13 v.toNat
    let written := (x.cqt.toNat + x.cqn.toNat - x.cqh.toNat) % x.cqn.toNat
    let ahead := (t.toNat + x.cqn.toNat - x.cqh.toNat) % x.cqn.toNat
    ((x.en = false ∨ x.act.fn ≠ f) → exec (.sqDoorbell f n v) s = .next s ∧ exec (.cqDoorbell f n v) s = .next s)
    ∧ (x.en = true → x.act.fn = f → s.pwr.st = .dormant →
      exec (.sqDoorbell f n v) s = .next (s.setQp n { x with lateSq := some v })
      ∧ exec (.cqDoorbell f n v) s = .next (s.setQp n { x with lateCq := some v }))
    ∧ (x.en = true → x.act.fn = f → s.pwr.st ≠ .dormant →
      (t.toNat < x.sqn.toNat → ∃ q, exec (.sqDoorbell f n v) s = .next { s.setQp n { x with sqt := t } with quires := q }
        ∧ (x.act.qe = false → q = s.quires)
        ∧ (x.act.qe = true → ∀ i : Fin 64, i.val = x.act.qs.toNat → q[x.act.qq].routes[i].pnd = true))
      ∧ (x.sqn.toNat ≤ t.toNat → ∃ u, exec (.sqDoorbell f n v) s = .next u ∧ QpStopped s u n 1)
      ∧ (t.toNat < x.cqn.toNat → ahead ≤ written → exec (.cqDoorbell f n v) s = .next (s.setQp n { x with cqh := t }))
      ∧ ((x.cqn.toNat ≤ t.toNat ∨ written < ahead) → ∃ u, exec (.cqDoorbell f n v) s = .next u ∧ QpStopped s u n 1)))
  ∧ (∀ (s : State) (n : QpId) (v : W64),
    let x := s.qp n; let y := { x with sqn := BitVec.ofNat 13 v.toNat, cqn := BitVec.ofNat 13 (v.toNat / 2 ^ 16) }
    let sized := 2 ≤ y.sqn.toNat ∧ y.sqn.toNat ≤ 4096 ∧ 2 ≤ y.cqn.toNat ∧ y.cqn.toNat ≤ 4096
    (s.spineRuns = false → exec (.queuePairEnable n v) s = .next { s with pwr := { s.pwr with dax := true } })
    ∧ (s.spineRuns = true → x.en = false → sized → exec (.queuePairEnable n v) s = .next (s.setQp n { y with
      actSqb := x.sqb, actCqb := x.cqb, act := x.bind, sqh := 0, cqt := 0, sqt := 0, cqh := 0, ph := true, stop := false, why := 0
      resv := 0, subs := [], staged := [], lastCore := none, fetched := none, unsig := 0, firstUnsig := none, lateSq := none
      lateCq := none, flr := false }))
    ∧ (s.spineRuns = true → x.en = true → ¬ sized → ∃ t, exec (.queuePairEnable n v) s = .next t
      ∧ t.qp n = { y with
          staged := [], subs := [], fetched := none, resv := 0, unsig := 0, firstUnsig := none, lateSq := none, lateCq := none }
      ∧ (∀ e : EngId, ∀ w ∈ (t.eng e).work, w.qp ≠ n) ∧ t = { s with qps := t.qps, engines := t.engines }
      ∧ ∀ m, m ≠ n → t.qp m = s.qp m)
    ∧ (s.spineRuns = true → (x.en = false ∧ ¬ sized ∨ x.en = true ∧ sized) → exec (.queuePairEnable n v) s = .next (s.setQp n y)))

/-- A submission on its way (R287, R462, R463, R468): with an entry waiting, an engine that takes Camwin work, a target and a free CQ
entry, its 64 bytes are fetched and take a reservation; an error of that read stops the queue pair. Then the next target in
turn is chosen, SQH moves on, and the engine has a descriptor for 64 bytes from the entry to a slot of the target's window. -/
def Sys2Proof.Claims.Submissions : Prop :=
  ∀ (s : State) (n : QpId),
    let x := s.qp n; let e := s.eng x.act.eng
    (∀ r, CamReady s n → x.stop = false → x.fetched = none → x.sqh ≠ x.sqt → e.en = true → e.cen = true → (∃ c, Target s x c) →
      x.resv < freeCqEntries x →
      (r ≠ .error → exec (.sqFetch n r) s =
        .next (State.setQp { s with out := s.out ++ [.hostRead x.act.fn (x.actSqb.toNat * 4096 + 64 * x.sqh.toNat) 64] } n
          { x with fetched := some (BitVec.ofNat 12 x.sqh.toNat, r), resv := x.resv + 1 }))
      ∧ (r = .error → ∃ t, exec (.sqFetch n r) s = .next t ∧ QpStopped s t n 3))
    ∧ (∀ sqi r c, CamReady s n → x.stop = false → x.fetched = some (sqi, r) → NextTarget s x c →
      ∃ t ws, exec (.submissionReceive n) s = .next t
        ∧ t = { s with qps := t.qps, engines := t.engines } ∧ (∀ m, m ≠ n → t.qp m = s.qp m)
        ∧ t.qp n = { x with fetched := none, lastCore := some c, sqh := BitVec.ofNat 13 ((x.sqh.toNat + 1) % x.sqn.toNat)
                            subs := x.subs ++ [⟨sqi, c, false⟩] }
        ∧ EngineIs { s with engines := s.engines.set (pairOf x.act.eng) { s.eng (pairOf x.act.eng) with gated := false } } t x.act.eng
            { e with work := e.work ++ [⟨n, sqi, c, r, ws, true⟩], gated := false }
        ∧ (descOf ws).src.toNat = (x.actSqb.toNat * 4096 + 64 * sqi.toNat) % 2 ^ 62 ∧ (descOf ws).cnt = 64
        ∧ (descOf ws).mld = x.act.mld.toNat ∧ (descOf ws).win = x.act.win ∧ (descOf ws).slot = true ∧ (descOf ws).wc = c
        ∧ (descOf ws).tag = BitVec.ofNat 32 (n.val * 2 ^ 16 + sqi.toNat) ∧ (descOf ws).reserved = false)

/-- A completion on its way (R461 to R466, R468): a core's CQ_CMPL for a delivered submission stages one, and otherwise sets OVF; the
first staged one is written to the CQ entry once its level holds, CQT and the phase move on, and with ITH completions, or
after ITT microseconds, the vector is signalled; an error of that write stops the queue pair. -/
def Sys2Proof.Claims.Completions : Prop :=
  ∀ (s : State) (n : QpId),
    let x := s.qp n
    (∀ (v : W64) (u : Sub), x.en = true → v.toNat % 16 ≠ 0 → u ∈ x.subs → u.delivered = true → u.sqi = BitVec.ofNat 12 (v.toNat / 2 ^ 52) →
      exec (.cqCmpl n v) s = .next (s.setQp n { x with
        subs := x.subs.eraseP (fun w => w.sqi == u.sqi && w.delivered)
        staged := x.staged ++ [⟨0, u.sqi, BitVec.ofNat 4 v.toNat, 0, false⟩] }))
    ∧ (∀ (v : W64), (x.en = true → ∀ u ∈ x.subs, ¬ (u.sqi = BitVec.ofNat 12 (v.toNat / 2 ^ 52) ∧ u.delivered = true)) →
      (x.en = false → x.flr = false) → ∃ t, exec (.cqCmpl n v) s = .next t
        ∧ t.qp n = { x with ovf := true } ∧ t.host.evt.getLsbD 4 = true)
    ∧ (∀ c rest, CamReady s n → x.staged = c :: rest → levelMet s.jnl x.act.ack c.seq = true →
      let at_ := (x.cqt.toNat + 1) % x.cqn.toNat
      let sent : State := { s with out := s.out ++ [.hostWrite x.act.fn (x.actCqb.toNat * 4096 + 64 * x.cqt.toNat)
        (natBytesLE 8 c.seq.toNat ++ natBytesLE 2 c.sqi.toNat
          ++ [BitVec.ofNat 8 n.val, BitVec.ofNat 8 (c.rc.toNat + if x.ph then 128 else 0)] ++ natBytesLE 2 x.sqh.toNat
          ++ [c.sst, if c.dev then 1 else 0] ++ natBytesLE 8 s.jnl.dur.toNat ++ List.replicate 40 0) false] }
      let y := { x with staged := rest, cqt := BitVec.ofNat 13 at_, ph := if at_ = 0 then !x.ph else x.ph, resv := x.resv - 1
                        unsig := x.unsig + 1, firstUnsig := some (x.firstUnsig.getD s.now) }
      let z := { y with unsig := 0, firstUnsig := none }
      (x.unsig + 1 < x.ith.toNat → exec (.completionRelease n true) s = .next (sent.setQp n y))
      ∧ (x.ith.toNat ≤ x.unsig + 1 → exec (.completionRelease n true) s =
          .next (if x.act.ve then Signalled (sent.setQp n z) x.act.fn x.act.vec else sent.setQp n z))
      ∧ (x.stop = false → ∃ t, exec (.completionRelease n false) s = .next t ∧ QpStopped s t n 3 ∧ (t.qp n).staged = []))
    ∧ (∀ t, s.camOn = true → x.en = true → x.itt ≠ 0 → x.unsig ≠ 0 → x.firstUnsig = some t → t + x.itt.toNat * 900 ≤ s.now →
      let z := s.setQp n { x with unsig := 0, firstUnsig := none }
      exec (.cqSignalTimer n) s = .next (if x.act.ve then Signalled z x.act.fn x.act.vec else z))

/-- Queue pair n of t after the reset of its owner in s (R468, R469): stopped with WHY 4 unless it had stopped before, disabled, its staged
completions and submissions gone; completions for it that come later are dropped, and no engine works for it. -/
def Sys2Proof.Claims.QpReset (s t : State) (n : QpId) : Prop :=
  (t.qp n).stop = true ∧ (t.qp n).why = (if (s.qp n).stop then (s.qp n).why else 4) ∧ (t.qp n).en = false ∧ (t.qp n).flr = true
  ∧ (t.qp n).staged = [] ∧ (t.qp n).subs = [] ∧ (t.qp n).resv = 0 ∧ (t.qp n).fetched = none
  ∧ ∀ e : EngId, (∀ w ∈ (t.eng e).work, w.qp ≠ n)
    ∧ ∀ r w, (t.eng e).cur = some r → r.cam = some w → w.qp = n → w.live = false

/-- Function f of t after its reset in s (R453, R456, R458, R469): its configuration space is at its reset values, but for Max Payload Size,
and no vector of it is set up, enabled or pending. -/
def Sys2Proof.Claims.FunctionReset (s t : State) (f : FnId) : Prop :=
  t.host.cfg[f] = { bme := false, mse := false, bar0 := 0, bar2 := 0, bar4 := 0, mps := s.host.cfg[f].mps, mrrs := 2, msixEn := false
                    fnMask := false }
  ∧ (∀ a, 512 * f.val ≤ a → a < 512 * f.val + 512 → t.host.msix.get a = 0)
  ∧ ∀ a, 128 * f.val ≤ a → a < 128 * f.val + 128 → t.host.pba.get a = 0

/-- Function Level Resets and time-outs (R453, R458, R468, R469): every enabled queue pair of the function, or of every function for the
PF, stops with WHY 4 and is disabled; the function's enables and vectors are cleared; the PF's reset also ends the drain and
VF Enable, and ends each ring descriptor under way that has a HOST address with 0x16; a read that times out stops its queue pair
or ends its descriptor with 0x16. -/
def Sys2Proof.Claims.HostResets : Prop :=
  (∀ (s : State) (f : FnId), s.host.lup = true → s.answersConfig = true → f.val ≠ 0 → f.val ≤ s.host.nvf.toNat →
    ∃ t, exec (.flrVf f) s = .next t
    ∧ FunctionReset s t f ∧ (∀ g : FnId, g ≠ f → t.host.cfg[g] = s.host.cfg[g])
    ∧ (∀ a, (a < 512 * f.val ∨ 512 * f.val + 512 ≤ a) → t.host.msix.get a = s.host.msix.get a)
    ∧ (∀ a, 128 ≤ a → (a < 128 * f.val ∨ 128 * f.val + 128 ≤ a) → t.host.pba.get a = s.host.pba.get a)
    ∧ t.host.nvf = s.host.nvf ∧ t.phys = s.phys ∧ t.jnl = s.jnl
    ∧ SlotsFreed s t (fun n => (s.qp n).en = true ∧ (s.qp n).act.fn = f)
    ∧ ∀ n, ((s.qp n).en = true → (s.qp n).act.fn = f → QpReset s t n)
        ∧ ((s.qp n).en = false ∨ (s.qp n).act.fn ≠ f → t.qp n = s.qp n))
  ∧ (∀ s : State, s.host.lup = true → s.answersConfig = true → ∃ t, exec .flrPf s = .next t
    ∧ t.host.nvf = 0 ∧ t.jnl = { s.jnl with hde := false } ∧ t.phys = s.phys
    ∧ (∀ f : FnId, FunctionReset s t f) ∧ SlotsFreed s t (fun n => (s.qp n).en = true)
    ∧ (∀ n, ((s.qp n).en = true → QpReset s t n) ∧ ((s.qp n).en = false → t.qp n = s.qp n))
    ∧ ∀ (e : EngId) (r : Running), (s.eng e).cur = some r → r.cam = none →
        let d := descOf r.words
        let host := d.src.toNat < 2 ^ 62 ∨ (d.slot = false ∧ d.dst.toNat < 2 ^ 62)
        (r.ended = none → r.record = none → host → (t.eng e).cur = some { r with ended := some (0x16, 0) })
        ∧ ((r.ended ≠ none ∨ r.record ≠ none ∨ ¬ host) → (t.eng e).cur = some r))
  ∧ (∀ s : State, s.host.lup = false → (∀ i ∈ [Instr.flrPf, .flrVf 1], exec i s = .next s))
  ∧ (∀ (s : State) (n : QpId), fetchDue s n = true → ∃ t, exec (.completionTimeout none (some n)) s = .next t ∧ QpStopped s t n 3)
  ∧ (∀ (s : State) (e : EngId) (r : Running), (s.eng e).cur = some r → r.cam = none → r.ended = none → r.record = none →
    (descOf r.words).src.toNat < 2 ^ 62 →
    exec (.completionTimeout (some e) none) s = .next (s.setEng e { s.eng e with cur := some { r with ended := some (0x16, 0) } }))

/-- The queue pairs (R287, R456, R459 to R469, R516).
Choices of the model on which clauses of it rest: notes/assumptions 95, 97, 98, 99, 139, 192, 195, 196, 199. -/
def Obligations.QueuePairs : Prop := Claims.Doorbells ∧ Claims.Submissions ∧ Claims.Completions ∧ Claims.HostResets

namespace Sys2Proof.Claims

/-- s with measurement register i extended by a digest: MR := SHA-384(MR ‖ d) (R482). -/
def extended (s : State) (i : Fin 8) (d : BitVec 384) : State :=
  { s with stw := { s.stw with
    mr := s.stw.mr.set i (Config.sha384 (natBytesBE 48 (s.stw.mr[i]).toNat ++ natBytesBE 48 d.toNat)) } }

/-- s with the Steward's registers w. -/
def withStw (s : State) (w : Steward) : State := { s with stw := w }

/-- s with its log after an entry for each of the fatal faults of a list (R491). -/
def faultsLogged (s : State) (fs : List FatalKind) : State :=
  fs.foldl (fun s k => logEvent s .fatal (match k with
    | .checkstop c => BitVec.ofNat 16 c.val | .warden q => BitVec.ofNat 16 q.val | .reload c => BitVec.ofNat 16 c.val | _ => 0xFFFF)) s

/-- The device entered halt-safe from s with faults fs still to handle (R374, R375, R489 to R491): the bypass is closed and the ring out of use, postings stop and the
journal is frozen, every core stops, every engine halts, ERR_FATAL goes out once, the ROM monitor runs with ALERT_N low; the
Vat, HBM, keys, mirror and sequence ports keep what they hold; each of the faults is logged and C signed after them (R492), and then
the entry. -/
def HaltSafe (s t : State) (fs : List FatalKind) : Prop :=
  t.stw.bst = .haltsafe ∧ t.stw.hsf = true ∧ t.stw.alrt = true
  ∧ (((s.ring.st = .off ∨ s.ring.st = .left) → s.ring.byp = true) → t.ring.byp = true) ∧ (s.ring.st ≠ .left → t.ring.st = .off)
  ∧ t.jnl.frz = true ∧ t.jnl.dur = s.jnl.dur ∧ t.jnl.next = s.jnl.next ∧ t.jnl.mslots = s.jnl.mslots
  ∧ (∀ c : CoreId, (t.core c).ctl.cks = true ∧ (t.core c).ctl.run = false ∧ (t.core c).ctl.rstDue = false ∧ (t.core c).g = (s.core c).g)
  ∧ (∀ e : EngId, (t.eng e).halt = true)
  ∧ (let c := (faultsLogged s fs).stw.chain
     fs ≠ [] → t.stw.fatalSig = if s.stw.bfc = 4#8 then none else some (c, Config.watermarkSign c))
  ∧ (∃ m, t.out = s.out ++ m ++ [.errFatal] ∧ ∀ x ∈ m, ∃ v a d, x = .msix 0 v a d) ∧ t.phys = s.phys ∧ t.vatMark = s.vatMark ∧ t.hbmEcc = s.hbmEcc ∧ t.keys = s.keys
  ∧ ∃ u, Logged u t 0xFFFF ∧ (s.jnl.rep = false → u.stw.log = (faultsLogged s fs).stw.log
    ∧ u.stw.chain = (faultsLogged s fs).stw.chain ∧ u.stw.logNext = (faultsLogged s fs).stw.logNext)

end Sys2Proof.Claims

/-! ### The Steward -/

/-- The Steward's faults and log (R214, R374, R375, R471, R475, R491, R492): a fatal fault under handling is logged, the new C is
signed, and the host is told, and the handling ends with the last; while two are under way the device enters halt-safe, as it does at a machine
check or watchdog expiry of the Steward while one is; one alone is a fatal fault; nothing further happens in halt-safe. The
flush copies the entries to their places in flash, but not in a reset (R544). A reported Vat line is marked and keeps its data. -/
def Sys2Proof.Claims.Faults : Prop :=
  (∀ (s : State) (k : FatalKind), s.stw.hsf = false → s.stw.faults = [k] → s.host.een = false → ∃ t,
    exec (.fatalFault k) s = .next t ∧ t.stw.faults = [] ∧ t.stw.fat = false
    ∧ Logged s t (match k with | .checkstop c => BitVec.ofNat 16 c.val | .warden q => BitVec.ofNat 16 q.val
                               | .reload c => BitVec.ofNat 16 c.val | _ => 0xFFFF)
    ∧ t.stw.fatalSig = (if s.stw.bfc = 4#8 then none else some (t.stw.chain, Config.watermarkSign t.stw.chain))
    ∧ t = { s with stw := t.stw })
  ∧ (∀ (s : State) (k : FatalKind), s.stw.hsf = false → s.stw.faults = [k] → s.host.een = true → ∃ t,
    exec (.fatalFault k) s = .next t ∧ t.stw.fat = false ∧ ∃ u, t = { Claims.Signalled s 0 s.host.evec with stw := u })
  ∧ (∀ (s : State) (k : FatalKind), s.stw.hsf = false → 2 ≤ s.stw.faults.length →
    (∃ t, exec (.fatalFault k) s = .next t ∧ Claims.HaltSafe s t s.stw.faults)
    ∧ (Claims.Calm (Claims.withStw s { s.stw with faults := [] }) → s.pwr.move = .still →
      ∃ t, step s = .next t ∧ Claims.HaltSafe (Claims.ticked s) t s.stw.faults))
  ∧ (∀ s : State, s.awake = true → s.stw.hsf = false →
    (s.stw.faults = [] →
      exec .stewardWatchdog s =
        .next (Claims.withStw s { s.stw with faults := [.steward], fat := true, alrt := true })
      ∧ exec (.fatalFault .steward) s = exec .stewardWatchdog s)
    ∧ (s.stw.faults ≠ [] → ∃ t, exec .stewardWatchdog s = .next t ∧ Claims.HaltSafe s t (s.stw.faults ++ [.steward])))
  ∧ (∀ (s : State) (k : FatalKind), (s.stw.hsf = true ∨ (k ≠ .steward ∧ k ∉ s.stw.faults ∧ s.stw.faults.length < 2)) → exec (.fatalFault k) s = .next s)
  ∧ (∀ (s : State), s.pins.phase ≠ .running → exec .logFlush s = .next s)
  ∧ (∀ (s : State), s.pins.phase = .running → ∃ fl, exec .logFlush s = .next (Claims.withStw s { s.stw with flash := fl, flushed := s.stw.logNext })
    ∧ ((∀ e ∈ s.stw.log, e.detail.length = 40) → (∀ a : Nat, (∀ e ∈ s.stw.log, s.stw.flushed.toNat ≤ e.seq.toNat → a / 64 ≠ 0x900000 / 64 + e.seq.toNat % 65536) →
        fl.get a = s.stw.flash.get a)
    ∧ ∀ e ∈ s.stw.log, s.stw.flushed.toNat ≤ e.seq.toNat →
        (∀ x ∈ s.stw.log, x.seq.toNat % 65536 = e.seq.toNat % 65536 → x = e) →
        fl.read (0x900000 + 64 * (e.seq.toNat % 65536)) 64 = e.bytes))
  ∧ (∀ (s : State) (line : BitVec 19),
    (s.spineRuns = true → (∃ r ∈ s.reports, r.1 = line) → ∃ m, exec (.vatPoisonMark line) s = .next { s with
        reports := s.reports.filter (fun r => r.1 != line), vatMark := m }
      ∧ (∀ a, a ≠ line.toNat → m.get a = s.vatMark.get a)
      ∧ m.get line.toNat = if s.vatMark.get line.toNat = 2#2 then 3#2 else s.vatMark.get line.toNat)
    ∧ ((s.spineRuns = false ∨ ∀ r ∈ s.reports, r.1 ≠ line) → exec (.vatPoisonMark line) s = .next s))

namespace Sys2Proof.Claims

/-! ### Management commands -/

/-- The paths of a management command, and the stages in which the ROM monitor serves it over SMBus (R479, R486, R489): the path it
came on, the paths allowed, those stages. -/
def paths : Instr → Option (Path × List Path × List Bst)
  | .getStatus p => some (p, [.smbus, .vdm, .inBand], [.bootfail, .recovery, .held, .haltsafe])
  | .ackAlert p => some (p, [.smbus, .vdm, .inBand], [])
  | .readLog p _ _ _ => some (p, [.smbus, .vdm, .inBand], [.bootfail, .recovery, .haltsafe])
  | .readJournal p _ _ _ => some (p, [.smbus, .vdm], [.bootfail, .recovery, .haltsafe])
  | .readPort p _ => some (p, [.smbus, .vdm], [.bootfail, .recovery, .haltsafe])
  | .ownerKey p _ => some (p, [.smbus, .inBand], [])
  | .ringKey p _ => some (p, [.smbus, .vdm, .inBand], [])
  | .extendMr7 p _ => some (p, [.smbus, .vdm, .inBand], [])
  | .debugUnlock p _ => some (p, [.smbus], [])
  | .debugLock p => some (p, [.smbus, .inBand], [])
  | .vendorChallenge p => some (p, [.smbus], [])
  | .vendorResponse p _ => some (p, [.smbus], [])
  | .updateImage p _ _ _ => some (p, [.smbus, .inBand], [.recovery])
  | .commit p _ => some (p, [.smbus, .inBand], [.recovery])
  | _ => none

/-- The ROM monitor runs (R489). -/
def Monitor (s : State) : Prop := s.stw.bst ∈ [Bst.bootfail, .recovery, .held, .haltsafe]

/-- A message arrives on a path: out of reset, with the link up for PCIe VDM, with GO written for the in-band buffer (R485, R488). -/
def Arrives (s : State) (p : Path) : Prop :=
  s.awake = true ∧ match p with
    | .smbus => True
    | .vdm => s.host.lup = true
    | .inBand => s.stw.cmdBusy = true
    | .doe => False

/-- A command arrives on a path that serves it. -/
def Served (s : State) (c : Instr) (p : Path) : Prop :=
  ∃ ok mon, paths c = some (p, ok, mon) ∧ Arrives s p ∧ ((¬ Monitor s ∧ p ∈ ok) ∨ (Monitor s ∧ p = .smbus ∧ s.stw.bst ∈ mon))

/-- The address that a message from the device carries: on SMBus 0x60 and the address straps (R485, R528).
That one on PCIe VDM carries the requester ID 0 is the model's choice (notes/assumptions/185.md). -/
def sender (s : State) (p : Path) : BitVec 7 := match p with | .smbus => BitVec.ofNat 7 (0x60 + s.stw.straps.toNat / 4) | _ => 0

/-- s with a response sent on a path: in-band it replaces the command in the buffer (R488); else it is a vendor-defined PCI message
with Noward's vendor ID (R485). -/
def replied (s : State) (p : Path) (bs : List Byte) : State :=
  match p with
  | .inBand => { s with stw := { s.stw with
      buf := s.stw.buf.write 0 bs, rlen := BitVec.ofNat 13 bs.length, cmdDone := true, cmdBusy := false } }
  | p => { s with out := s.out ++ [.mgmt p (sender s p)
      (0x7E :: natBytesBE 2 Config.vendorId.toNat ++ bs)] }

/-- A quad in an answer. -/
def quad8 (v : W64) : List Byte := natBytesBE 8 v.toNat
/-- 48 bytes of a digest or a nonce. -/
def bytes48 (v : BitVec 384) : List Byte := natBytesBE 48 v.toNat

/-- The bytes in the in-band buffer that ask for a command (R486, R488). That numbers lie most significant byte first is the
model's choice (notes/assumptions/107.md). -/
def inBandBytes : Instr → Option (List Byte)
  | .getStatus .inBand => some [0x01]
  | .ackAlert .inBand => some [0x02]
  | .readLog .inBand first count nonce =>
    if count < 256 then some (0x03 :: natBytesBE 4 first.toNat ++ [BitVec.ofNat 8 count] ++ natBytesBE 48 nonce.toNat) else none
  | .extendMr7 .inBand d => some (0x08 :: natBytesBE 48 d.toNat)
  | .debugLock .inBand => some [0x0A]
  | .updateImage .inBand t off bs => some (0x0D :: (match t with | .slotA => 0 | .slotB => 1 | .ownerConfig => 2)
      :: natBytesBE 4 off.toNat ++ bs)
  | .commit .inBand t => some [0x0E, match t with | .slotA => 0 | .slotB => 1 | .ownerConfig => 2]
  | _ => none

end Sys2Proof.Claims

/-- R479, R485, R486, R488, R489: a command that does not arrive, and one over another path than SMBus while the ROM monitor runs,
goes unanswered; one on a path that the table does not allow, or that the monitor does not serve, is answered with status 0x02
and has no other effect. -/
def Sys2Proof.Claims.Paths : Prop :=
  (∀ (s : State) (c : Instr) (p : Path) (ok : List Path) (mon : List Bst), Claims.paths c = some (p, ok, mon) →
    (¬ Claims.Arrives s p → exec c s = .next s)
    ∧ (Claims.Arrives s p → ¬ Claims.Monitor s → p ∉ ok → exec c s = .next (Claims.replied s p [0x02]))
    ∧ (Claims.Monitor s → p ≠ .smbus → exec c s = .next s)
    ∧ (Claims.Arrives s .smbus → Claims.Monitor s → p = .smbus → s.stw.bst ∉ mon →
        exec c s = .next (Claims.replied s .smbus [0x02])))
  ∧ (∀ (s : State) (c : Instr) (bs : List Byte), Claims.inBandBytes c = some bs → bs.length ≤ 4096 →
    s.stw.cmdLen.toNat = bs.length → s.stw.buf.read 0 bs.length = bs → exec .inBandCommand s = exec c s)
  ∧ (∀ (s : State), ¬ Claims.Monitor s → Claims.Arrives s .inBand →
    ((s.stw.cmdLen = 0#13 ∨ 4096 < s.stw.cmdLen.toNat) → exec .inBandCommand s = .next (Claims.replied s .inBand [0x01]))
    ∧ (s.stw.cmdLen.toNat ≤ 4096 → s.stw.cmdLen ≠ 0#13 → (s.stw.buf.get 0 = 4 ∨ s.stw.buf.get 0 = 5 ∨ s.stw.buf.get 0 = 9 ∨
        s.stw.buf.get 0 = 0xB ∨ s.stw.buf.get 0 = 0xC) → exec .inBandCommand s = .next (Claims.replied s .inBand [0x02]))
    ∧ (s.stw.cmdLen.toNat ≤ 4096 → s.stw.cmdLen ≠ 0#13 → (s.stw.buf.get 0 = 0 ∨ 0xE < (s.stw.buf.get 0).toNat) →
        exec .inBandCommand s = .next (Claims.replied s .inBand [0x01])))

/-- What the commands that read answer (R486, R490 to R492): the five status ports; the log entries asked for, the chain digest after
the highest of them and the signature over it and the nonce (without it after a fuse error, with status 0x0A, which is the
model's choice, notes/assumptions/114.md); 32-byte journal entries; a port that BAR0 can read. ACK_ALERT releases ALERT_N, EXTEND_MR7 extends. -/
def Sys2Proof.Claims.Queries : Prop :=
  (∀ (s : State) (p : Path), Claims.Served s (.getStatus p) p → exec (.getStatus p) s = .next (Claims.replied s p
    (0x00 :: [stwRead s 0, stwRead s 1, stwRead s 2, stwRead s 3, stwRead s 4].flatMap Claims.quad8)))
  ∧ (∀ (s : State) (p : Path), Claims.Served s (.ackAlert p) p →
    exec (.ackAlert p) s = .next (Claims.replied (Claims.withStw s { s.stw with alrt := false }) p [0x00]))
  ∧ (∀ (s : State) (p : Path) (first : BitVec 32) (count : Nat) (nonce : BitVec 384), Claims.Served s (.readLog p first count nonce) p →
    ((count = 0 ∨ 56 < count) → exec (.readLog p first count nonce) s = .next (Claims.replied s p [0x01]))
    ∧ ∀ es : List LogEntry, 1 ≤ count → count ≤ 56 → es.length = count →
        (∀ i < count, s.stw.log.find? (fun e => e.seq.toNat == first.toNat + i) = es[i]?) →
        let c := s.stw.chains.get (first.toNat + count - 1)
        let sig := if s.stw.bfc = 4#8 then [] else Config.watermarkSign (Config.sha384 (Claims.bytes48 c ++ Claims.bytes48 nonce))
        exec (.readLog p first count nonce) s = .next (Claims.replied s p
          ((if s.stw.bfc = 4#8 then 0x0A else 0x00) :: es.flatMap LogEntry.bytes ++ Claims.bytes48 c ++ sig)))
  ∧ (∀ (s : State) (p : Path) (mirror : Bool) (first : BitVec 16) (count : Nat), Claims.Served s (.readJournal p mirror first count) p →
    (1 ≤ count → count ≤ 64 → first.toNat + count ≤ 65536 → ∃ bs, exec (.readJournal p mirror first count) s =
        .next (Claims.replied s p (0x00 :: bs)) ∧ bs.length = 32 * count
      ∧ ∀ i < count, (bs.drop (32 * i)).take 32 =
          bytesOfWords (s.phys.read (if mirror then mirrorSlot (first.toNat + i) else tailSlot (first.toNat + i)) 16))
    ∧ ((count = 0 ∨ 64 < count ∨ 65536 < first.toNat + count) →
        exec (.readJournal p mirror first count) s = .next (Claims.replied s p [0x01])))
  ∧ (∀ (s : State) (p : Path) (port : BitVec 24), Claims.Served s (.readPort p port) p →
    ((hostReg port.toNat).isSome → failedBlock s port.toNat = none →
      exec (.readPort p port) s = .next (Claims.replied s p (0x00 :: Claims.quad8 (hostRead s port.toNat))))
    ∧ (hostReg port.toNat = none → exec (.readPort p port) s = .next (Claims.replied s p [0x08])))
  ∧ (∀ (s : State) (p : Path) (d : BitVec 384), Claims.Served s (.extendMr7 p d) p →
    exec (.extendMr7 p d) s = .next (Claims.replied (Claims.extended s 7 (Config.sha384 (Claims.bytes48 d))) p [0x00]))

/-- UPDATE_IMAGE and COMMIT (R479, R487): the booted slot is refused; an update writes its bytes into the target's area and leaves it
invalid; a commit finds it acceptable or not. In RECOVERY the monitor then resets the device into the new image. -/
def Sys2Proof.Claims.Images : Prop :=
  (∀ (s : State) (p : Path) (t : ImageTarget) (off : BitVec 32) (bs : List Byte), Claims.Served s (.updateImage p t off bs) p →
    let booted := (t = .slotA ∧ s.stw.slot = 0#2) ∨ (t = .slotB ∧ s.stw.slot = 1#2)
    let base := match t with | .slotA => 0 | .slotB => 0x400000 | .ownerConfig => 0x800000
    let len := match t with | .ownerConfig => 0x10000 | _ => 0x400000
    ((4000 < bs.length ∨ len < off.toNat + bs.length) → exec (.updateImage p t off bs) s = .next (Claims.replied s p [0x01]))
    ∧ (bs.length ≤ 4000 → off.toNat + bs.length ≤ len →
      (booted → exec (.updateImage p t off bs) s = .next (Claims.replied s p [0x08]))
      ∧ (¬ booted → exec (.updateImage p t off bs) s = .next (Claims.replied (Claims.withStw s { s.stw with
          flash := s.stw.flash.write (base + off.toNat) bs
          badA := decide (t = .slotA) || s.stw.badA, badB := decide (t = .slotB) || s.stw.badB
          badCfg := decide (t = .ownerConfig) || s.stw.badCfg }) p [0x00]))))
  ∧ (∀ (s : State) (p : Path) (t : ImageTarget), Claims.Served s (.commit p t) p →
    let booted := (t = .slotA ∧ s.stw.slot = 0#2) ∨ (t = .slotB ∧ s.stw.slot = 1#2)
    let good := match t with
      | .slotA => ∃ sv fwv base bl sg, imageCheck s.stw.fuses s.stw.flash 0 = .ok sv fwv base bl sg
      | .slotB => ∃ sv fwv base bl sg, imageCheck s.stw.fuses s.stw.flash 1 = .ok sv fwv base bl sg
      | .ownerConfig => (configCheck s.stw.fuses s.stw.flash).isSome = true
    (booted → s.stw.bst ≠ .recovery → exec (.commit p t) s = .next (Claims.replied s p [0x08]))
    ∧ (¬ booted → ∀ b : Bool, (b = true ↔ good) →
      let done := Claims.replied (Claims.withStw s { s.stw with
        badA := if t = .slotA then !b else s.stw.badA, badB := if t = .slotB then !b else s.stw.badB
        badCfg := if t = .ownerConfig then !b else s.stw.badCfg }) p [0x00, if b then 1 else 0]
      ((s.stw.bst ≠ .recovery ∨ b = false ∨ t = .ownerConfig) → exec (.commit p t) s = .next done)
      ∧ (s.stw.bst = .recovery → b = true → t ≠ .ownerConfig → ∃ u, exec (.commit p t) s = .next u
        ∧ u.pins.phase = .asserted ∧ u.stw.bst = .rom ∧ u.phys = s.phys ∧ u.stw.flash = s.stw.flash ∧ u.out = done.out
        ∧ u.stw.badA = done.stw.badA ∧ u.stw.badB = done.stw.badB)))

/-- OWNER_KEY (R473, R474): by its table, a slot is programmed or revoked and the change logged; a repeated record changes nothing; one
that is not accepted changes no fuse. -/
def Sys2Proof.Claims.OwnerKeys : Prop :=
  ∀ (s : State) (p : Path) (k : Fin 4) (signer : Option (List Byte)),
    let f := s.stw.fuses
    let signed := fun (r : OwnerKeyRecord) =>
      ∃ blk i, signer = some blk ∧ i ≠ k.val ∧ ownerCheck f blk (Config.sha384 (Config.ownerKeyBytes r)) = .ok i
    let bit := (1#4 <<< k.val)
    let accepted := fun (t : State) (f1 : Fuses) => ∃ u, t = Claims.replied u p [0x00] ∧ u.stw.fuses = f1 ∧ Claims.Logged s u 0xFFFF
      ∧ u = Claims.withStw s u.stw
    let others := ∃ i : Fin 4, i ≠ k ∧ f.prog.getLsbD i.val = true ∧ f.rev.getLsbD i.val = false
    (∀ h : BitVec 384, h ≠ 0 →
      let r := OwnerKeyRecord.program k h signer
      Claims.Served s (.ownerKey p r) p →
      (f.prog.getLsbD k.val = false → (f.prog = 0#4 ∨ signed r) → ∃ t, exec (.ownerKey p r) s = .next t
        ∧ accepted t { f with hash := f.hash.set k h, prog := f.prog ||| bit })
      ∧ (f.prog.getLsbD k.val = false → f.prog ≠ 0#4 → ¬ signed r → exec (.ownerKey p r) s = .next (Claims.replied s p [0x03]))
      ∧ (f.prog.getLsbD k.val = true → exec (.ownerKey p r) s =
          .next (Claims.replied s p [if f.hash[k] = h then 0x00 else 0x08])))
    ∧ (let r := OwnerKeyRecord.revoke k signer
      Claims.Served s (.ownerKey p r) p →
      (f.rev.getLsbD k.val = true → exec (.ownerKey p r) s = .next (Claims.replied s p [0x00]))
      ∧ (f.rev.getLsbD k.val = false → f.prog.getLsbD k.val = true → signed r → others → ∃ t, exec (.ownerKey p r) s = .next t
        ∧ accepted t { f with rev := f.rev ||| bit })
      ∧ (f.rev.getLsbD k.val = false → (f.prog.getLsbD k.val = false ∨ ¬ signed r ∨ ¬ others) →
        exec (.ownerKey p r) s = .next (Claims.replied s p [0x08]) ∨ exec (.ownerKey p r) s = .next (Claims.replied s p [0x03])))

/-- RING_KEY (R444, R493): a record with a valid owner signature, this device's serial number and a key that unseals installs the key,
its salt and a count of 0, and extends MR5; after a transmit key with SW the port sends KEYSW and uses the slot, where the device
exchanges sheets (R448). Otherwise
nothing is installed. -/
def Sys2Proof.Claims.RingKeys : Prop :=
  ∀ (s : State) (p : Path) (r : RingKeyRecord), Claims.Served s (.ringKey p r) p →
    let signed := ∃ i, ownerCheck s.stw.fuses r.signer (Config.sha384 (Config.ringKeyBytes r)) = .ok i
    let inUse := r.tx = true ∧ (s.rp r.port).enc = true ∧ (s.rp r.port).txSlot = r.slot
    let m := Claims.extended s 5 (Config.sha384 (Config.ringKeyBytes r))
    (∀ key, signed → r.serial = s.serial → ¬ inUse → Config.unsealRingKey r.ephemeral r.sealedKey = some key →
      let slot : KeySlot := { key := some key, salt := r.salt, count := 0 }
      let tx := m.modRp r.port (fun x => { x with tx := x.tx.set r.slot slot })
      (r.tx = false → exec (.ringKey p r) s =
        .next (Claims.replied (m.modRp r.port (fun x => { x with rx := x.rx.set r.slot slot })) p [0x00]))
      ∧ (r.tx = true → (r.sw = false ∨ ¬ Talks s) → exec (.ringKey p r) s = .next (Claims.replied tx p [0x00]))
      ∧ (r.tx = true → r.sw = true → Talks s → exec (.ringKey p r) s = .next (Claims.replied
          ((sendSheet tx r.port 5 s.ring.pos 0 (0x05#8 ++ BitVec.ofNat 40 r.slot.val) none).modRp r.port
            (fun x => { x with txSlot := r.slot })) p [0x00])))
    ∧ (¬ signed → exec (.ringKey p r) s = .next (Claims.replied s p [0x03]))
    ∧ (signed → (r.serial ≠ s.serial ∨ inUse ∨ Config.unsealRingKey r.ephemeral r.sealedKey = none) →
      exec (.ringKey p r) s = .next (Claims.replied s p [0x08]))

/-- Debug (R495 to R499): a password that matches opens the customer state, clears the count, extends MR6 and is logged; a failure
counts, is logged and imposes its delay, the tenth locks; DEBUG_LOCK closes; a challenge is fresh and valid for one response; an
accepted response erases the owner's data, is counted and enters the vendor state, with the owner keys as fused. -/
def Sys2Proof.Claims.Debug : Prop :=
  (∀ (s : State) (p : Path) (pw : List Byte), Claims.Served s (.debugUnlock p pw) p →
    let w := s.stw
    ((pw = [] ∨ 32 < pw.length) → exec (.debugUnlock p pw) s = .next (Claims.replied s p [0x01]))
    ∧ (1 ≤ pw.length → pw.length ≤ 32 →
      (w.cfg.hash = none → exec (.debugUnlock p pw) s = .next (Claims.replied s p [0x06]))
      ∧ ∀ h, w.cfg.hash = some h →
        (w.plk = true → exec (.debugUnlock p pw) s = .next (Claims.replied s p [0x05]))
        ∧ (w.plk = false → s.now < w.pwUntil → exec (.debugUnlock p pw) s = .next (Claims.replied s p [0x04]))
        ∧ (w.plk = false → w.pwUntil ≤ s.now → w.pwf.toNat ≤ 9 →
          let good := Config.sha384 (w.cfg.salt ++ [BitVec.ofNat 8 pw.length] ++ pw) = h
          let event := [0x01#8] ++ natBytesBE 8 s.tmr.toNat ++ List.replicate 39 0
          (good → ∃ t u, exec (.debugUnlock p pw) s = .next t ∧ t = Claims.replied u p [0x00] ∧ Claims.Logged s u 0xFFFF
            ∧ u.stw.mr = (Claims.extended s 6 (Config.sha384 event)).stw.mr ∧ u.stw.pwf = 0
            ∧ u.stw.dbg = (if w.dbg = 2#2 then 2#2 else 1#2) ∧ u = Claims.withStw s u.stw)
          ∧ (¬ good → ∃ t u, exec (.debugUnlock p pw) s = .next t ∧ t = Claims.replied u p [0x08] ∧ Claims.Logged s u 0xFFFF
            ∧ u.stw.pwf.toNat = w.pwf.toNat + 1 ∧ u.stw.mr = w.mr ∧ u.stw.dbg = w.dbg ∧ u = Claims.withStw s u.stw
            ∧ (w.pwf.toNat < 9 → u.stw.plk = false ∧ u.stw.pwUntil = s.now + 450000000 * 2 ^ w.pwf.toNat)
            ∧ (w.pwf.toNat = 9 → u.stw.plk = true)))))
  ∧ (∀ (s : State) (p : Path), Claims.Served s (.debugLock p) p → exec (.debugLock p) s = .next (Claims.replied
      (Claims.withStw s { s.stw with dbg := if s.stw.dbg = 1#2 then 0 else s.stw.dbg }) p [0x00]))
  ∧ (∀ (s : State) (p : Path), Claims.Served s (.vendorChallenge p) p →
    (16 ≤ s.stw.fuses.unlocks → exec (.vendorChallenge p) s = .next (Claims.replied s p [0x09]))
    ∧ (s.stw.fuses.unlocks < 16 → ∃ n, exec (.vendorChallenge p) s = .next (Claims.replied
        (Claims.withStw s { s.stw with nonce := some n, challenges := s.stw.challenges + 1 }) p
        (0x00 :: Claims.bytes48 n ++ Claims.quad8 s.serial ++ [BitVec.ofNat 8 s.stw.fuses.unlocks]))))
  ∧ (∀ (s : State) (p : Path) (sig : List Byte), Claims.Served s (.vendorResponse p sig) p →
    (s.stw.nonce = none → exec (.vendorResponse p sig) s = .next (Claims.replied s p [0x08]))
    ∧ ∀ n, s.stw.nonce = some n → s.stw.fuses.unlocks < 16 →
      let good := Config.ecdsaVerify Config.debugAuthorityKey
        (Config.sha384 (Claims.bytes48 n ++ Claims.quad8 s.serial ++ [BitVec.ofNat 8 s.stw.fuses.unlocks])) sig = true
      (¬ good → exec (.vendorResponse p sig) s = .next (Claims.replied (Claims.withStw s { s.stw with nonce := none }) p [0x03]))
      ∧ (good → ∃ u, exec (.vendorResponse p sig) s = .next (Claims.replied u p [0x00])
        ∧ u.jnl.pen = false ∧ (((s.ring.st = .off ∨ s.ring.st = .left) → s.ring.byp = true) → u.ring.byp = true) ∧ (∀ e : EngId, (u.eng e).halt = true)
        ∧ u.phys = [] ∧ u.hbmEcc = [] ∧ u.vatMark = [] ∧ u.keys = []
        ∧ (∀ c : CoreId, (u.core c).loc = [] ∧ (u.core c).iram = [] ∧ ∀ e ∈ (u.core c).sbuf, e.isLoc = false)
        ∧ (∀ a, u.stw.flash.get a =
            if (0x800000 ≤ a ∧ a < 0x810000) ∨ (0x810000 ≤ a ∧ a < 0x811000) then 0 else s.stw.flash.get a)
        ∧ u.stw.cfg = OwnerCfg.none ∧ u.stw.nonce = none ∧ (∀ x : RPort, ∀ i : Fin 2, (u.rp x).tx[i].key = none ∧ (u.rp x).rx[i].key = none)
        ∧ u.stw.fuses = { s.stw.fuses with unlocks := s.stw.fuses.unlocks + 1 }
        ∧ u.stw.mr = (Claims.extended s 6 (Config.sha384 ([0x02#8] ++ natBytesBE 8 s.tmr.toNat ++ List.replicate 39 0))).stw.mr
        ∧ u.stw.pwf = 0 ∧ u.stw.plk = false ∧ u.stw.mcTodo = []
        ∧ (∀ q : QuireId, (u.quire q).image.custId = 0 ∧ (u.quire q).image.custVer = 0
            ∧ ∀ a, 3072 ≤ a → (u.quire q).image.micro.get a = 0)
        ∧ u.stw.bst = .vendor ∧ u.stw.dbg = 2 ∧ ∃ v, Claims.Logged v u 0xFFFF ∧ (s.jnl.rep = false → v.stw.log = s.stw.log)))

/-- The management commands (R473, R474, R479, R482, R485 to R489, R491 to R493, R495 to R499).
Choices of the model on which clauses of it rest: notes/assumptions 107, 108, 109, 110, 111, 112, 113, 114, 115, 116, 117, 118, 119, 177, 185. -/
def Obligations.ManagementCommands : Prop :=
  Claims.Paths ∧ Claims.Queries ∧ Claims.Images ∧ Claims.OwnerKeys ∧ Claims.RingKeys ∧ Claims.Debug

namespace Sys2Proof.Claims

/-- A load may run: the firmware is up and awake, and no parity reload waits (R404). -/
def LoadRuns (s : State) : Prop :=
  s.live = true ∧ s.pwr.st ≠ .dormant ∧ s.stw.bst = .ready ∧ ∀ c : CoreId, (s.core c).ctl.reload = none

/-- A load ended with a result, which is logged, and t has nothing of it left (R399, R491). -/
def LoadEnds (s t : State) (err : BitVec 8) : Prop :=
  t.stw.mcBusy = false ∧ t.stw.mcGo = false ∧ t.stw.mcDone = true ∧ t.stw.mcErr = err ∧ t.stw.mcTodo = [] ∧ Logged s t 0xFFFF

/-- The verification of a load fails in quire q, whether its previous image verifies again or not (R403). -/
def Fails (v : LoadVerify) (q : QuireId) : Prop := v = .restored q ∨ ∃ c, v = .failed c ∧ coreQuire c = q

/-- Every signature that a bundle needs verifies, but for the co-signature (R395, R396): the owner's for a customer image, Noward's
for a vendor patch. -/
def BundleSigned (s : State) (b : Bundle) : Prop :=
  if b.customer then ∃ blk i, b.owner = some blk ∧ ownerCheck s.stw.fuses blk b.digest = .ok i
  else (∃ blk, b.noward = some blk ∧ nowardOk blk b.digest = true)
    ∧ (s.stw.mcOcs = true → ∃ blk i, b.owner = some blk ∧ ownerCheck s.stw.fuses blk b.digest = .ok i)

/-- A bundle names the quires that its mask and MC_CTL.QM name, and no failed one; a mask of 0 names all (R22, R394, R399). -/
def Names (s : State) (b : Bundle) (q : QuireId) : Prop :=
  (b.mask = 0#8 ∨ b.mask.getLsbD q.val = true) ∧ s.stw.mcQm.getLsbD q.val = true ∧ (s.quire q).failed = false

/-- A bundle passes the checks of R394 to R396: every word in its own area, signatures, base version, a higher patch level or customer
version of one that is loaded, and the rules of R384 and R391 in every image that it makes. -/
def Accepted (s : State) (b : Bundle) : Prop :=
  (∀ w ∈ b.words, w.inCustomer = b.customer) ∧ (b.customer = true → b.custId = 0#16 → b.words = [])
  ∧ BundleSigned s b ∧ (∀ q : QuireId, (s.quire q).image.base = b.base)
  ∧ (if b.customer then ∀ q, Names s b q →
        (s.quire q).image.custId ≠ b.custId ∨ (s.quire q).image.custVer.toNat < b.custVer.toNat
      else ∀ q : QuireId, (s.quire q).image.patch.toNat < b.patch.toNat)
  ∧ ∀ q, Names s b q → rulesOk b (b.apply (s.quire q).image) = true

end Sys2Proof.Claims

/-- CONTROL_STORE_LOAD (R396, R399 to R404, R421): nothing without GO; a source in HBM that must wait is waited for, one that cannot
be read ends with 0x08, a malformed bundle with 0x01, and one that is not accepted with another code, no store changed.
An accepted one runs quire by quire: where a quire's cores have not stopped, the load waits with the quire quiesced; where they
have, its image is written, QD shows it, and its cores go on; a verify that fails in one quire keeps the previous image there, the
quires before it keep the new one, and the load ends with 0x09, and where the previous image fails too the core checkstops and the
Steward has a failed reload to handle; PFAIL_N ends with 0x0A. The last
quire done, the load ends with 0x00, and MR4 is extended by the bundle's digest. -/
def Sys2Proof.Claims.Loads : Prop :=
  (∀ (s : State) (r : HostReply) (v : LoadVerify), (¬ Claims.LoadRuns s ∨ (s.stw.mcBusy = false ∧ s.stw.mcGo = false)) →
    exec (.controlStoreLoad r v) s = .next s)
  ∧ (∀ (s : State) (r : HostReply) (v : LoadVerify), Claims.LoadRuns s → s.stw.mcBusy = false → s.stw.mcGo = true →
    let held := s.stw.mcHbm = true ∧ (bundleHeld s s.stw.mcAddr.toNat).isSome
    let s0 := Claims.withStw s { s.stw with mcGo := false, mcQd := 0 }
    (∀ ln, s.stw.mcHbm = true → bundleHeld s s.stw.mcAddr.toNat = some ln →
      exec (.controlStoreLoad r v) s = .next (s.await srcSteward .data ln))
    ∧ (∀ s1, ¬ held → bundleBytes s0 r = (s1, none) →
      ∃ t, exec (.controlStoreLoad r v) s = .next t ∧ Claims.LoadEnds s1 t 0x08 ∧ t.quires = s1.quires ∧ t.cores = s.cores)
    ∧ ∀ s1 bs, ¬ held → bundleBytes s0 r = (s1, some bs) →
      (bundleOf bs = none → ∃ t, exec (.controlStoreLoad r v) s = .next t ∧ Claims.LoadEnds s1 t 0x01 ∧ t.quires = s1.quires
        ∧ t.cores = s.cores)
      ∧ (∀ b, bundleOf bs = some b →
        (¬ Claims.Accepted s1 b → ∃ t e, exec (.controlStoreLoad r v) s = .next t ∧ Claims.LoadEnds s1 t e ∧ 1 ≤ e.toNat
          ∧ e.toNat ≤ 7 ∧ t.quires = s1.quires ∧ t.cores = s.cores ∧ t.stw.mr = s.stw.mr)
        ∧ (Claims.Accepted s1 b → ∃ todo : List (QuireId × Image),
          (∀ q g, (q, g) ∈ todo ↔ Claims.Names s1 b q ∧ g = b.apply (s1.quire q).image)
          ∧ (todo.map (·.1)).Pairwise (· < ·)
          ∧ exec (.controlStoreLoad r v) s = exec (.controlStoreLoad r v) (Claims.withStw s1 { s1.stw with
              mcBusy := true, mcDigest := b.digest, mcTodo := todo }))))
  ∧ (∀ (s : State) (r : HostReply) (v : LoadVerify), Claims.LoadRuns s → s.stw.mcBusy = true → (s.stw.mcTodo.map (·.1)).Nodup →
    (s.jnl.pf = true → s.stw.mcTodo ≠ [] → ∃ t, exec (.controlStoreLoad r v) s = .next t ∧ t.stw.mcErr = 0x0A ∧ t.stw.mcBusy = false
      ∧ ∀ q : QuireId, (t.quire q).image = (s.quire q).image)
    ∧ (s.jnl.pf = false → (∀ x ∈ s.stw.mcTodo, quireStopped s x.1 = true ∧ ¬ Fails v x.1) → ∃ t,
      exec (.controlStoreLoad r v) s = .next t ∧ Claims.LoadEnds s t 0x00
      ∧ t.stw.mr = (Claims.extended s 4 s.stw.mcDigest).stw.mr
      ∧ (∀ q g, (q, g) ∈ s.stw.mcTodo →
          (t.quire q).image = g ∧ (t.quire q).quiesced = false ∧ t.stw.mcQd.getLsbD q.val = true)
      ∧ ∀ q : QuireId, (∀ x ∈ s.stw.mcTodo, x.1 ≠ q) → t.quire q = s.quire q ∧ ∀ i : Fin 8, t.core (coreOf q i) = s.core (coreOf q i))
    ∧ (∀ q g rest, s.jnl.pf = false → s.stw.mcTodo = (q, g) :: rest →
      (quireStopped s q = false → ∃ t, exec (.controlStoreLoad r v) s = .next t
        ∧ t.quire q = { s.quire q with quiesced := true } ∧ t.stw = s.stw
        ∧ ∀ u : QuireId, u ≠ q → t.quire u = s.quire u ∧ ∀ i : Fin 8, t.core (coreOf u i) = s.core (coreOf u i)))
    ∧ (∀ done q g rest, s.jnl.pf = false → s.stw.mcTodo = done ++ (q, g) :: rest →
        (∀ x ∈ done, quireStopped s x.1 = true ∧ ¬ Fails v x.1) → quireStopped s q = true → Fails v q → ∃ t,
      exec (.controlStoreLoad r v) s = .next t ∧ t.stw.mcErr = 0x09 ∧ t.stw.mcBusy = false ∧ t.stw.mr = s.stw.mr
      ∧ (∀ x ∈ done, (t.quire x.1).image = x.2 ∧ (t.quire x.1).quiesced = false) ∧ (t.quire q).quiesced = false
      ∧ (∀ u : QuireId, (∀ x ∈ done, x.1 ≠ u) → (t.quire u).image = (s.quire u).image)
      ∧ (∀ u, v = .restored u → t.stw.faults = s.stw.faults)
      ∧ ∀ c, v = .failed c → t.stw.faults = s.stw.faults ++ [.reload c] ∧ (t.core c).ctl.cks = true))

/-- What the Steward does of itself: faults, its log, poison marks, control-store loads (R214, R374, R375, R396, R399 to R404, R471,
R475, R491).
Choices of the model on which clauses of it rest: notes/assumptions 56, 57, 104, 124, 125, 126, 127, 133, 186, 189. -/
def Obligations.StewardActs : Prop := Claims.Faults ∧ Claims.Loads

namespace Sys2Proof.Claims

/-- A transport of SPDM and its connection: DOE, MCTP over SMBus, MCTP over PCIe VDM (R484). -/
def conn : Path → Option (Fin 3)
  | .doe => some 0 | .smbus => some 1 | .vdm => some 2 | .inBand => none

/-- The Steward answers SPDM on a transport: the firmware, with the link up for the two that need it; in HELD the ROM monitor, over
SMBus and for identity requests alone (R479, R484, R489). -/
def AnswersSpdm (s : State) (p : Path) (identity : Bool) : Prop :=
  s.awake = true ∧ (p = .smbus ∨ s.host.lup = true) ∧ (¬ Monitor s ∨ (p = .smbus ∧ s.stw.bst = .held ∧ identity = true))

/-- s with a response sent. -/
def answered (s : State) (p : Path) (code : Byte) (bs : List Byte) : State :=
  { s with out := s.out ++ [.spdm p (sender s p) code bs] }

/-- The serial number in 16 hexadecimal digits of ASCII (R483). -/
def serialDigits (s : State) : List Byte :=
  (List.range 16).map (fun i =>
    let d := s.serial.toNat / 16 ^ (15 - i) % 16
    BitVec.ofNat 8 (d + if d < 10 then 0x30 else if Config.hexCapitals then 0x37 else 0x57))

/-- The certificate chain: root, product authority, and the device certificate of the serial number (R483). -/
def chain (s : State) : List Byte :=
  Config.rootCertificate ++ Config.authorityCertificate ++ Config.deviceCertificate (serialDigits s)

/-- s with a connection changed. -/
def connected (s : State) (i : Fin 3) (x : Spdm) : State := { s with stw := { s.stw with spdm := s.stw.spdm.set i x } }

/-- The measurement of an index (R484): MR0 to MR7, then the digest of the control stores of each quire. -/
def measures (s : State) (i : Nat) : Option (BitVec 384) :=
  if i = 0 then none else if i ≤ 8 then s.stw.mr.toList[i - 1]? else if i ≤ 16 then (s.quires.toList[i - 9]?).map (·.image.digest) else none

end Sys2Proof.Claims

/-! ### Attestation and the TAP -/

/-- SPDM (R483, R484): each transport keeps its own connection; version 1.2, the three capabilities and the algorithms of R484; the
digest of the chain in slot 0 and any part of the chain; a challenge or signed measurement is answered with a nonce and a
signature, or with ResponseNotReady and then by RESPOND_IF_READY; a measurement is that of R484. The codes and the order of
requests are those of DSP0274, which the spec names (the model's reading: notes/assumptions/120.md). -/
def Sys2Proof.Claims.SpdmRequests : Prop :=
  (∀ (s : State) (p : Path) (i : Fin 3), Claims.conn p = some i → Claims.AnswersSpdm s p true →
    let x := s.stw.spdm[i]
    exec (.getVersion p) s = .next (Claims.answered
      (Claims.connected s i { version := true, caps := false, algs := false, waiting := none }) p 0x04 [0x12, 0x00])
    ∧ (x.version = true → exec (.getCapabilities p) s =
        .next (Claims.answered (Claims.connected s i { x with caps := true, algs := false }) p 0x61 [0x16, 0, 0, 0]))
    ∧ (x.version = false → exec (.getCapabilities p) s = .next (Claims.answered s p 0x7F [0x04, 0]))
    ∧ (∀ p384 sha dmtf : Bool, x.caps = true → exec (.negotiateAlgorithms p p384 sha dmtf) s =
        .next (Claims.answered (Claims.connected s i { x with algs := p384 && sha }) p 0x63
          [if dmtf then 1 else 0, if sha then 4 else 0, 0, 0, 0, if p384 then 0x80 else 0, 0, 0, 0, if sha then 2 else 0, 0, 0, 0]))
    ∧ (∀ p384 sha dmtf : Bool, x.caps = false →
        exec (.negotiateAlgorithms p p384 sha dmtf) s = .next (Claims.answered s p 0x7F [0x04, 0]))
    ∧ (x.algs = true →
      exec (.getDigests p) s = .next (Claims.answered s p 0x01 (0x01 :: Claims.bytes48 (Config.sha384 (Claims.chain s))))
      ∧ (∀ off len : BitVec 16,
          let all := Claims.chain s
          let part := (all.drop off.toNat).take len.toNat
          exec (.getCertificate p 0 off len) s = .next (if all.length ≤ off.toNat then Claims.answered s p 0x7F [0x01, 0]
            else Claims.answered s p 0x02
              (0x00 :: natBytesLE 2 part.length ++ natBytesLE 2 (all.length - off.toNat - part.length) ++ part)))
      ∧ (∀ (slot : Fin 8) (off len : BitVec 16), slot ≠ 0 →
          exec (.getCertificate p slot off len) s = .next (Claims.answered s p 0x7F [0x01, 0]))
      ∧ ∀ nonce : BitVec 256, ∃ f,
          let d := { s with freeCount := f }
          exec (.challenge p 0 nonce) s =
            .next (Claims.answered (Claims.connected d i { x with waiting := some (none, nonce) }) p 0x7F [0x42, 0])
          ∨ ∃ n sig, n.length = 32 ∧ exec (.challenge p 0 nonce) s =
            .next (Claims.answered (Claims.withStw d { s.stw with challenges := s.stw.challenges + 1 }) p 0x03
              ([0x00, 0x01] ++ Claims.bytes48 (Config.sha384 (Claims.chain s)) ++ n ++ sig)))
    ∧ (x.algs = false → ∀ (slot : Fin 8) (off len : BitVec 16) (nonce : BitVec 256),
        exec (.getDigests p) s = .next (Claims.answered s p 0x7F [0x04, 0])
        ∧ exec (.getCertificate p slot off len) s = .next (Claims.answered s p 0x7F [0x04, 0])
        ∧ exec (.challenge p slot nonce) s = .next (Claims.answered s p 0x7F [0x04, 0]))
    ∧ (x.waiting = none → exec (.respondIfReady p) s = .next (Claims.answered s p 0x7F [0x04, 0]))
    ∧ (∀ nonce, x.waiting = some (none, nonce) → ∃ n sig, n.length = 32 ∧ exec (.respondIfReady p) s =
        .next (Claims.answered (Claims.withStw (Claims.connected s i { x with waiting := none })
            { (Claims.connected s i { x with waiting := none }).stw with challenges := s.stw.challenges + 1 }) p 0x03
          ([0x00, 0x01] ++ Claims.bytes48 (Config.sha384 (Claims.chain s)) ++ n ++ sig))))
  ∧ (∀ (s : State) (p : Path) (i : Fin 3) (nonce : BitVec 256), Claims.conn p = some i → Claims.AnswersSpdm s p false →
    (s.stw.spdm[i]).algs = true →
    (∀ (n : BitVec 8) (d : BitVec 384), Claims.measures s n.toNat = some d →
      exec (.getMeasurements p n false nonce) s = .next (Claims.answered s p 0x60 ([1, n] ++ Claims.bytes48 d))
      ∧ ∃ f, let u := { s with freeCount := f }
          exec (.getMeasurements p n true nonce) s =
            .next (Claims.answered (Claims.connected u i { s.stw.spdm[i] with waiting := some (some n, nonce) }) p 0x7F [0x42, 0])
          ∨ ∃ r sig, r.length = 32 ∧ exec (.getMeasurements p n true nonce) s =
            .next (Claims.answered (Claims.withStw u { s.stw with challenges := s.stw.challenges + 1 }) p 0x60
              ([1, n] ++ Claims.bytes48 d ++ r ++ sig)))
    ∧ exec (.getMeasurements p 0 false nonce) s = .next (Claims.answered s p 0x60 [16])
    ∧ (∀ n : BitVec 8, 16 < n.toNat → n ≠ 0xFF#8 →
        ∀ signed, exec (.getMeasurements p n signed nonce) s = .next (Claims.answered s p 0x7F [0x01, 0])))
  ∧ (∀ (s : State) (p : Path) (nonce : BitVec 256) (n : BitVec 8) (signed : Bool),
    (Claims.conn p = none ∨ ¬ Claims.AnswersSpdm s p true → exec (.getVersion p) s = .next s ∧ exec (.getDigests p) s = .next s
      ∧ exec (.respondIfReady p) s = .next s)
    ∧ (Claims.conn p = none ∨ ¬ Claims.AnswersSpdm s p false → exec (.getMeasurements p n signed nonce) s = .next s))

/-- MCTP control (R485): on SMBus, and on PCIe VDM while the firmware runs, the bus owner assigns the endpoint ID of the transport, and
the device reports it, its versions and its message types. The layout is that of DSP0236, which the spec's standards name
(the model's reading: notes/assumptions/121.md). -/
def Sys2Proof.Claims.MctpControl : Prop :=
  ∀ (s : State) (p : Path) (eid : Byte),
    let serves := s.awake = true ∧ (p = .smbus ∨ (p = .vdm ∧ s.host.lup = true ∧ ¬ Claims.Monitor s))
    let sends := fun (t : State) (bs : List Byte) => Host.Outcome.next { t with out := t.out ++ [.mctp p (Claims.sender t p) bs] }
    (serves → eid ≠ 0x00 → eid ≠ 0xFF → exec (.setEndpointId p eid) s = sends (Claims.withStw s { s.stw with
        eid := if p = .smbus then eid else s.stw.eid, eidVdm := if p = .vdm then eid else s.stw.eidVdm }) [0x00, 0x00, eid, 0x00])
    ∧ (serves → exec (.getEndpointId p) s = sends s [0x00, if p = .vdm then s.stw.eidVdm else s.stw.eid, 0x00, 0x00])
    ∧ (serves → exec (.getMctpVersionSupport p) s = sends s (0x00 :: Config.mctpVersions))
    ∧ (serves → exec (.getMessageTypeSupport p) s = sends s [0x00, 0x02, 0x05, 0x7E])
    ∧ (¬ serves → exec (.setEndpointId p eid) s = .next s ∧ exec (.getEndpointId p) s = .next s
        ∧ exec (.getMctpVersionSupport p) s = .next s ∧ exec (.getMessageTypeSupport p) s = .next s)

/-- The TAP (R494, R496, R498, R544): its six open instructions work whenever the device has power and TRST_N is high, halt-safe
included; IDCODE shifts out
version 0xB, part 0x0640, the manufacturer's code and a 1; UNLOCK is an attempt with the password that its length byte and data
give, and VCHAL a challenge, each answered as the management command over SMBus is. -/
def Sys2Proof.Claims.TapPort : Prop :=
  (∀ (s : State) (inputs held : List Bool), s.pins.phase ≠ .off → s.pins.trstN = true →
    let t := fun (x : Tap) (b : List Bool) (l : List Output) => Host.Outcome.next
      { s with stw := { s.stw with tap := x, boundary := b }, out := s.out ++ l }
    exec .bypass s = t .bypass s.stw.boundary [.tdo [false]]
    ∧ (∃ bits, exec .idcode s = t .idcode s.stw.boundary [.tdo bits] ∧ bits.length = 32
        ∧ ∀ i < 32, bits.getD i false = ((0xB#4 ++ 0x0640#16 ++ Config.jedecCode ++ 1#1 : BitVec 32).getLsbD i))
    ∧ exec (.samplePreload inputs held) s = t .sample held [.tdo inputs]
    ∧ exec (.extest inputs held) s = t .extest held [.pads s.stw.boundary, .tdo inputs]
    ∧ exec .extestPulse s = t .extestPulse s.stw.boundary [.pads s.stw.boundary]
    ∧ exec .extestTrain s = t .extestTrain s.stw.boundary [.pads s.stw.boundary])
  ∧ (∀ (s : State) (inputs held : List Bool) (len : Byte), (s.pins.phase = .off ∨ s.pins.trstN = false) → ∀ i ∈ [Instr.bypass, .idcode, .samplePreload inputs held,
      .extest inputs held, .extestPulse, .extestTrain, .unlock len [], .vchal], exec i s = .next s)
  ∧ (∀ (s : State) (len : Byte) (data : List Byte), Claims.Arrives s .smbus → s.pins.trstN = true → ¬ Claims.Monitor s →
    (data.length = 32 → 1 ≤ len.toNat → len.toNat ≤ 32 → ∃ u b bits,
      exec (.debugUnlock .smbus (data.take len.toNat)) s = .next (Claims.replied u .smbus [b])
      ∧ exec (.unlock len data) s = .next { u with stw := { u.stw with tap := .unlock }, out := u.out ++ [.tdo bits] }
      ∧ bits.length = 8 ∧ ∀ i < 8, bits.getD i false = b.getLsbD i)
    ∧ ∃ u bs bits, exec (.vendorChallenge .smbus) s = .next (Claims.replied u .smbus bs)
      ∧ exec .vchal s = .next { u with stw := { u.stw with tap := .vchal }, out := u.out ++ [.tdo bits] }
      ∧ bits.length = 8 * bs.length ∧ ∀ i < bits.length, bits.getD i false = (bs.getD (i / 8) 0).getLsbD (i % 8))
  ∧ (∀ (s : State) (len : Byte) (data : List Byte), (¬ Claims.Arrives s .smbus ∨ Claims.Monitor s ∨ s.pins.trstN = false) →
    exec (.unlock len data) s = .next s ∧ exec .vchal s = .next s)

/-- The identity of the device and the access to it from outside (R483 to R485, R494, R496, R498).
Choices of the model on which clauses of it rest: notes/assumptions 120, 121, 122, 182, 184, 185. -/
def Obligations.AttestationAndTap : Prop := Claims.SpdmRequests ∧ Claims.MctpControl ∧ Claims.TapPort

namespace Sys2Proof.Claims

/-- Requests for a power state are acted on: the firmware runs, and the device is neither frozen nor tripped (R270, R375, R537). -/
def PowerActs (s : State) : Prop := s.live = true ∧ s.jnl.frz = false

/-- Core c has nothing under way but a SWAIT (R400, R513). -/
def Quiet (s : State) (c : CoreId) : Prop :=
  (s.core c).stopped = true ∧ (s.core c).sbuf = [] ∧ (s.core c).pushq = [] ∧ (s.core c).outq = []

/-- A core out of gating with no broadcast recorded and no DSU instruction stopped (R338, R363, R513). -/
def ungated (k : Core) : Core :=
  { k with ctl := { k.ctl with gated := false, recShootF := false, noWake := false, woken := false, dlv := false, stallSince := none } }

/-- The transition of s to Run, Trim or Idle has begun in t (R510, R512 to R514): the running cores of the quires selected are asked to
stop, and every other core is ungated; once those cores have stopped the state is in effect, and in Idle a stream pair with
nothing to run is gated; until then BUSY is 1. Nothing else changes but PWR_CTL and PWR_STAT. -/
def ActiveIn (s t : State) (st : PwrSt) (req : BitVec 3) (tq : BitVec 8) : Prop :=
  let gq : BitVec 8 := match st with | .trim => tq | .idle => 0xFF | _ => 0
  let done := ∀ c : CoreId, gq.getLsbD (coreQuire c).val = true → (t.core c).gateDone = true
  let asked := { s.pwr with req := req, tq := tq, goal := st, goalQ := gq }
  (done → t.pwr = { asked with st := st, gq := gq, move := .still })
  ∧ (¬ done → t.pwr = { asked with move := .toActive } ∧ t.engines = s.engines)
  ∧ (∀ c : CoreId,
    let k := s.core c; let k1 := t.core c
    (gq.getLsbD (coreQuire c).val = true →
      (k.ctl.run = true → k.ctl.cks = false → k.ctl.iso = false → k1.ctl.gated = true ∧ k1.ctl.noWake = false
        ∧ ((k.ctl.gated = true ∨ k.dsuBusy = false) → k1 = { k with ctl := k1.ctl }))
      ∧ ((k.ctl.run = false ∨ k.ctl.cks = true ∨ k.ctl.iso = true) → k1 = k))
    ∧ (gq.getLsbD (coreQuire c).val = false →
      ((k.ctl.gated = true ∨ k.ctl.woken = true) → k.ctl.recShoot = false → k.ctl.dsuStopped = false → k1 = ungated k)
      ∧ (k.ctl.gated = false → k.ctl.woken = false → k1 = k)))
  ∧ (done → ∀ e : EngId, t.eng e =
      { s.eng e with gated := decide (st = .idle) && !(s.eng e).hasWork && !(s.eng (pairOf e)).hasWork })
  ∧ t = { s with pwr := t.pwr, cores := t.cores, engines := t.engines, stamp := t.stamp }

/-- PFAIL_N's sequence has begun (R269, R519): postings have stopped, source 44 is pending in every quire with its message, and a device
in Dormant, or on its way out, is frozen at once. -/
def FailsPower (s t : State) : Prop :=
  (s.stw.hsf = false → s.awake = true → t.jnl.pf = true ∧ (s.jnl.pf = false → t.jnl.pfSince = s.now
    ∧ ∀ q : QuireId, (t.quire q).routes[44].pnd = true ∧ (0x05#8 ++ 0#48) ∈ (t.quire q).routes[44].msgs))
  ∧ (s.stw.hsf = false → s.awake = true → s.jnl.pf = false → s.pwr.st = .dormant → t.jnl.frz = true)
  ∧ ((s.stw.hsf = true ∨ s.jnl.pf = true ∨ s.awake = false) → t.jnl = s.jnl)
  ∧ t.phys = s.phys ∧ t.keys = s.keys

/-- The ring registers after the bypass has closed for a transition or a reset. -/
def ringOff (s : State) : Ring := entering (closed s.ring) .off s.now

/-- Source 47 is pending in every quire, and the entry into level 1 or the return to level 0 is logged (R534). -/
def ThrottleTold (s t : State) : Prop :=
  (∀ q : QuireId, (t.quire q).routes[47].pnd = true) ∧ Logged s t 0xFFFF
  ∧ t = { s with pwr := t.pwr, quires := t.quires, stw := t.stw }

end Sys2Proof.Claims

/-! ### Power, thermal and clocks -/

/-- Requests for Run, Trim and Idle (R510, R512 to R514, R517, R519): PWR_CTL takes the request; it has no effect in a device that is
frozen, tripped or in reset, and is held while a transition runs; otherwise the transition begins, which ends when the cores
selected have stopped, and a request held is then acted on. Out of Dormant the mesh spine comes first, then the stack leaves
self-refresh, then the cores go on and the ring may join, each a step that a frozen device does not take. -/
def Sys2Proof.Claims.ActiveRequests : Prop :=
  (∀ (s : State) (tq : BitVec 8), ∀ x ∈ [(Instr.powerRun, PwrSt.run, 0#3, s.pwr.tq), (.powerTrim tq, .trim, 1, tq),
      (.powerIdle, .idle, 2, s.pwr.tq)],
    let asked := { s.pwr with req := x.2.2.1, tq := x.2.2.2 }
    (¬ Claims.PowerActs s → exec x.1 s = .next { s with pwr := asked })
    ∧ (Claims.PowerActs s → s.pwr.move ≠ .still → exec x.1 s = .next { s with pwr := { asked with late := true } })
    ∧ (Claims.PowerActs s → s.pwr.move = .still → s.pwr.st ≠ .dormant →
      ∃ t, exec x.1 s = .next t ∧ Claims.ActiveIn s t x.2.1 x.2.2.1 x.2.2.2)
    ∧ (Claims.PowerActs s → s.pwr.move = .still → s.pwr.st = .dormant →
      exec x.1 s = .next { s with pwr := { asked with move := .outSpine, goal := x.2.1 } }))
  ∧ (∀ s : State, Claims.Calm s →
    (¬ Claims.PowerActs s → step s = .next (Claims.ticked s))
    ∧ (Claims.PowerActs s → s.pwr.move = .outSpine →
      step s = .next { Claims.ticked s with hbm := { s.hbm with sr := false }, pwr := { s.pwr with move := .outStack } })
    ∧ (Claims.PowerActs s → s.pwr.move = .outStack → s.pwr.late = false → (∀ n : QpId, (s.qp n).lateSq = none ∧ (s.qp n).lateCq = none) →
      ∃ t, Claims.ActiveIn { Claims.ticked s with pwr := { s.pwr with st := .run } } t s.pwr.goal s.pwr.req s.pwr.tq
        ∧ (s.ring.jen = true → s.pins.ringEn = true → Claims.MayListen t →
            step s = .next { t with ring := Claims.listening t.ring t.now })
        ∧ ((s.ring.jen = false ∨ s.pins.ringEn = false ∨ ¬ Claims.MayListen t) → step s = .next t))
    ∧ (Claims.PowerActs s → s.pwr.move = .toActive →
      let done := ∀ c : CoreId, s.pwr.goalQ.getLsbD (coreQuire c).val = true → (s.core c).gateDone = true
      (¬ done → step s = .next (Claims.ticked s))
      ∧ (done → s.pwr.late = false → ∃ t, step s = .next t ∧ t.cores = s.cores
          ∧ t.pwr = { s.pwr with st := s.pwr.goal, gq := s.pwr.goalQ, move := .still })
      ∧ (done → s.pwr.late = true → s.pwr.req = 0 → s.pwr.goal ≠ .dormant → ∃ t, step s = .next t
          ∧ t.pwr.st = .run ∧ t.pwr.move = .still ∧ t.pwr.late = false)))

/-- Requests for Dormant (R512, R515, R517): refused, with the reason, while postings run, entries are held, an engine has not halted or a
load runs; else LEAVE goes out, the bypass closes, the cores are gated without wake, and once they are quiet the device is in
Dormant with its stack in self-refresh, an open window completed and its engines gated. Doorbells recorded in Dormant are
served on the way out. -/
def Sys2Proof.Claims.DormantRequests : Prop :=
  (∀ s : State, Claims.PowerActs s → s.pwr.move = .still → s.pwr.st ≠ .dormant →
    let posts := s.jnl.pen = true ∨ jnlInfl s = true
    let runs := ∃ e : EngId, (s.eng e).hlt = false
    let refused := fun (w : BitVec 3) => exec .powerDormant s = .next { s with pwr := { s.pwr with req := 3, ref := true, why := w } }
    (posts → refused 1)
    ∧ (¬ posts → s.jnl.held ≠ 0 → refused 2)
    ∧ (¬ posts → s.jnl.held = 0 → runs → refused 3)
    ∧ (¬ posts → s.jnl.held = 0 → ¬ runs → s.stw.mcBusy = true → refused 4)
    ∧ (¬ posts → s.jnl.held = 0 → ¬ runs → s.stw.mcBusy = false → ∃ t, exec .powerDormant s = .next t
      ∧ t.ring = Claims.ringOff (if s.ring.byp then s else sendControl (sendControl s .a 6 0 none) .b 6 0 none)
      ∧ (∀ c : CoreId, (s.core c).ctl.run = true → (s.core c).ctl.cks = false → (s.core c).ctl.iso = false →
          (t.core c).ctl.gated = true ∧ (t.core c).ctl.noWake = true)
      ∧ t.phys = s.phys ∧ t.keys = s.keys ∧ t.pwr.req = 3
      ∧ ((∀ c, Claims.Quiet s c) → t.pwr.st = .dormant ∧ t.pwr.move = .still ∧ t.pwr.gq = 0xFF ∧ t.hbm.sr = true ∧ t.hbm.cal = false
          ∧ t.hbm.win = (if s.hbm.cal then s.hbm.win + 1 else s.hbm.win) ∧ ∀ e : EngId, (t.eng e).gated = true)
      ∧ ((∃ c, ¬ Claims.Quiet s c) → t.pwr.st = s.pwr.st ∧ t.pwr.move = .toDormant)))
  ∧ (∀ s : State,
    (¬ Claims.PowerActs s → exec .powerDormant s = .next { s with pwr := { s.pwr with req := 3 } })
    ∧ (Claims.PowerActs s → s.pwr.move = .still → s.pwr.st = .dormant →
      exec .powerDormant s = .next { s with pwr := { s.pwr with req := 3 } })
    ∧ (Claims.PowerActs s → s.pwr.move ≠ .still →
      exec .powerDormant s = .next { s with pwr := { s.pwr with req := 3, late := true } }))
  ∧ (∀ s : State, Claims.Calm s → Claims.PowerActs s → s.pwr.move = .toDormant →
    ((∃ c, ¬ Claims.Quiet s c) → step s = .next (Claims.ticked s))
    ∧ ((∀ c, Claims.Quiet s c) → s.pwr.late = false →
      ∃ t, step s = .next t ∧ t.pwr.st = .dormant ∧ t.pwr.move = .still ∧ t.hbm.sr = true ∧ t.cores = s.cores))
  ∧ (∀ (s : State) (n : QpId) (v : W64), Claims.Calm s → Claims.PowerActs s → s.pwr.move = .outStack → s.pwr.late = false →
    let x := s.qp n
    x.lateSq = some v → x.lateCq = none → x.en = true → x.act.qe = false → v.toNat % 2 ^ 13 < x.sqn.toNat →
    ∃ t, step s = .next t ∧ t.qp n = { x with lateSq := none, sqt := BitVec.ofNat 13 v.toNat })

/-- What the pins and supervisors do (R507, R523, R532 to R537): the sensor reading, with the times for which it has stood high or low;
the throttle level and its messages; a trip, the loss of REFCLK and a low rail begin the power-failure sequence and leave their
marks, a trip with every core and stream gated; a rail still low after 50 us holds the device in reset. That a further change of level counts its 1 ms afresh is the
model's choice (notes/assumptions/140.md). -/
def Sys2Proof.Claims.Supervision : Prop :=
  (∀ (s : State) (t : BitVec 8),
    let p := s.pwr; let ton : Int := max 70 (min 100 (p.ton.toNat : Int))
    (s.awake = true → s.stw.hsf = false → exec (.thermalSensorRead t) s = .next { s with pwr := { p with
        tj := t, tjV := true, hotSince := if ton + 3 ≤ t.toInt then some (p.hotSince.getD s.now) else none
        coolSince := if t.toInt < ton - 5 then some (p.coolSince.getD s.now) else none } })
    ∧ ((s.awake = false ∨ s.stw.hsf = true) → exec (.thermalSensorRead t) s = .next s ∧ exec .throttleChange s = .next s))
  ∧ (∀ s : State, s.awake = true → s.stw.hsf = false → s.pwr.tjV = true →
    let p := s.pwr; let ton : Int := max 70 (min 100 (p.ton.toNat : Int))
    let hot := ∃ h, p.hotSince = some h ∧ h + 900000 ≤ s.now
    let cool := ∃ h, p.coolSince = some h ∧ h + 900000 ≤ s.now
    (p.lvl = 0 → ton ≤ p.tj.toInt → ∃ t, exec .throttleChange s = .next t ∧ Claims.ThrottleTold s t
      ∧ t.pwr = { p with lvl := 1, tcnt := p.tcnt + 1, hotSince := p.hotSince.map (fun _ => s.now) })
    ∧ (p.lvl = 1 → hot → exec .throttleChange s = .next { s with pwr := { p with lvl := 2 } })
    ∧ (p.lvl = 1 → ¬ hot → cool → ∃ t, exec .throttleChange s = .next t ∧ Claims.ThrottleTold s t
      ∧ t.pwr = { p with lvl := 0, coolSince := some s.now })
    ∧ (p.lvl = 2 → cool → exec .throttleChange s = .next { s with pwr := { p with lvl := 1, coolSince := some s.now } })
    ∧ ((p.lvl = 0 ∧ p.tj.toInt < ton ∨ p.lvl = 1 ∧ ¬ hot ∧ ¬ cool ∨ p.lvl = 2 ∧ ¬ cool) → exec .throttleChange s = .next s))
  ∧ (∀ (s : State) (stack : Bool),
    (s.pins.phase ≠ .off → s.pwr.trip = false → ∃ t, exec (.thermalTrip stack) s = .next t ∧ Claims.FailsPower s t
      ∧ (∀ c : CoreId, t.core c = { s.core c with ctl := { (s.core c).ctl with gated := true, noWake := true } })
      ∧ (∀ e : EngId, t.eng e = { s.eng e with gated := true })
      ∧ t.pwr = { s.pwr with trip := true, htrip := stack, trp := true } ∧ t.pins = { s.pins with thermtripN := false }
      ∧ ((s.jnl.frz = true ∨ s.awake = false) → t.hbm.sr = true))
    ∧ ((s.pins.phase = .off ∨ s.pwr.trip = true) → exec (.thermalTrip stack) s = .next s))
  ∧ (∀ s : State,
    (s.pins.phase ≠ .off → ∃ t, exec .refclkLoss s = .next t ∧ Claims.FailsPower s t ∧ t.pwr = { s.pwr with rfl := true }
      ∧ t.pins = s.pins ∧ t.host.lup = false ∧ (s.host.lup = true → ∀ n : QpId, (s.qp n).en = true → Claims.QpStopped s t n 5))
    ∧ (s.pins.phase = .off → exec .refclkLoss s = .next s))
  ∧ (∀ (s : State) (rail : Fin 10),
    (rail ≠ 0 → s.pins.pwrgood = true → ∃ t, exec (.undervoltage rail) s = .next t ∧ Claims.FailsPower s t
      ∧ t.pwr = { s.pwr with uvr := s.pwr.uvr ||| (1#10 <<< rail.val) }
      ∧ t.pins = { s.pins with uvSince := s.pins.uvSince.set rail (some s.now) })
    ∧ ((rail = 0 ∨ s.pins.pwrgood = false) → exec (.undervoltage rail) s = .next s))
  ∧ (∀ s : State,
    let due := (∃ (r : Fin 10) (t : Nat), s.pins.uvSince[r] = some t ∧ t + 45000 ≤ s.now) ∧ s.pins.pwrgood = true ∧ s.pins.uvHold = false
    (due → ∃ t, exec .undervoltageHold s = .next t ∧ t.pins = { s.pins with phase := .asserted, uvHold := true }
      ∧ t.ring = Claims.ringOff s ∧ t.host.lup = false ∧ Claims.SlotsFreed s t (fun n => s.host.lup = true ∧ (s.qp n).en = true)
      ∧ t.phys = s.phys ∧ t.alertN = true
      ∧ (∀ c : CoreId, t.canIssue c = false) ∧ ∀ b, exec (.resetRelease b) t = .next t)
    ∧ (¬ due → exec .undervoltageHold s = .next s))

/-- Power states, temperature, clock and rails (R507, R510, R512 to R517, R523, R532 to R537).
Choices of the model on which clauses of it rest: notes/assumptions 135, 136, 137, 200, 138, 140, 141, 142, 143, 174, 181, 183. -/
def Obligations.PowerAndClocks : Prop := Claims.ActiveRequests ∧ Claims.DormantRequests ∧ Claims.Supervision

namespace Sys2Proof.Claims

/-- Everything stands at its cold-reset value but the fuses, the flash and what belongs to VDD_AON (R472, R475, R524, R527, R529);
the straps are those given (R528). -/
def Cold (s t : State) (straps : BitVec 5) : Prop :=
  (∀ c : CoreId, t.core c = Core.reset) ∧ (∀ q : QuireId, t.quire q = Quire.reset) ∧ (∀ e : EngId, t.eng e = Engine.reset)
  ∧ (∀ n : QpId, t.qp n = QueuePair.reset) ∧ t.phys = [] ∧ t.vatMark = [] ∧ t.hbmEcc = [] ∧ t.jnlMark = [] ∧ t.keys = []
  ∧ t.keyMark = [] ∧ t.jnl = Journal.reset ∧ t.hbm = Hbm.reset ∧ t.ring = Ring.reset ∧ t.host = HostIf.reset ∧ t.dir = DirCfg.zero
  ∧ t.locks = [] ∧ t.posts = [] ∧ t.waits = [] ∧ t.accs = [] ∧ t.tmr = 0
  ∧ t.stw = { Steward.reset with
      fuses := s.stw.fuses, flash := s.stw.flash, badA := s.stw.badA, badB := s.stw.badB, badCfg := s.stw.badCfg
      challenges := s.stw.challenges, straps := straps }
  ∧ t.pwr = { Power.reset with uvr := s.pwr.uvr }

/-- The pins at their levels, and those that the always-on domain releases (R529). -/
def pinsUp (s : State) : Pins :=
  { Pins.reset with rstN := s.pins.rstN, perstN := s.pins.perstN, pfailN := s.pins.pfailN, ringEn := s.pins.ringEn
                    trstN := s.pins.trstN, straps := s.pins.straps }

/-- t is s after the assertion of a warm reset with a cause (R273, R274, R425, R450, R480, R491, R495, R497, R527, R529): what is kept, and
the reset value of the rest. -/
def Warm (s t : State) (ws : BitVec 2) : Prop :=
  t.phys = s.phys ∧ t.vatMark = s.vatMark ∧ t.hbmEcc = s.hbmEcc ∧ t.jnlMark = s.jnlMark ∧ t.keys = s.keys ∧ t.keyMark = s.keyMark
  ∧ t.tmr = s.tmr
  ∧ (∀ c : CoreId, t.core c = { Core.reset with
      loc := (s.core c).loc, locBad := (s.core c).locBad, locOne := (s.core c).locOne, iram := (s.core c).iram, iramBad := (s.core c).iramBad })
  ∧ (∀ q : QuireId, t.quire q = Quire.reset) ∧ (∀ e : EngId, t.eng e = Engine.reset) ∧ (∀ n : QpId, t.qp n = QueuePair.reset)
  ∧ t.locks = [] ∧ t.posts = [] ∧ t.waits = [] ∧ t.accs = [] ∧ t.host = HostIf.reset ∧ t.dir = DirCfg.zero
  ∧ t.jnl = { Journal.reset with
      next := s.jnl.next, repl := s.jnl.repl, hbm := s.jnl.hbm, host := s.jnl.host, dur := s.jnl.dur, mhi := s.jnl.mhi
      msrc := s.jnl.msrc, mv := s.jnl.mv, mslots := s.jnl.mslots, expect := s.jnl.expect, pdur := s.jnl.pdur, sendPos := s.jnl.next }
  ∧ t.hbm = { Hbm.reset with pos := s.hbm.pos, sr := s.hbm.rdy || s.hbm.sr }
  ∧ t.ring = { Ring.reset with pos := s.ring.pos, pv := s.ring.pv }
  ∧ (let w := s.stw
     t.stw = { Steward.reset with
      bst := if w.bst = .vendor then .vendor else .rom, dbg := if w.dbg = 2#2 then 2 else 0, pwf := w.pwf, plk := w.plk
      pwUntil := w.pwUntil, fuses := w.fuses, log := w.log, logNext := w.logNext, chain := w.chain, chains := w.chains
      flushed := w.flushed, fatalSig := w.fatalSig, flash := w.flash, badA := w.badA, badB := w.badB, badCfg := w.badCfg, challenges := w.challenges })
  ∧ t.pwr = { Power.reset with
      cld := false, ws := ws, nwr := s.pwr.nwr + 1, uvr := s.pwr.uvr, trip := s.pwr.trip, htrip := s.pwr.htrip, trp := s.pwr.trp }
  ∧ t.pins = { s.pins with phase := .asserted }

/-- The device leaves reset (R523, R525, R537). -/
def Leaves (s : State) : Prop :=
  s.pins.pwrgood = true ∧ s.pins.phase = .asserted ∧ s.pins.uvHold = false ∧ s.pwr.trip = false

/-- The slot that boots (R479): the first of the strap's order whose image is acceptable. -/
def Boots (s : State) (strap : BitVec 2) (slot : Nat) (sv : Nat) (fwv : W16) (base : Nat) (bl : List Nat) (sg : Nat) : Prop :=
  let first : Nat := if strap = 0#2 then 0 else 1
  slotImage s slot = .ok sv fwv base bl sg
  ∧ (slot = first ∨ (slot = 1 - first ∧ ∀ sv fwv base bl sg, slotImage s first ≠ .ok sv fwv base bl sg))

/-- The boot has failed (R480): the ROM monitor runs with the code shown and ALERT_N low, no core is released, and it is logged. -/
def BootFails (s t : State) (code : BitVec 8) : Prop :=
  t.stw.bst = .bootfail ∧ t.stw.bfc = code ∧ t.stw.alrt = true ∧ (∀ c : CoreId, (t.core c).ctl = (s.core c).ctl)
  ∧ s.stw.logNext ≠ t.stw.logNext

/-- Bytes of the fuses other than the private key. The order is the model's choice (notes/assumptions/130.md). -/
def fused (f : Fuses) : List Byte :=
  natBytesBE 8 f.serial.toNat ++ f.hash.toList.flatMap bytes48 ++ [BitVec.ofNat 8 f.rev.toNat]
    ++ natBytesBE 8 (2 ^ f.floor - 1) ++ natBytesBE 2 (2 ^ f.unlocks - 1)

/-- An extend by the digest of bytes (R482). -/
def measured1 (m : BitVec 384) (bs : List Byte) : BitVec 384 := Config.sha384 (bytes48 m ++ bytes48 (Config.sha384 bs))

end Sys2Proof.Claims

/-! ### Resets and boot -/

/-- Power good and the reset pins (R10, R524 to R529): power good falling and rising leaves the cold-reset state, the rise with the straps sampled (R528); a pin's fall closes
the bypass and stops the cores, a second within 50 ns is one with it; once no posting is in flight the warm reset is asserted,
and keeps what R527 keeps. -/
def Sys2Proof.Claims.ResetPins : Prop :=
  (∀ s : State,
    (∃ t, exec .pwrgoodFall s = .next t ∧ Claims.Cold s t Steward.reset.straps ∧ t.pins = { Claims.pinsUp s with pwrgood := false, phase := .off })
    ∧ (s.pins.pwrgood = false → ∃ t, exec .pwrgoodRise s = .next t ∧ Claims.Cold s t s.pins.straps
        ∧ t.pins = { Claims.pinsUp s with pwrgood := true, phase := .asserted, cold := true })
    ∧ (s.pins.pwrgood = true → exec .pwrgoodRise s = .next s))
  ∧ (∀ s : State, ∀ x ∈ [(Instr.rstNAssert, ResetPin.rst, { s.pins with rstN := false }),
      (.perstNAssert, .perst, { s.pins with perstN := false })],
    (s.pins.phase = .running → ∃ t, exec x.1 s = .next t ∧ Claims.Closed s t (Claims.ringOff s)
      ∧ t.pins = { x.2.2 with phase := .stopping x.2.1, stopSince := s.now } ∧ ∀ c : CoreId, t.canIssue c = false)
    ∧ (∀ w, s.pins.phase = .stopping w →
      (w ≠ x.2.1 → s.now ≤ s.pins.stopSince + 45 → exec x.1 s = .next { s with pins := { x.2.2 with phase := .stopping .both } })
      ∧ ((w = x.2.1 ∨ s.pins.stopSince + 45 < s.now) → exec x.1 s = .next { s with pins := x.2.2 }))
    ∧ ((s.pins.phase = .asserted ∨ s.pins.phase = .off) → exec x.1 s = .next { s with pins := x.2.2 }))
  ∧ (∀ s : State,
    (∀ w, s.pins.phase = .stopping w → jnlInfl s = false → ∃ t, exec .warmResetAssert s = .next t
      ∧ Claims.Warm s t (match w with | .rst => 1 | .perst => 2 | .both => 3))
    ∧ (jnlInfl s = true → exec .warmResetAssert s = .next s)
    ∧ ((∀ w, s.pins.phase ≠ .stopping w) → exec .warmResetAssert s = .next s))

/-- The end of a reset (R30, R405, R425, R471 to R482, R499, R525, R527): by the straps of the rise of PWRGOOD, or for a warm reset of its release (R528),
BOOTFAIL with its code, HELD, RECOVERY, or READY with every core
released, the TAP in Test-Logic-Reset where TRST_N is low (R544), the first acceptable image in the strap's order loaded into every quire, its bundles loaded or skipped, the
measurements extended and the owner's configuration in effect. A cold reset zero-fills memory and the local RAMs; a warm one
keeps them. -/
def Sys2Proof.Claims.BootStages : Prop :=
  (∀ (s : State) (b : BootInput), ¬ Claims.Leaves s → exec (.resetRelease b) s = .next s)
  ∧ (∀ (s : State) (b : BootInput), Claims.Leaves s →
    let strap : BitVec 2 := if s.pins.cold then s.stw.straps.setWidth 2 else b.strapBoot
    ∃ t, exec (.resetRelease b) s = .next t
    ∧ t.pins = { s.pins with
        rstN := true, perstN := true, trstN := b.trstN, straps := b.strapAddr ++ b.strapBoot, phase := .running, cold := false }
    ∧ t.pwr = { s.pwr with lock := true, plock := true, rfl := false }
    ∧ t.stw.straps = (if s.pins.cold then s.stw.straps else b.strapAddr ++ b.strapBoot)
    ∧ t.stw.tap = (if b.trstN then s.stw.tap else .idcode)
    ∧ (s.stw.bst = .vendor → t.stw.bst = .vendor ∧ t.cores = s.cores ∧ t.stw.mr = s.stw.mr)
    ∧ (s.stw.bst ≠ .vendor → s.stw.flash.get 0x810000 = 0#8 →
      t.stw.mr[0] = Claims.measured1 s.stw.mr[0] (Config.romBytes ++ Claims.fused s.stw.fuses)
      ∧ (b.fuseOk = false → Claims.BootFails s t 4)
      ∧ (b.fuseOk = true →
        (strap = 3#2 → t.stw.bst = .held ∧ t.cores = s.cores)
        ∧ (strap = 2#2 → t.stw.bst = .recovery ∧ t.cores = s.cores)
        ∧ (strap.toNat < 2 → (∀ slot < 2, slotImage s slot = .floor) → Claims.BootFails s t 5)
        ∧ (strap.toNat < 2 → (∀ slot < 2, slotImage s slot = .bad ∨ slotImage s slot = .floor) →
            (∃ slot < 2, slotImage s slot = .bad) → Claims.BootFails s t 1)
        ∧ (∀ slot sv fwv base bl sg, strap.toNat < 2 → Claims.Boots s strap slot sv fwv base bl sg →
          let at_ := slot * 0x400000
          let image := s.stw.flash.read (at_ + base) 26368
          let good := nowardOk (s.stw.flash.read (at_ + base + 26368) 200) (Config.sha384 image) = true
            ∧ ∀ i < 512, nanoOk ((imageOfBytes image).nano.get i) = true
          t.stw.slot.toNat = slot ∧ t.stw.fwv = fwv ∧ t.stw.sv = BitVec.ofNat 6 sv
          ∧ t.stw.mr[1] = Claims.measured1 s.stw.mr[1] (s.stw.flash.read at_ sg)
          ∧ (bootConfig s = none → t.stw.cfg = OwnerCfg.none ∧ t.stw.mr[2] = Claims.measured1 s.stw.mr[2] (List.replicate 48 0#8))
          ∧ (∀ cfg, bootConfig s = some cfg → t.stw.cfg = configOf cfg ∧ t.stw.mr[2] = Claims.measured1 s.stw.mr[2] cfg)
          ∧ (b.trained = false → Claims.BootFails s t 2 ∧ t.hbm.tf = true ∧ t.hbm.rdy = false)
          ∧ (b.trained = true → ¬ good → Claims.BootFails s t 3)
          ∧ (b.trained = true → good →
            t.stw.bst = .ready ∧ (∀ c : CoreId, (t.core c).ctl.run = true) ∧ t.hbm.rdy = true ∧ t.hbm.tf = false ∧ t.hbm.sr = false
            ∧ t.stw.mr[3] = Claims.measured1 s.stw.mr[3] image
            ∧ (∃ u, (∀ q : QuireId, (u.quire q).image = imageOfBytes image) ∧ u.stw.flash = s.stw.flash ∧ u.stw.fuses = s.stw.fuses
                ∧ t.quires = (bl.foldl (fun m o => bootBundle m (at_ + o)) u).quires)
            ∧ t.stw.mcOcs = t.stw.cfg.ocs ∧ (t.stw.cfg.pv = true → t.ring.pos = t.stw.cfg.pos ∧ t.ring.pv = true)
            ∧ t.stw.fuses.floor = (if t.stw.cfg.rba then max s.stw.fuses.floor (sv % 64) else s.stw.fuses.floor)
            ∧ (s.pins.cold = true → t.phys = [] ∧ t.vatMark = [] ∧ t.hbmEcc = [] ∧ t.keys = []
                ∧ ∀ c : CoreId, (t.core c).loc = [] ∧ (t.core c).iram = [] ∧ (t.core c).g = (s.core c).g)
            ∧ (s.pins.cold = false → t.phys = s.phys ∧ t.keys = s.keys
                ∧ ∀ c : CoreId, (t.core c).loc = (s.core c).loc ∧ (t.core c).iram = (s.core c).iram))))))
  ∧ (∀ (m : State) (a : Nat),
    let bs := m.stw.flash.read a (max 64 (beNat (m.stw.flash.read (a + 20) 4)))
    (∀ e, bundleCheck m bs = .error e → Claims.Logged m (bootBundle m a) 0xFFFF ∧ (bootBundle m a).quires = m.quires)
    ∧ (∀ b images, bundleCheck m bs = .ok (b, images) → (bootBundle m a).stw = (Claims.extended m 4 b.digest).stw
      ∧ (∀ q g, (q, g) ∈ images → ((bootBundle m a).quire q).image = g)
      ∧ ∀ q : QuireId, (∀ x ∈ images, x.1 ≠ q) → (bootBundle m a).quire q = m.quire q))
  ∧ (∀ (f : Fuses) (fl : Cells 8) (slot sv : Nat) (fwv : W16) (base : Nat) (bl : List Nat) (sg : Nat), slot < 2 →
    imageCheck f fl slot = .ok sv fwv base bl sg →
    f.floor ≤ sv ∧ sg + 200 ≤ 0x400000 ∧ fl.read (slot * 0x400000) 4 = [0x4B#8, 0x4C, 0x46, 0x57]
    ∧ (let blk := fl.read (slot * 0x400000 + sg) 200
       let d := Config.sha384 (fl.read (slot * 0x400000) sg)
       (f.prog ≠ 0#4 → ∃ i, ownerCheck f blk d = .ok i) ∧ (f.prog = 0#4 → nowardOk blk d = true)))
  ∧ (∀ (f : Fuses) (blk : List Byte) (d : BitVec 384) (i : Nat), ownerCheck f blk d = .ok i →
    ∃ h : i < 4, f.prog.getLsbD i = true ∧ f.rev.getLsbD i = false ∧ blk.length = 200 ∧ blk.getD 0 0 = 2 ∧ (blk.getD 1 0).toNat = i
      ∧ Config.sha384 ((blk.drop 4).take 97) = f.hash[i]
      ∧ Config.ecdsaVerify ((blk.drop 4).take 97) d ((blk.drop 104).take 96) = true)

/-- REGISTER_WRITE (R9, R17, R36, R561, R562): a device port takes the value as from its accessor's OUT or host write, after the older
accesses at its block, and one in a failed warden's block is logged (the host's is dropped); a core's own port takes it as its OUT
does, unless a long op owns it. A core in Tenant mode writes no port that is Service only (R31, R37, R356), and one that does not
execute writes none. -/
def Sys2Proof.Claims.RegisterWrites : Prop :=
  (∀ (s : State) (who : Accessor) (port : BitVec 24) (v : W64), who ≠ .host → 0x10000 ≤ port.toNat → s.pwr.spine = true →
    (∀ c, who = .core c → s.runs c = true ∧ (s.core c).sys.mode = true) →
    (¬ Claims.NoneOlder s who port.toNat → exec (.registerWrite who port v) s =
      .next { s.stamped with accs := s.accs ++ [⟨who, 8 * port.toNat, 8, some v, s.now, s.stamp⟩] })
    ∧ (Claims.NoneOlder s who port.toNat →
    (∀ r, failedBlock s port.toNat = none → devPort port.toNat = some r →
      exec (.registerWrite who port v) s = .next (r.write s who v))
    ∧ (failedBlock s port.toNat = none → devPort port.toNat = none → exec (.registerWrite who port v) s = .next s)
    ∧ (∀ q, failedBlock s port.toNat = some q → ∃ t, exec (.registerWrite who port v) s = .next t
        ∧ Claims.Logged s t (BitVec.ofNat 16 q.val) ∧ t = Claims.withStw s t.stw)))
  ∧ (∀ (s : State) (port : BitVec 24) (v : W64), 0x100000 ≤ port.toNat → failedBlock s port.toNat = none → s.pwr.spine = true →
    Claims.NoneOlder s .host port.toNat →
    (∀ r, devPort port.toNat = some r → r.host = true →
      exec (.registerWrite .host port v) s = .next (r.write s .host v))
    ∧ ((devPort port.toNat = none ∨ ∃ r, devPort port.toNat = some r ∧ r.host = false) →
      exec (.registerWrite .host port v) s = .next s))
  ∧ (∀ (s : State) (c : CoreId) (port : BitVec 24) (v : W64), s.runs c = false → exec (.registerWrite (.core c) port v) s = .next s)
  ∧ (∀ (s : State) (c : CoreId) (port : BitVec 24) (v : W64), port.toNat < 0x10000 → s.runs c = true →
    ((s.core c).portBusy port.toNat = true → exec (.registerWrite (.core c) port v) s = .next s)
    ∧ ((s.core c).portBusy port.toNat = false → (s.core c).sys.mode = true → ∀ e ∈ Claims.heldBits, e.1 = port.toNat → ∃ k,
      exec (.registerWrite (.core c) port v) s = .next (s.setCore c k) ∧ corePortVal s c k port.toNat = v &&& e.2
        ∧ k.g = (s.core c).g)
    ∧ ((s.core c).sys.mode = false → (0x200 ≤ port.toNat ∧ port.toNat ≤ 0x2FF ∨ port.toNat = 0x24) → exec (.registerWrite (.core c) port v) s = .next s)
    ∧ exec (.registerWrite .host port v) s = .next s ∧ exec (.registerWrite .steward port v) s = .next s)
  ∧ (∀ (s : State) (c : CoreId) (port : BitVec 24) (v : W64), 0x10000 ≤ port.toNat → (s.core c).sys.mode = false →
    exec (.registerWrite (.core c) port v) s = .next s)

/-- Resets, boot and register writes (R9, R10, R30, R36, R405, R425, R471 to R482, R499, R524 to R527, R529).
Choices of the model on which clauses of it rest: notes/assumptions 90, 91, 123, 128, 129, 130, 131, 132, 142, 144, 145, 146, 147, 148, 182,
183, 217. -/
def Obligations.ResetsAndBoot : Prop := Claims.ResetPins ∧ Claims.BootStages ∧ Claims.RegisterWrites

namespace Sys2Proof.Claims

/-- The core that issues an instruction; none for the other commands. -/
def issuer : Instr → Option CoreId
  | .nop c | .lwait c | .vfence c | .fbar c | .svc c _ | .sret c | .xret c | .mret c | .mov c _ | .add c _ | .sub c _ |
  .addc c _ | .subc c _ | .and c _ | .or c _ | .xor c _ | .andn c _ _ _ | .cmp c _ | .shl c _ | .shr c _ | .sar c _ |
  .rol c _ _ _ | .not c _ | .neg c _ | .tst c _ | .addi c _ _ _ | .andi c _ _ _ | .ori c _ _ _ | .xori c _ _ _ | .shli c _ _ _
  | .shri c _ _ _ | .sari c _ _ _ | .roli c _ _ _ | .cmpi c _ _ | .movi c _ _ | .moviu c _ _ | .movh c _ _ | .mul c _ _ _ |
  .mulw c _ _ _ | .mulwu c _ _ _ | .mac c _ _ _ | .div c _ _ _ | .divu c _ _ _ | .ld c _ _ _ | .st c _ _ _ | .push c _ |
  .pop c _ | .bcc c _ _ _ | .br c _ _ | .bra c _ _ | .call c _ _ | .calla c _ _ | .callRegister c _ _ | .jmpi c _ _ | .ret c _
  | .repb c _ _ | .repbi c _ _ | .setms c _ | .setkr c _ | .inp c _ _ | .outp c _ _ | .outRsd c _ _ | .outRsp c _ _ |
  .icinv c _ _ | .outBpctl c _ _ | .iclaim c _ _ | .mbxData c _ _ | .tlbiv c _ _ | .tlbit c _ | .tlbia c | .tlbiaF c |
  .tlblk c _ | .tlblkI c _ | .tlbul c _ | .tlbulI c _ | .skey c _ _ _ | .dld c _ _ _ _ | .dst c _ _ _ _ | .dadd c _ _ _ |
  .dsub c _ _ _ | .dcmp c _ _ | .daddc c _ _ _ _ | .dsubc c _ _ _ _ | .dmul c _ _ _ | .ddiv c _ _ _ | .dshl c _ _ _ |
  .dshr c _ _ _ _ | .dcvb c _ _ _ | .dcvd c _ _ _ | .dmac c _ _ _ _ _ _ | .mvs c | .mvsp c | .trs c | .cms c | .scs c |
  .scsN c | .eds c | .edsm c | .pks c | .ups c | .fadd c _ _ _ | .fsub c _ _ _ | .fmul c _ _ _ | .fma c _ _ _ | .fdiv c _ _ _
  | .fsqrt c _ _ | .fcmp c _ _ | .fcvti c _ _ | .fcvtf c _ _ | .frint c _ _ | .dqadd c _ _ _ | .dqsub c _ _ _ | .dqmul c _ _ _
  | .dqdiv c _ _ _ | .dqsqrt c _ _ | .dqcmp c _ _ | .dqfix c _ _ | .dqflt c _ _ | .dqrint c _ _ | .dqquant c _ _ _ |
  .dqld c _ _ | .dqst c _ _ | .vld c _ _ | .vst c _ _ _ | .vget c _ _ _ | .vput c _ _ _ | .vcas c _ _ _ | .find c _ _ |
  .dswap c _ _ _ | .post c _ _ | .swait c _ _ | .customerInstruction c _ _ _ => some c
  | _ => none

/-- The destinations of an instruction that names G registers alone: a pair for a double-width product or a division; none for the other
instructions (R104, R105, R107, R108). -/
def destinations : Instr → Option (List GReg)
  | .nop _ => some [] | .cmp _ _ => some [] | .cmpi _ _ _ => some [] | .tst _ _ => some []
  | .mov _ f => some [match f with | .s d _ => sreg d | .w d _ => d]
  | .add _ f => some [rformDst f] | .sub _ f => some [rformDst f] | .addc _ f => some [rformDst f] | .subc _ f => some [rformDst f]
  | .and _ f => some [rformDst f] | .or _ f => some [rformDst f] | .xor _ f => some [rformDst f] | .shl _ f => some [rformDst f]
  | .shr _ f => some [rformDst f] | .sar _ f => some [rformDst f]
  | .andn _ d _ _ => some [d] | .rol _ d _ _ => some [d] | .not _ d => some [sreg d] | .neg _ d => some [sreg d]
  | .addi _ d _ _ => some [d] | .andi _ d _ _ => some [d] | .ori _ d _ _ => some [d] | .xori _ d _ _ => some [d]
  | .shli _ d _ _ => some [d] | .shri _ d _ _ => some [d] | .sari _ d _ _ => some [d] | .roli _ d _ _ => some [d]
  | .movi _ d _ => some [d] | .moviu _ d _ => some [d] | .movh _ d _ => some [d]
  | .mul _ d _ _ => some [d] | .mac _ d _ _ => some [d]
  | .mulw _ d _ _ => some [d, nextReg d] | .mulwu _ d _ _ => some [d, nextReg d]
  | .div _ d _ _ => some [d, nextReg d] | .divu _ d _ _ => some [d, nextReg d]
  | _ => none

end Sys2Proof.Claims

/-! ### Frames -/

/-- What an instruction leaves unchanged, whatever comes of it (R10 to R17, R74, R82, R372): every other core, the Vat and HBM and their
marks, the keys, the journal, the ring, the HBM controller, the power and reset ports, the directory, the locks and
the time are as before, as are the postings but for one that a POST adds; memory outside the core changes only by the commands that serve it. An instruction that
names G registers alone changes no local memory, store buffer, L register, stack pointer, queue, translation lock or interrupt
port of its core, and no G register but its destinations and those that a result in flight names. -/
def Obligations.InstructionsStayInTheirCore : Prop :=
  (∀ (s t : State) (i : Instr) (c : CoreId), Claims.issuer i = some c → exec i s = .next t →
    (∀ d : CoreId, d ≠ c → t.core d = s.core d)
    ∧ t.phys = s.phys ∧ t.vatMark = s.vatMark ∧ t.hbmEcc = s.hbmEcc ∧ t.jnlMark = s.jnlMark ∧ t.keys = s.keys ∧ t.keyMark = s.keyMark
    ∧ t.jnl = s.jnl ∧ t.ring = s.ring ∧ t.hbm = s.hbm ∧ t.pwr = s.pwr ∧ t.pins = s.pins ∧ t.dir = s.dir ∧ (t.posts = s.posts ∨ ∃ p, t.posts = s.posts ++ [p] ∧ p.core = c ∧ p.phase = .issued)
    ∧ t.locks = s.locks ∧ t.tmr = s.tmr ∧ t.now = s.now ∧ t.part = s.part ∧ t.pending = s.pending)
  ∧ (∀ (s t : State) (i : Instr) (c : CoreId) (ds : List GReg), Claims.issuer i = some c → Claims.destinations i = some ds →
    exec i s = .next t →
    let k := s.core c; let k1 := t.core c
    k1.loc = k.loc ∧ k1.locBad = k.locBad ∧ k1.iram = k.iram ∧ k1.iramBad = k.iramBad ∧ k1.sbuf = k.sbuf ∧ k1.l = k.l ∧ k1.dsp = k.dsp
    ∧ k1.rsp = k.rsp ∧ k1.pushq = k.pushq ∧ k1.outq = k.outq ∧ k1.dtlb = k.dtlb ∧ k1.irq = k.irq ∧ k1.cxt = k.cxt ∧ k1.dk = k.dk
    ∧ (∀ a : Nat, localView k1 a = localView k a)
    ∧ (∀ r : GReg, r ∉ ds → (∀ f ∈ k.flights, Claims.namesG f r = false) →
        k1.gr r = k.gr r ∧ ∀ f ∈ k1.flights, Claims.namesG f r = false)
    ∧ ∀ r : AReg, (∀ f ∈ k.flights, Claims.namesA f r = false) → k1.ac r = k.ac r)
end

