-- ==== Sys2Proof/Laws/Cells.lean ====
section
/-! SUPPORT. The sparse store: reading back what was written, and every operation keeps the canonical form. -/
namespace Sys2Proof.Machine

variable {w : Nat}

/-- The canonical form of a list of cells in two parts: no zero entry, and strictly rising addresses. -/
theorem Cells.wf_iff (m : Cells w) :
    m.wf = true ↔ (∀ e ∈ m, e.2 ≠ 0#w) ∧ m.Pairwise (fun a b => a.1 < b.1) := by
  induction m with
  | nil => simp [Cells.wf]
  | cons x rest ih =>
    obtain ⟨a, v⟩ := x
    cases rest with
    | nil => simp [Cells.wf]
    | cons y rest =>
      obtain ⟨b, u⟩ := y
      simp only [Cells.wf, Bool.and_eq_true, ih, List.pairwise_cons, List.mem_cons, forall_eq_or_imp, bne_iff_ne,
        decide_eq_true_eq]
      constructor
      · rintro ⟨⟨h1, h2⟩, ⟨h3, h4⟩, h5, h6⟩
        exact ⟨⟨h1, h3, h4⟩, ⟨h2, fun e he => Nat.lt_trans h2 (h5 e he)⟩, h5, h6⟩
      · rintro ⟨⟨h1, h3, h4⟩, ⟨h2, -⟩, h5, h6⟩
        exact ⟨⟨h1, h2⟩, ⟨h3, h4⟩, h5, h6⟩

@[simp] theorem Cells.wf_nil : Cells.wf ([] : Cells w) = true := rfl

/-- Leaving entries out keeps the canonical form. -/
theorem Cells.filter_wf {m : Cells w} (h : m.wf = true) (p : Nat × BitVec w → Bool) :
    Cells.wf (m.filter p : Cells w) = true := by
  rw [Cells.wf_iff] at h ⊢
  exact ⟨fun e he => h.1 e (List.mem_filter.1 he).1, h.2.filter p⟩

/-- An entry of a store after a write is an old one or the one written. -/
theorem Cells.mem_set {m : Cells w} {a : Nat} {v : BitVec w} {e : Nat × BitVec w} (h : e ∈ m.set a v) :
    e ∈ m ∨ (e = (a, v) ∧ v ≠ 0#w) := by
  induction m with
  | nil => simp only [Cells.set] at h; split at h <;> simp_all
  | cons x rest ih =>
    obtain ⟨b, u⟩ := x
    simp only [Cells.set] at h
    split at h
    · split at h
      · exact .inl (List.mem_filter.1 h).1
      · rcases List.mem_cons.1 h with h | h
        · exact .inr ⟨h, ‹_›⟩
        · exact .inl h
    · split at h
      · split at h
        · exact .inl (List.mem_cons_of_mem _ (List.mem_filter.1 h).1)
        · rcases List.mem_cons.1 h with h | h
          · exact .inr ⟨h, ‹_›⟩
          · exact .inl (List.mem_cons_of_mem _ h)
      · rcases List.mem_cons.1 h with h | h
        · exact .inl (h ▸ List.mem_cons_self)
        · rcases ih h with h | h
          · exact .inl (List.mem_cons_of_mem _ h)
          · exact .inr h

/-- A write keeps the canonical form. -/
theorem Cells.set_wf {m : Cells w} (h : m.wf = true) (a : Nat) (v : BitVec w) : (m.set a v).wf = true := by
  rw [Cells.wf_iff] at h ⊢
  obtain ⟨hz, hp⟩ := h
  refine ⟨fun e he => ?_, ?_⟩
  · rcases Cells.mem_set he with he | ⟨rfl, hv⟩
    · exact hz e he
    · exact hv
  · clear hz
    induction m with
    | nil => simp only [Cells.set]; split <;> simp
    | cons x rest ih =>
      obtain ⟨b, u⟩ := x
      obtain ⟨h1, h2⟩ := List.pairwise_cons.1 hp
      simp only [Cells.set]
      split
      · split
        · exact hp.filter _
        · refine List.pairwise_cons.2 ⟨fun e he => ?_, hp⟩
          rcases List.mem_cons.1 he with rfl | he
          · assumption
          · exact Nat.lt_trans ‹_› (h1 e he)
      · split
        · split
          · exact h2.filter _
          · exact List.pairwise_cons.2 ⟨fun e he => by have := h1 e he; simp_all, h2⟩
        · refine List.pairwise_cons.2 ⟨fun e he => ?_, ih h2⟩
          rcases Cells.mem_set he with he | ⟨rfl, -⟩
          · exact h1 e he
          · simp only; omega

theorem Cells.write_wf {m : Cells w} (h : m.wf = true) (a : Nat) (vs : List (BitVec w)) : (m.write a vs).wf = true := by
  induction vs generalizing m a with
  | nil => exact h
  | cons v vs ih => exact ih (Cells.set_wf h a v) (a + 1)

theorem Cells.clearFrom_wf {m : Cells w} (h : m.wf = true) (a : Nat) : (m.clearFrom a).wf = true := Cells.filter_wf h _
theorem Cells.clearRange_wf {m : Cells w} (h : m.wf = true) (a b : Nat) : (m.clearRange a b).wf = true :=
  Cells.filter_wf h _

/-- Writes one after another keep the canonical form. -/
theorem Cells.foldl_set_wf {α : Type} (l : List α) (f : α → Nat) (g : α → BitVec w) {m : Cells w} (h : m.wf = true) :
    (l.foldl (fun m x => Cells.set m (f x) (g x)) m).wf = true := by
  induction l generalizing m with
  | nil => exact h
  | cons x l ih => exact ih (Cells.set_wf h _ _)

/-- In a rising list, an address below the first is not listed. -/
theorem Cells.get_of_lt {m : Cells w} {a : Nat} (h : ∀ e ∈ m, a < e.1) : m.get a = 0#w := by
  induction m with
  | nil => rfl
  | cons x rest ih =>
    obtain ⟨b, u⟩ := x
    have hb : a < b := h (b, u) List.mem_cons_self
    simp only [Cells.get]
    rw [if_neg (by omega)]
    exact ih (fun e he => h e (List.mem_cons_of_mem _ he))

/-- What is left once an address is removed. -/
theorem Cells.get_drop (m : Cells w) (a b : Nat) : (m.drop a).get b = if b = a then 0#w else m.get b := by
  induction m with
  | nil => simp [Cells.drop, Cells.get]
  | cons x rest ih =>
    obtain ⟨c, u⟩ := x
    have hd : Cells.drop ((c, u) :: rest) a = if c = a then Cells.drop rest a else (c, u) :: Cells.drop rest a := by
      by_cases h : c = a <;> simp [Cells.drop, h]
    rw [hd]
    by_cases hc : c = a
    · rw [if_pos hc, ih]
      by_cases hb : b = a
      · simp [hb]
      · simp [Cells.get, hb, hc]
    · rw [if_neg hc]
      simp only [Cells.get, ih]
      by_cases hb : b = a
      · simp [hb, Ne.symm hc]
      · simp [hb]

/-- Read after write. -/
theorem Cells.get_set (m : Cells w) (a : Nat) (v : BitVec w) (b : Nat) :
    (m.set a v).get b = if b = a then v else m.get b := by
  induction m with
  | nil => by_cases hv : v = 0#w <;> simp [Cells.set, Cells.get, hv]
  | cons x rest ih =>
    obtain ⟨c, u⟩ := x
    simp only [Cells.set]
    split
    · split
      · rw [Cells.get_drop]; simp_all
      · simp [Cells.get]
    · split
      · rename_i hac
        split
        · rw [Cells.get_drop]
          by_cases hb : b = a <;> simp_all [Cells.get]
        · by_cases hb : b = a <;> simp_all [Cells.get]
      · rename_i h1 h2
        simp only [Cells.get, ih]
        by_cases hb : b = c
        · simp [hb, Ne.symm h2]
        · simp [hb]

/-- A write of a run leaves every other address. -/
theorem Cells.get_write_of_out (m : Cells w) (a : Nat) (vs : List (BitVec w)) (b : Nat)
    (hb : b < a ∨ a + vs.length ≤ b) : (m.write a vs).get b = m.get b := by
  induction vs generalizing m a with
  | nil => rfl
  | cons v vs ih =>
    simp only [List.length_cons] at hb
    rw [Cells.write, ih _ (a + 1) (by omega), Cells.get_set, if_neg (by omega)]

/-- A write of a run gives each of its addresses its unit. -/
theorem Cells.get_write (m : Cells w) (a : Nat) (vs : List (BitVec w)) (i : Nat) (hi : i < vs.length) :
    (m.write a vs).get (a + i) = vs[i] := by
  induction vs generalizing m a i with
  | nil => simp at hi
  | cons v vs ih =>
    cases i with
    | zero =>
      rw [Cells.write, Cells.get_write_of_out _ _ _ _ (by omega), Cells.get_set]
      simp
    | succ i =>
      have := ih (m.set a v) (a + 1) i (by simpa using hi)
      rw [Cells.write, show a + (i + 1) = a + 1 + i by omega, this]
      simp

/-- What an address reads as after a write of a run. -/
theorem Cells.get_write_eq (m : Cells w) (a : Nat) (vs : List (BitVec w)) (b : Nat) :
    (m.write a vs).get b = if a ≤ b ∧ b < a + vs.length then vs.getD (b - a) 0 else m.get b := by
  split
  · rename_i h
    have hi : b - a < vs.length := by omega
    have := Cells.get_write m a vs (b - a) hi
    rw [show a + (b - a) = b by omega] at this
    simp [this, List.getD_eq_getElem?_getD, hi]
  · exact Cells.get_write_of_out m a vs b (by omega)

/-- Canonical stores that read alike everywhere are equal data. -/
theorem Cells.ext {m n : Cells w} (hm : m.wf = true) (hn : n.wf = true) (h : ∀ a, m.get a = n.get a) : m = n := by
  rw [Cells.wf_iff] at hm hn
  obtain ⟨zm, pm⟩ := hm
  obtain ⟨zn, pn⟩ := hn
  induction m generalizing n with
  | nil =>
    cases n with
    | nil => rfl
    | cons y t =>
      obtain ⟨b, u⟩ := y
      exact absurd (by simpa [Cells.get] using (h b).symm) (zn (b, u) List.mem_cons_self)
  | cons x r ih =>
    obtain ⟨a, v⟩ := x
    obtain ⟨h1, h2⟩ := List.pairwise_cons.1 pm
    have hv := zm (a, v) List.mem_cons_self
    cases n with
    | nil => exact absurd (by simpa [Cells.get] using h a) hv
    | cons y t =>
      obtain ⟨b, u⟩ := y
      obtain ⟨g1, g2⟩ := List.pairwise_cons.1 pn
      have hu := zn (b, u) List.mem_cons_self
      have hab : a = b := by
        rcases Nat.lt_trichotomy a b with hl | he | hg
        · have := h a
          rw [Cells.get_of_lt (m := (b, u) :: t) (by
            intro e he
            rcases List.mem_cons.1 he with rfl | he
            · exact hl
            · exact Nat.lt_trans hl (g1 e he))] at this
          simp [Cells.get] at this
          exact absurd this hv
        · exact he
        · have := h b
          rw [Cells.get_of_lt (m := (a, v) :: r) (by
            intro e he
            rcases List.mem_cons.1 he with rfl | he
            · exact hg
            · exact Nat.lt_trans hg (h1 e he))] at this
          simp [Cells.get] at this
          exact absurd this.symm hu
      subst hab
      have huv : v = u := by simpa [Cells.get] using h a
      subst huv
      congr 1
      refine ih ?_ (fun e he => zm e (List.mem_cons_of_mem _ he)) h2 (fun e he => zn e (List.mem_cons_of_mem _ he)) g2
      intro c
      have := h c
      by_cases hc : c = a
      · subst hc
        rw [Cells.get_of_lt h1, Cells.get_of_lt g1]
      · simpa [Cells.get, hc] using this

end Sys2Proof.Machine
end

