-- ==== Sys2Proof/Laws/State.lean ====
section
/-! SUPPORT. One lemma for each field and update of the device, and reading back what an update of a part wrote. -/
namespace Sys2Proof.Machine

/-! ### setCore -/

@[simp] theorem State.setCore_part (s : State) (c : CoreId) (k : Core) : (s.setCore c k).part = s.part := rfl
@[simp] theorem State.setCore_quires (s : State) (c : CoreId) (k : Core) : (s.setCore c k).quires = s.quires := rfl
@[simp] theorem State.setCore_phys (s : State) (c : CoreId) (k : Core) : (s.setCore c k).phys = s.phys := rfl
@[simp] theorem State.setCore_vatMark (s : State) (c : CoreId) (k : Core) : (s.setCore c k).vatMark = s.vatMark := rfl
@[simp] theorem State.setCore_hbmEcc (s : State) (c : CoreId) (k : Core) : (s.setCore c k).hbmEcc = s.hbmEcc := rfl
@[simp] theorem State.setCore_jnlMark (s : State) (c : CoreId) (k : Core) : (s.setCore c k).jnlMark = s.jnlMark := rfl
@[simp] theorem State.setCore_keys (s : State) (c : CoreId) (k : Core) : (s.setCore c k).keys = s.keys := rfl
@[simp] theorem State.setCore_keyMark (s : State) (c : CoreId) (k : Core) : (s.setCore c k).keyMark = s.keyMark := rfl
@[simp] theorem State.setCore_ceCount (s : State) (c : CoreId) (k : Core) : (s.setCore c k).ceCount = s.ceCount := rfl
@[simp] theorem State.setCore_ueCount (s : State) (c : CoreId) (k : Core) : (s.setCore c k).ueCount = s.ueCount := rfl
@[simp] theorem State.setCore_reports (s : State) (c : CoreId) (k : Core) : (s.setCore c k).reports = s.reports := rfl
@[simp] theorem State.setCore_waits (s : State) (c : CoreId) (k : Core) : (s.setCore c k).waits = s.waits := rfl
@[simp] theorem State.setCore_locks (s : State) (c : CoreId) (k : Core) : (s.setCore c k).locks = s.locks := rfl
@[simp] theorem State.setCore_posts (s : State) (c : CoreId) (k : Core) : (s.setCore c k).posts = s.posts := rfl
@[simp] theorem State.setCore_dir (s : State) (c : CoreId) (k : Core) : (s.setCore c k).dir = s.dir := rfl
@[simp] theorem State.setCore_postCnt (s : State) (c : CoreId) (k : Core) : (s.setCore c k).postCnt = s.postCnt := rfl
@[simp] theorem State.setCore_postRef (s : State) (c : CoreId) (k : Core) : (s.setCore c k).postRef = s.postRef := rfl
@[simp] theorem State.setCore_jnl (s : State) (c : CoreId) (k : Core) : (s.setCore c k).jnl = s.jnl := rfl
@[simp] theorem State.setCore_engines (s : State) (c : CoreId) (k : Core) : (s.setCore c k).engines = s.engines := rfl
@[simp] theorem State.setCore_hbm (s : State) (c : CoreId) (k : Core) : (s.setCore c k).hbm = s.hbm := rfl
@[simp] theorem State.setCore_ring (s : State) (c : CoreId) (k : Core) : (s.setCore c k).ring = s.ring := rfl
@[simp] theorem State.setCore_qps (s : State) (c : CoreId) (k : Core) : (s.setCore c k).qps = s.qps := rfl
@[simp] theorem State.setCore_host (s : State) (c : CoreId) (k : Core) : (s.setCore c k).host = s.host := rfl
@[simp] theorem State.setCore_stw (s : State) (c : CoreId) (k : Core) : (s.setCore c k).stw = s.stw := rfl
@[simp] theorem State.setCore_pwr (s : State) (c : CoreId) (k : Core) : (s.setCore c k).pwr = s.pwr := rfl
@[simp] theorem State.setCore_pins (s : State) (c : CoreId) (k : Core) : (s.setCore c k).pins = s.pins := rfl
@[simp] theorem State.setCore_tmr (s : State) (c : CoreId) (k : Core) : (s.setCore c k).tmr = s.tmr := rfl
@[simp] theorem State.setCore_now (s : State) (c : CoreId) (k : Core) : (s.setCore c k).now = s.now := rfl
@[simp] theorem State.setCore_stamp (s : State) (c : CoreId) (k : Core) : (s.setCore c k).stamp = s.stamp := rfl
@[simp] theorem State.setCore_nextPost (s : State) (c : CoreId) (k : Core) : (s.setCore c k).nextPost = s.nextPost := rfl
@[simp] theorem State.setCore_freeCount (s : State) (c : CoreId) (k : Core) : (s.setCore c k).freeCount = s.freeCount := rfl
@[simp] theorem State.setCore_out (s : State) (c : CoreId) (k : Core) : (s.setCore c k).out = s.out := rfl
@[simp] theorem State.setCore_pending (s : State) (c : CoreId) (k : Core) : (s.setCore c k).pending = s.pending := rfl

/-! ### modCore -/

@[simp] theorem State.modCore_part (s : State) (c : CoreId) (f : Core → Core) : (s.modCore c f).part = s.part := rfl
@[simp] theorem State.modCore_quires (s : State) (c : CoreId) (f : Core → Core) : (s.modCore c f).quires = s.quires := rfl
@[simp] theorem State.modCore_phys (s : State) (c : CoreId) (f : Core → Core) : (s.modCore c f).phys = s.phys := rfl
@[simp] theorem State.modCore_vatMark (s : State) (c : CoreId) (f : Core → Core) : (s.modCore c f).vatMark = s.vatMark := rfl
@[simp] theorem State.modCore_hbmEcc (s : State) (c : CoreId) (f : Core → Core) : (s.modCore c f).hbmEcc = s.hbmEcc := rfl
@[simp] theorem State.modCore_jnlMark (s : State) (c : CoreId) (f : Core → Core) : (s.modCore c f).jnlMark = s.jnlMark := rfl
@[simp] theorem State.modCore_keys (s : State) (c : CoreId) (f : Core → Core) : (s.modCore c f).keys = s.keys := rfl
@[simp] theorem State.modCore_keyMark (s : State) (c : CoreId) (f : Core → Core) : (s.modCore c f).keyMark = s.keyMark := rfl
@[simp] theorem State.modCore_ceCount (s : State) (c : CoreId) (f : Core → Core) : (s.modCore c f).ceCount = s.ceCount := rfl
@[simp] theorem State.modCore_ueCount (s : State) (c : CoreId) (f : Core → Core) : (s.modCore c f).ueCount = s.ueCount := rfl
@[simp] theorem State.modCore_reports (s : State) (c : CoreId) (f : Core → Core) : (s.modCore c f).reports = s.reports := rfl
@[simp] theorem State.modCore_waits (s : State) (c : CoreId) (f : Core → Core) : (s.modCore c f).waits = s.waits := rfl
@[simp] theorem State.modCore_locks (s : State) (c : CoreId) (f : Core → Core) : (s.modCore c f).locks = s.locks := rfl
@[simp] theorem State.modCore_posts (s : State) (c : CoreId) (f : Core → Core) : (s.modCore c f).posts = s.posts := rfl
@[simp] theorem State.modCore_dir (s : State) (c : CoreId) (f : Core → Core) : (s.modCore c f).dir = s.dir := rfl
@[simp] theorem State.modCore_postCnt (s : State) (c : CoreId) (f : Core → Core) : (s.modCore c f).postCnt = s.postCnt := rfl
@[simp] theorem State.modCore_postRef (s : State) (c : CoreId) (f : Core → Core) : (s.modCore c f).postRef = s.postRef := rfl
@[simp] theorem State.modCore_jnl (s : State) (c : CoreId) (f : Core → Core) : (s.modCore c f).jnl = s.jnl := rfl
@[simp] theorem State.modCore_engines (s : State) (c : CoreId) (f : Core → Core) : (s.modCore c f).engines = s.engines := rfl
@[simp] theorem State.modCore_hbm (s : State) (c : CoreId) (f : Core → Core) : (s.modCore c f).hbm = s.hbm := rfl
@[simp] theorem State.modCore_ring (s : State) (c : CoreId) (f : Core → Core) : (s.modCore c f).ring = s.ring := rfl
@[simp] theorem State.modCore_qps (s : State) (c : CoreId) (f : Core → Core) : (s.modCore c f).qps = s.qps := rfl
@[simp] theorem State.modCore_host (s : State) (c : CoreId) (f : Core → Core) : (s.modCore c f).host = s.host := rfl
@[simp] theorem State.modCore_stw (s : State) (c : CoreId) (f : Core → Core) : (s.modCore c f).stw = s.stw := rfl
@[simp] theorem State.modCore_pwr (s : State) (c : CoreId) (f : Core → Core) : (s.modCore c f).pwr = s.pwr := rfl
@[simp] theorem State.modCore_pins (s : State) (c : CoreId) (f : Core → Core) : (s.modCore c f).pins = s.pins := rfl
@[simp] theorem State.modCore_tmr (s : State) (c : CoreId) (f : Core → Core) : (s.modCore c f).tmr = s.tmr := rfl
@[simp] theorem State.modCore_now (s : State) (c : CoreId) (f : Core → Core) : (s.modCore c f).now = s.now := rfl
@[simp] theorem State.modCore_stamp (s : State) (c : CoreId) (f : Core → Core) : (s.modCore c f).stamp = s.stamp := rfl
@[simp] theorem State.modCore_nextPost (s : State) (c : CoreId) (f : Core → Core) : (s.modCore c f).nextPost = s.nextPost := rfl
@[simp] theorem State.modCore_freeCount (s : State) (c : CoreId) (f : Core → Core) : (s.modCore c f).freeCount = s.freeCount := rfl
@[simp] theorem State.modCore_out (s : State) (c : CoreId) (f : Core → Core) : (s.modCore c f).out = s.out := rfl
@[simp] theorem State.modCore_pending (s : State) (c : CoreId) (f : Core → Core) : (s.modCore c f).pending = s.pending := rfl

/-! ### setQuire -/

@[simp] theorem State.setQuire_part (s : State) (q : QuireId) (x : Quire) : (s.setQuire q x).part = s.part := rfl
@[simp] theorem State.setQuire_cores (s : State) (q : QuireId) (x : Quire) : (s.setQuire q x).cores = s.cores := rfl
@[simp] theorem State.setQuire_phys (s : State) (q : QuireId) (x : Quire) : (s.setQuire q x).phys = s.phys := rfl
@[simp] theorem State.setQuire_vatMark (s : State) (q : QuireId) (x : Quire) : (s.setQuire q x).vatMark = s.vatMark := rfl
@[simp] theorem State.setQuire_hbmEcc (s : State) (q : QuireId) (x : Quire) : (s.setQuire q x).hbmEcc = s.hbmEcc := rfl
@[simp] theorem State.setQuire_jnlMark (s : State) (q : QuireId) (x : Quire) : (s.setQuire q x).jnlMark = s.jnlMark := rfl
@[simp] theorem State.setQuire_keys (s : State) (q : QuireId) (x : Quire) : (s.setQuire q x).keys = s.keys := rfl
@[simp] theorem State.setQuire_keyMark (s : State) (q : QuireId) (x : Quire) : (s.setQuire q x).keyMark = s.keyMark := rfl
@[simp] theorem State.setQuire_ceCount (s : State) (q : QuireId) (x : Quire) : (s.setQuire q x).ceCount = s.ceCount := rfl
@[simp] theorem State.setQuire_ueCount (s : State) (q : QuireId) (x : Quire) : (s.setQuire q x).ueCount = s.ueCount := rfl
@[simp] theorem State.setQuire_reports (s : State) (q : QuireId) (x : Quire) : (s.setQuire q x).reports = s.reports := rfl
@[simp] theorem State.setQuire_waits (s : State) (q : QuireId) (x : Quire) : (s.setQuire q x).waits = s.waits := rfl
@[simp] theorem State.setQuire_locks (s : State) (q : QuireId) (x : Quire) : (s.setQuire q x).locks = s.locks := rfl
@[simp] theorem State.setQuire_posts (s : State) (q : QuireId) (x : Quire) : (s.setQuire q x).posts = s.posts := rfl
@[simp] theorem State.setQuire_dir (s : State) (q : QuireId) (x : Quire) : (s.setQuire q x).dir = s.dir := rfl
@[simp] theorem State.setQuire_postCnt (s : State) (q : QuireId) (x : Quire) : (s.setQuire q x).postCnt = s.postCnt := rfl
@[simp] theorem State.setQuire_postRef (s : State) (q : QuireId) (x : Quire) : (s.setQuire q x).postRef = s.postRef := rfl
@[simp] theorem State.setQuire_jnl (s : State) (q : QuireId) (x : Quire) : (s.setQuire q x).jnl = s.jnl := rfl
@[simp] theorem State.setQuire_engines (s : State) (q : QuireId) (x : Quire) : (s.setQuire q x).engines = s.engines := rfl
@[simp] theorem State.setQuire_hbm (s : State) (q : QuireId) (x : Quire) : (s.setQuire q x).hbm = s.hbm := rfl
@[simp] theorem State.setQuire_ring (s : State) (q : QuireId) (x : Quire) : (s.setQuire q x).ring = s.ring := rfl
@[simp] theorem State.setQuire_qps (s : State) (q : QuireId) (x : Quire) : (s.setQuire q x).qps = s.qps := rfl
@[simp] theorem State.setQuire_host (s : State) (q : QuireId) (x : Quire) : (s.setQuire q x).host = s.host := rfl
@[simp] theorem State.setQuire_stw (s : State) (q : QuireId) (x : Quire) : (s.setQuire q x).stw = s.stw := rfl
@[simp] theorem State.setQuire_pwr (s : State) (q : QuireId) (x : Quire) : (s.setQuire q x).pwr = s.pwr := rfl
@[simp] theorem State.setQuire_pins (s : State) (q : QuireId) (x : Quire) : (s.setQuire q x).pins = s.pins := rfl
@[simp] theorem State.setQuire_tmr (s : State) (q : QuireId) (x : Quire) : (s.setQuire q x).tmr = s.tmr := rfl
@[simp] theorem State.setQuire_now (s : State) (q : QuireId) (x : Quire) : (s.setQuire q x).now = s.now := rfl
@[simp] theorem State.setQuire_stamp (s : State) (q : QuireId) (x : Quire) : (s.setQuire q x).stamp = s.stamp := rfl
@[simp] theorem State.setQuire_nextPost (s : State) (q : QuireId) (x : Quire) : (s.setQuire q x).nextPost = s.nextPost := rfl
@[simp] theorem State.setQuire_freeCount (s : State) (q : QuireId) (x : Quire) : (s.setQuire q x).freeCount = s.freeCount := rfl
@[simp] theorem State.setQuire_out (s : State) (q : QuireId) (x : Quire) : (s.setQuire q x).out = s.out := rfl
@[simp] theorem State.setQuire_pending (s : State) (q : QuireId) (x : Quire) : (s.setQuire q x).pending = s.pending := rfl

/-! ### setEng -/

@[simp] theorem State.setEng_part (s : State) (e : EngId) (x : Engine) : (s.setEng e x).part = s.part := rfl
@[simp] theorem State.setEng_cores (s : State) (e : EngId) (x : Engine) : (s.setEng e x).cores = s.cores := rfl
@[simp] theorem State.setEng_quires (s : State) (e : EngId) (x : Engine) : (s.setEng e x).quires = s.quires := rfl
@[simp] theorem State.setEng_phys (s : State) (e : EngId) (x : Engine) : (s.setEng e x).phys = s.phys := rfl
@[simp] theorem State.setEng_vatMark (s : State) (e : EngId) (x : Engine) : (s.setEng e x).vatMark = s.vatMark := rfl
@[simp] theorem State.setEng_hbmEcc (s : State) (e : EngId) (x : Engine) : (s.setEng e x).hbmEcc = s.hbmEcc := rfl
@[simp] theorem State.setEng_jnlMark (s : State) (e : EngId) (x : Engine) : (s.setEng e x).jnlMark = s.jnlMark := rfl
@[simp] theorem State.setEng_keys (s : State) (e : EngId) (x : Engine) : (s.setEng e x).keys = s.keys := rfl
@[simp] theorem State.setEng_keyMark (s : State) (e : EngId) (x : Engine) : (s.setEng e x).keyMark = s.keyMark := rfl
@[simp] theorem State.setEng_ceCount (s : State) (e : EngId) (x : Engine) : (s.setEng e x).ceCount = s.ceCount := rfl
@[simp] theorem State.setEng_ueCount (s : State) (e : EngId) (x : Engine) : (s.setEng e x).ueCount = s.ueCount := rfl
@[simp] theorem State.setEng_reports (s : State) (e : EngId) (x : Engine) : (s.setEng e x).reports = s.reports := rfl
@[simp] theorem State.setEng_waits (s : State) (e : EngId) (x : Engine) : (s.setEng e x).waits = s.waits := rfl
@[simp] theorem State.setEng_locks (s : State) (e : EngId) (x : Engine) : (s.setEng e x).locks = s.locks := rfl
@[simp] theorem State.setEng_posts (s : State) (e : EngId) (x : Engine) : (s.setEng e x).posts = s.posts := rfl
@[simp] theorem State.setEng_dir (s : State) (e : EngId) (x : Engine) : (s.setEng e x).dir = s.dir := rfl
@[simp] theorem State.setEng_postCnt (s : State) (e : EngId) (x : Engine) : (s.setEng e x).postCnt = s.postCnt := rfl
@[simp] theorem State.setEng_postRef (s : State) (e : EngId) (x : Engine) : (s.setEng e x).postRef = s.postRef := rfl
@[simp] theorem State.setEng_jnl (s : State) (e : EngId) (x : Engine) : (s.setEng e x).jnl = s.jnl := rfl
@[simp] theorem State.setEng_hbm (s : State) (e : EngId) (x : Engine) : (s.setEng e x).hbm = s.hbm := rfl
@[simp] theorem State.setEng_ring (s : State) (e : EngId) (x : Engine) : (s.setEng e x).ring = s.ring := rfl
@[simp] theorem State.setEng_qps (s : State) (e : EngId) (x : Engine) : (s.setEng e x).qps = s.qps := rfl
@[simp] theorem State.setEng_host (s : State) (e : EngId) (x : Engine) : (s.setEng e x).host = s.host := rfl
@[simp] theorem State.setEng_stw (s : State) (e : EngId) (x : Engine) : (s.setEng e x).stw = s.stw := rfl
@[simp] theorem State.setEng_pwr (s : State) (e : EngId) (x : Engine) : (s.setEng e x).pwr = s.pwr := rfl
@[simp] theorem State.setEng_pins (s : State) (e : EngId) (x : Engine) : (s.setEng e x).pins = s.pins := rfl
@[simp] theorem State.setEng_tmr (s : State) (e : EngId) (x : Engine) : (s.setEng e x).tmr = s.tmr := rfl
@[simp] theorem State.setEng_now (s : State) (e : EngId) (x : Engine) : (s.setEng e x).now = s.now := rfl
@[simp] theorem State.setEng_stamp (s : State) (e : EngId) (x : Engine) : (s.setEng e x).stamp = s.stamp := rfl
@[simp] theorem State.setEng_nextPost (s : State) (e : EngId) (x : Engine) : (s.setEng e x).nextPost = s.nextPost := rfl
@[simp] theorem State.setEng_freeCount (s : State) (e : EngId) (x : Engine) : (s.setEng e x).freeCount = s.freeCount := rfl
@[simp] theorem State.setEng_out (s : State) (e : EngId) (x : Engine) : (s.setEng e x).out = s.out := rfl
@[simp] theorem State.setEng_pending (s : State) (e : EngId) (x : Engine) : (s.setEng e x).pending = s.pending := rfl

/-! ### setQp -/

@[simp] theorem State.setQp_part (s : State) (n : QpId) (x : QueuePair) : (s.setQp n x).part = s.part := rfl
@[simp] theorem State.setQp_cores (s : State) (n : QpId) (x : QueuePair) : (s.setQp n x).cores = s.cores := rfl
@[simp] theorem State.setQp_quires (s : State) (n : QpId) (x : QueuePair) : (s.setQp n x).quires = s.quires := rfl
@[simp] theorem State.setQp_phys (s : State) (n : QpId) (x : QueuePair) : (s.setQp n x).phys = s.phys := rfl
@[simp] theorem State.setQp_vatMark (s : State) (n : QpId) (x : QueuePair) : (s.setQp n x).vatMark = s.vatMark := rfl
@[simp] theorem State.setQp_hbmEcc (s : State) (n : QpId) (x : QueuePair) : (s.setQp n x).hbmEcc = s.hbmEcc := rfl
@[simp] theorem State.setQp_jnlMark (s : State) (n : QpId) (x : QueuePair) : (s.setQp n x).jnlMark = s.jnlMark := rfl
@[simp] theorem State.setQp_keys (s : State) (n : QpId) (x : QueuePair) : (s.setQp n x).keys = s.keys := rfl
@[simp] theorem State.setQp_keyMark (s : State) (n : QpId) (x : QueuePair) : (s.setQp n x).keyMark = s.keyMark := rfl
@[simp] theorem State.setQp_ceCount (s : State) (n : QpId) (x : QueuePair) : (s.setQp n x).ceCount = s.ceCount := rfl
@[simp] theorem State.setQp_ueCount (s : State) (n : QpId) (x : QueuePair) : (s.setQp n x).ueCount = s.ueCount := rfl
@[simp] theorem State.setQp_reports (s : State) (n : QpId) (x : QueuePair) : (s.setQp n x).reports = s.reports := rfl
@[simp] theorem State.setQp_waits (s : State) (n : QpId) (x : QueuePair) : (s.setQp n x).waits = s.waits := rfl
@[simp] theorem State.setQp_locks (s : State) (n : QpId) (x : QueuePair) : (s.setQp n x).locks = s.locks := rfl
@[simp] theorem State.setQp_posts (s : State) (n : QpId) (x : QueuePair) : (s.setQp n x).posts = s.posts := rfl
@[simp] theorem State.setQp_dir (s : State) (n : QpId) (x : QueuePair) : (s.setQp n x).dir = s.dir := rfl
@[simp] theorem State.setQp_postCnt (s : State) (n : QpId) (x : QueuePair) : (s.setQp n x).postCnt = s.postCnt := rfl
@[simp] theorem State.setQp_postRef (s : State) (n : QpId) (x : QueuePair) : (s.setQp n x).postRef = s.postRef := rfl
@[simp] theorem State.setQp_jnl (s : State) (n : QpId) (x : QueuePair) : (s.setQp n x).jnl = s.jnl := rfl
@[simp] theorem State.setQp_engines (s : State) (n : QpId) (x : QueuePair) : (s.setQp n x).engines = s.engines := rfl
@[simp] theorem State.setQp_hbm (s : State) (n : QpId) (x : QueuePair) : (s.setQp n x).hbm = s.hbm := rfl
@[simp] theorem State.setQp_ring (s : State) (n : QpId) (x : QueuePair) : (s.setQp n x).ring = s.ring := rfl
@[simp] theorem State.setQp_host (s : State) (n : QpId) (x : QueuePair) : (s.setQp n x).host = s.host := rfl
@[simp] theorem State.setQp_stw (s : State) (n : QpId) (x : QueuePair) : (s.setQp n x).stw = s.stw := rfl
@[simp] theorem State.setQp_pwr (s : State) (n : QpId) (x : QueuePair) : (s.setQp n x).pwr = s.pwr := rfl
@[simp] theorem State.setQp_pins (s : State) (n : QpId) (x : QueuePair) : (s.setQp n x).pins = s.pins := rfl
@[simp] theorem State.setQp_tmr (s : State) (n : QpId) (x : QueuePair) : (s.setQp n x).tmr = s.tmr := rfl
@[simp] theorem State.setQp_now (s : State) (n : QpId) (x : QueuePair) : (s.setQp n x).now = s.now := rfl
@[simp] theorem State.setQp_stamp (s : State) (n : QpId) (x : QueuePair) : (s.setQp n x).stamp = s.stamp := rfl
@[simp] theorem State.setQp_nextPost (s : State) (n : QpId) (x : QueuePair) : (s.setQp n x).nextPost = s.nextPost := rfl
@[simp] theorem State.setQp_freeCount (s : State) (n : QpId) (x : QueuePair) : (s.setQp n x).freeCount = s.freeCount := rfl
@[simp] theorem State.setQp_out (s : State) (n : QpId) (x : QueuePair) : (s.setQp n x).out = s.out := rfl
@[simp] theorem State.setQp_pending (s : State) (n : QpId) (x : QueuePair) : (s.setQp n x).pending = s.pending := rfl

/-! ### modRing -/

@[simp] theorem State.modRing_part (s : State) (f : Ring → Ring) : (s.modRing f).part = s.part := rfl
@[simp] theorem State.modRing_cores (s : State) (f : Ring → Ring) : (s.modRing f).cores = s.cores := rfl
@[simp] theorem State.modRing_quires (s : State) (f : Ring → Ring) : (s.modRing f).quires = s.quires := rfl
@[simp] theorem State.modRing_phys (s : State) (f : Ring → Ring) : (s.modRing f).phys = s.phys := rfl
@[simp] theorem State.modRing_vatMark (s : State) (f : Ring → Ring) : (s.modRing f).vatMark = s.vatMark := rfl
@[simp] theorem State.modRing_hbmEcc (s : State) (f : Ring → Ring) : (s.modRing f).hbmEcc = s.hbmEcc := rfl
@[simp] theorem State.modRing_jnlMark (s : State) (f : Ring → Ring) : (s.modRing f).jnlMark = s.jnlMark := rfl
@[simp] theorem State.modRing_keys (s : State) (f : Ring → Ring) : (s.modRing f).keys = s.keys := rfl
@[simp] theorem State.modRing_keyMark (s : State) (f : Ring → Ring) : (s.modRing f).keyMark = s.keyMark := rfl
@[simp] theorem State.modRing_ceCount (s : State) (f : Ring → Ring) : (s.modRing f).ceCount = s.ceCount := rfl
@[simp] theorem State.modRing_ueCount (s : State) (f : Ring → Ring) : (s.modRing f).ueCount = s.ueCount := rfl
@[simp] theorem State.modRing_reports (s : State) (f : Ring → Ring) : (s.modRing f).reports = s.reports := rfl
@[simp] theorem State.modRing_waits (s : State) (f : Ring → Ring) : (s.modRing f).waits = s.waits := rfl
@[simp] theorem State.modRing_locks (s : State) (f : Ring → Ring) : (s.modRing f).locks = s.locks := rfl
@[simp] theorem State.modRing_posts (s : State) (f : Ring → Ring) : (s.modRing f).posts = s.posts := rfl
@[simp] theorem State.modRing_dir (s : State) (f : Ring → Ring) : (s.modRing f).dir = s.dir := rfl
@[simp] theorem State.modRing_postCnt (s : State) (f : Ring → Ring) : (s.modRing f).postCnt = s.postCnt := rfl
@[simp] theorem State.modRing_postRef (s : State) (f : Ring → Ring) : (s.modRing f).postRef = s.postRef := rfl
@[simp] theorem State.modRing_jnl (s : State) (f : Ring → Ring) : (s.modRing f).jnl = s.jnl := rfl
@[simp] theorem State.modRing_engines (s : State) (f : Ring → Ring) : (s.modRing f).engines = s.engines := rfl
@[simp] theorem State.modRing_hbm (s : State) (f : Ring → Ring) : (s.modRing f).hbm = s.hbm := rfl
@[simp] theorem State.modRing_qps (s : State) (f : Ring → Ring) : (s.modRing f).qps = s.qps := rfl
@[simp] theorem State.modRing_host (s : State) (f : Ring → Ring) : (s.modRing f).host = s.host := rfl
@[simp] theorem State.modRing_stw (s : State) (f : Ring → Ring) : (s.modRing f).stw = s.stw := rfl
@[simp] theorem State.modRing_pwr (s : State) (f : Ring → Ring) : (s.modRing f).pwr = s.pwr := rfl
@[simp] theorem State.modRing_pins (s : State) (f : Ring → Ring) : (s.modRing f).pins = s.pins := rfl
@[simp] theorem State.modRing_tmr (s : State) (f : Ring → Ring) : (s.modRing f).tmr = s.tmr := rfl
@[simp] theorem State.modRing_now (s : State) (f : Ring → Ring) : (s.modRing f).now = s.now := rfl
@[simp] theorem State.modRing_stamp (s : State) (f : Ring → Ring) : (s.modRing f).stamp = s.stamp := rfl
@[simp] theorem State.modRing_nextPost (s : State) (f : Ring → Ring) : (s.modRing f).nextPost = s.nextPost := rfl
@[simp] theorem State.modRing_freeCount (s : State) (f : Ring → Ring) : (s.modRing f).freeCount = s.freeCount := rfl
@[simp] theorem State.modRing_out (s : State) (f : Ring → Ring) : (s.modRing f).out = s.out := rfl
@[simp] theorem State.modRing_pending (s : State) (f : Ring → Ring) : (s.modRing f).pending = s.pending := rfl

/-! ### modStw -/

@[simp] theorem State.modStw_part (s : State) (f : Steward → Steward) : (s.modStw f).part = s.part := rfl
@[simp] theorem State.modStw_cores (s : State) (f : Steward → Steward) : (s.modStw f).cores = s.cores := rfl
@[simp] theorem State.modStw_quires (s : State) (f : Steward → Steward) : (s.modStw f).quires = s.quires := rfl
@[simp] theorem State.modStw_phys (s : State) (f : Steward → Steward) : (s.modStw f).phys = s.phys := rfl
@[simp] theorem State.modStw_vatMark (s : State) (f : Steward → Steward) : (s.modStw f).vatMark = s.vatMark := rfl
@[simp] theorem State.modStw_hbmEcc (s : State) (f : Steward → Steward) : (s.modStw f).hbmEcc = s.hbmEcc := rfl
@[simp] theorem State.modStw_jnlMark (s : State) (f : Steward → Steward) : (s.modStw f).jnlMark = s.jnlMark := rfl
@[simp] theorem State.modStw_keys (s : State) (f : Steward → Steward) : (s.modStw f).keys = s.keys := rfl
@[simp] theorem State.modStw_keyMark (s : State) (f : Steward → Steward) : (s.modStw f).keyMark = s.keyMark := rfl
@[simp] theorem State.modStw_ceCount (s : State) (f : Steward → Steward) : (s.modStw f).ceCount = s.ceCount := rfl
@[simp] theorem State.modStw_ueCount (s : State) (f : Steward → Steward) : (s.modStw f).ueCount = s.ueCount := rfl
@[simp] theorem State.modStw_reports (s : State) (f : Steward → Steward) : (s.modStw f).reports = s.reports := rfl
@[simp] theorem State.modStw_waits (s : State) (f : Steward → Steward) : (s.modStw f).waits = s.waits := rfl
@[simp] theorem State.modStw_locks (s : State) (f : Steward → Steward) : (s.modStw f).locks = s.locks := rfl
@[simp] theorem State.modStw_posts (s : State) (f : Steward → Steward) : (s.modStw f).posts = s.posts := rfl
@[simp] theorem State.modStw_dir (s : State) (f : Steward → Steward) : (s.modStw f).dir = s.dir := rfl
@[simp] theorem State.modStw_postCnt (s : State) (f : Steward → Steward) : (s.modStw f).postCnt = s.postCnt := rfl
@[simp] theorem State.modStw_postRef (s : State) (f : Steward → Steward) : (s.modStw f).postRef = s.postRef := rfl
@[simp] theorem State.modStw_jnl (s : State) (f : Steward → Steward) : (s.modStw f).jnl = s.jnl := rfl
@[simp] theorem State.modStw_engines (s : State) (f : Steward → Steward) : (s.modStw f).engines = s.engines := rfl
@[simp] theorem State.modStw_hbm (s : State) (f : Steward → Steward) : (s.modStw f).hbm = s.hbm := rfl
@[simp] theorem State.modStw_ring (s : State) (f : Steward → Steward) : (s.modStw f).ring = s.ring := rfl
@[simp] theorem State.modStw_qps (s : State) (f : Steward → Steward) : (s.modStw f).qps = s.qps := rfl
@[simp] theorem State.modStw_host (s : State) (f : Steward → Steward) : (s.modStw f).host = s.host := rfl
@[simp] theorem State.modStw_pwr (s : State) (f : Steward → Steward) : (s.modStw f).pwr = s.pwr := rfl
@[simp] theorem State.modStw_pins (s : State) (f : Steward → Steward) : (s.modStw f).pins = s.pins := rfl
@[simp] theorem State.modStw_tmr (s : State) (f : Steward → Steward) : (s.modStw f).tmr = s.tmr := rfl
@[simp] theorem State.modStw_now (s : State) (f : Steward → Steward) : (s.modStw f).now = s.now := rfl
@[simp] theorem State.modStw_stamp (s : State) (f : Steward → Steward) : (s.modStw f).stamp = s.stamp := rfl
@[simp] theorem State.modStw_nextPost (s : State) (f : Steward → Steward) : (s.modStw f).nextPost = s.nextPost := rfl
@[simp] theorem State.modStw_freeCount (s : State) (f : Steward → Steward) : (s.modStw f).freeCount = s.freeCount := rfl
@[simp] theorem State.modStw_out (s : State) (f : Steward → Steward) : (s.modStw f).out = s.out := rfl
@[simp] theorem State.modStw_pending (s : State) (f : Steward → Steward) : (s.modStw f).pending = s.pending := rfl

/-! ### drawn -/

@[simp] theorem State.drawn_part (s : State) : (s.drawn).part = s.part := rfl
@[simp] theorem State.drawn_cores (s : State) : (s.drawn).cores = s.cores := rfl
@[simp] theorem State.drawn_quires (s : State) : (s.drawn).quires = s.quires := rfl
@[simp] theorem State.drawn_phys (s : State) : (s.drawn).phys = s.phys := rfl
@[simp] theorem State.drawn_vatMark (s : State) : (s.drawn).vatMark = s.vatMark := rfl
@[simp] theorem State.drawn_hbmEcc (s : State) : (s.drawn).hbmEcc = s.hbmEcc := rfl
@[simp] theorem State.drawn_jnlMark (s : State) : (s.drawn).jnlMark = s.jnlMark := rfl
@[simp] theorem State.drawn_keys (s : State) : (s.drawn).keys = s.keys := rfl
@[simp] theorem State.drawn_keyMark (s : State) : (s.drawn).keyMark = s.keyMark := rfl
@[simp] theorem State.drawn_ceCount (s : State) : (s.drawn).ceCount = s.ceCount := rfl
@[simp] theorem State.drawn_ueCount (s : State) : (s.drawn).ueCount = s.ueCount := rfl
@[simp] theorem State.drawn_reports (s : State) : (s.drawn).reports = s.reports := rfl
@[simp] theorem State.drawn_waits (s : State) : (s.drawn).waits = s.waits := rfl
@[simp] theorem State.drawn_locks (s : State) : (s.drawn).locks = s.locks := rfl
@[simp] theorem State.drawn_posts (s : State) : (s.drawn).posts = s.posts := rfl
@[simp] theorem State.drawn_dir (s : State) : (s.drawn).dir = s.dir := rfl
@[simp] theorem State.drawn_postCnt (s : State) : (s.drawn).postCnt = s.postCnt := rfl
@[simp] theorem State.drawn_postRef (s : State) : (s.drawn).postRef = s.postRef := rfl
@[simp] theorem State.drawn_jnl (s : State) : (s.drawn).jnl = s.jnl := rfl
@[simp] theorem State.drawn_engines (s : State) : (s.drawn).engines = s.engines := rfl
@[simp] theorem State.drawn_hbm (s : State) : (s.drawn).hbm = s.hbm := rfl
@[simp] theorem State.drawn_ring (s : State) : (s.drawn).ring = s.ring := rfl
@[simp] theorem State.drawn_qps (s : State) : (s.drawn).qps = s.qps := rfl
@[simp] theorem State.drawn_host (s : State) : (s.drawn).host = s.host := rfl
@[simp] theorem State.drawn_stw (s : State) : (s.drawn).stw = s.stw := rfl
@[simp] theorem State.drawn_pwr (s : State) : (s.drawn).pwr = s.pwr := rfl
@[simp] theorem State.drawn_pins (s : State) : (s.drawn).pins = s.pins := rfl
@[simp] theorem State.drawn_tmr (s : State) : (s.drawn).tmr = s.tmr := rfl
@[simp] theorem State.drawn_now (s : State) : (s.drawn).now = s.now := rfl
@[simp] theorem State.drawn_stamp (s : State) : (s.drawn).stamp = s.stamp := rfl
@[simp] theorem State.drawn_nextPost (s : State) : (s.drawn).nextPost = s.nextPost := rfl
@[simp] theorem State.drawn_out (s : State) : (s.drawn).out = s.out := rfl
@[simp] theorem State.drawn_pending (s : State) : (s.drawn).pending = s.pending := rfl

/-! ### stamped -/

@[simp] theorem State.stamped_part (s : State) : (s.stamped).part = s.part := rfl
@[simp] theorem State.stamped_cores (s : State) : (s.stamped).cores = s.cores := rfl
@[simp] theorem State.stamped_quires (s : State) : (s.stamped).quires = s.quires := rfl
@[simp] theorem State.stamped_phys (s : State) : (s.stamped).phys = s.phys := rfl
@[simp] theorem State.stamped_vatMark (s : State) : (s.stamped).vatMark = s.vatMark := rfl
@[simp] theorem State.stamped_hbmEcc (s : State) : (s.stamped).hbmEcc = s.hbmEcc := rfl
@[simp] theorem State.stamped_jnlMark (s : State) : (s.stamped).jnlMark = s.jnlMark := rfl
@[simp] theorem State.stamped_keys (s : State) : (s.stamped).keys = s.keys := rfl
@[simp] theorem State.stamped_keyMark (s : State) : (s.stamped).keyMark = s.keyMark := rfl
@[simp] theorem State.stamped_ceCount (s : State) : (s.stamped).ceCount = s.ceCount := rfl
@[simp] theorem State.stamped_ueCount (s : State) : (s.stamped).ueCount = s.ueCount := rfl
@[simp] theorem State.stamped_reports (s : State) : (s.stamped).reports = s.reports := rfl
@[simp] theorem State.stamped_waits (s : State) : (s.stamped).waits = s.waits := rfl
@[simp] theorem State.stamped_locks (s : State) : (s.stamped).locks = s.locks := rfl
@[simp] theorem State.stamped_posts (s : State) : (s.stamped).posts = s.posts := rfl
@[simp] theorem State.stamped_dir (s : State) : (s.stamped).dir = s.dir := rfl
@[simp] theorem State.stamped_postCnt (s : State) : (s.stamped).postCnt = s.postCnt := rfl
@[simp] theorem State.stamped_postRef (s : State) : (s.stamped).postRef = s.postRef := rfl
@[simp] theorem State.stamped_jnl (s : State) : (s.stamped).jnl = s.jnl := rfl
@[simp] theorem State.stamped_engines (s : State) : (s.stamped).engines = s.engines := rfl
@[simp] theorem State.stamped_hbm (s : State) : (s.stamped).hbm = s.hbm := rfl
@[simp] theorem State.stamped_ring (s : State) : (s.stamped).ring = s.ring := rfl
@[simp] theorem State.stamped_qps (s : State) : (s.stamped).qps = s.qps := rfl
@[simp] theorem State.stamped_host (s : State) : (s.stamped).host = s.host := rfl
@[simp] theorem State.stamped_stw (s : State) : (s.stamped).stw = s.stw := rfl
@[simp] theorem State.stamped_pwr (s : State) : (s.stamped).pwr = s.pwr := rfl
@[simp] theorem State.stamped_pins (s : State) : (s.stamped).pins = s.pins := rfl
@[simp] theorem State.stamped_tmr (s : State) : (s.stamped).tmr = s.tmr := rfl
@[simp] theorem State.stamped_now (s : State) : (s.stamped).now = s.now := rfl
@[simp] theorem State.stamped_nextPost (s : State) : (s.stamped).nextPost = s.nextPost := rfl
@[simp] theorem State.stamped_freeCount (s : State) : (s.stamped).freeCount = s.freeCount := rfl
@[simp] theorem State.stamped_out (s : State) : (s.stamped).out = s.out := rfl
@[simp] theorem State.stamped_pending (s : State) : (s.stamped).pending = s.pending := rfl

/-! ### send -/

@[simp] theorem State.send_part (s : State) (o : Output) : (s.send o).part = s.part := rfl
@[simp] theorem State.send_cores (s : State) (o : Output) : (s.send o).cores = s.cores := rfl
@[simp] theorem State.send_quires (s : State) (o : Output) : (s.send o).quires = s.quires := rfl
@[simp] theorem State.send_phys (s : State) (o : Output) : (s.send o).phys = s.phys := rfl
@[simp] theorem State.send_vatMark (s : State) (o : Output) : (s.send o).vatMark = s.vatMark := rfl
@[simp] theorem State.send_hbmEcc (s : State) (o : Output) : (s.send o).hbmEcc = s.hbmEcc := rfl
@[simp] theorem State.send_jnlMark (s : State) (o : Output) : (s.send o).jnlMark = s.jnlMark := rfl
@[simp] theorem State.send_keys (s : State) (o : Output) : (s.send o).keys = s.keys := rfl
@[simp] theorem State.send_keyMark (s : State) (o : Output) : (s.send o).keyMark = s.keyMark := rfl
@[simp] theorem State.send_ceCount (s : State) (o : Output) : (s.send o).ceCount = s.ceCount := rfl
@[simp] theorem State.send_ueCount (s : State) (o : Output) : (s.send o).ueCount = s.ueCount := rfl
@[simp] theorem State.send_reports (s : State) (o : Output) : (s.send o).reports = s.reports := rfl
@[simp] theorem State.send_waits (s : State) (o : Output) : (s.send o).waits = s.waits := rfl
@[simp] theorem State.send_locks (s : State) (o : Output) : (s.send o).locks = s.locks := rfl
@[simp] theorem State.send_posts (s : State) (o : Output) : (s.send o).posts = s.posts := rfl
@[simp] theorem State.send_dir (s : State) (o : Output) : (s.send o).dir = s.dir := rfl
@[simp] theorem State.send_postCnt (s : State) (o : Output) : (s.send o).postCnt = s.postCnt := rfl
@[simp] theorem State.send_postRef (s : State) (o : Output) : (s.send o).postRef = s.postRef := rfl
@[simp] theorem State.send_jnl (s : State) (o : Output) : (s.send o).jnl = s.jnl := rfl
@[simp] theorem State.send_engines (s : State) (o : Output) : (s.send o).engines = s.engines := rfl
@[simp] theorem State.send_hbm (s : State) (o : Output) : (s.send o).hbm = s.hbm := rfl
@[simp] theorem State.send_ring (s : State) (o : Output) : (s.send o).ring = s.ring := rfl
@[simp] theorem State.send_qps (s : State) (o : Output) : (s.send o).qps = s.qps := rfl
@[simp] theorem State.send_host (s : State) (o : Output) : (s.send o).host = s.host := rfl
@[simp] theorem State.send_stw (s : State) (o : Output) : (s.send o).stw = s.stw := rfl
@[simp] theorem State.send_pwr (s : State) (o : Output) : (s.send o).pwr = s.pwr := rfl
@[simp] theorem State.send_pins (s : State) (o : Output) : (s.send o).pins = s.pins := rfl
@[simp] theorem State.send_tmr (s : State) (o : Output) : (s.send o).tmr = s.tmr := rfl
@[simp] theorem State.send_now (s : State) (o : Output) : (s.send o).now = s.now := rfl
@[simp] theorem State.send_stamp (s : State) (o : Output) : (s.send o).stamp = s.stamp := rfl
@[simp] theorem State.send_nextPost (s : State) (o : Output) : (s.send o).nextPost = s.nextPost := rfl
@[simp] theorem State.send_freeCount (s : State) (o : Output) : (s.send o).freeCount = s.freeCount := rfl
@[simp] theorem State.send_pending (s : State) (o : Output) : (s.send o).pending = s.pending := rfl

/-! ### Reading back -/

@[simp] theorem State.core_setCore (s : State) (c : CoreId) (k : Core) : (s.setCore c k).core c = k := by
  simp [State.core, State.setCore]
theorem State.core_setCore_ne (s : State) {c d : CoreId} (k : Core) (h : c ≠ d) : (s.setCore c k).core d = s.core d := by
  simp [State.core, State.setCore, Fin.val_inj, h]
@[simp] theorem State.core_modCore (s : State) (c : CoreId) (f : Core → Core) : (s.modCore c f).core c = f (s.core c) :=
  State.core_setCore _ _ _
theorem State.core_modCore_ne (s : State) {c d : CoreId} (f : Core → Core) (h : c ≠ d) : (s.modCore c f).core d = s.core d :=
  State.core_setCore_ne _ _ h
@[simp] theorem State.quire_setQuire (s : State) (q : QuireId) (x : Quire) : (s.setQuire q x).quire q = x := by
  simp [State.quire, State.setQuire]
theorem State.quire_setQuire_ne (s : State) {q r : QuireId} (x : Quire) (h : q ≠ r) : (s.setQuire q x).quire r = s.quire r := by
  simp [State.quire, State.setQuire, Fin.val_inj, h]
@[simp] theorem State.eng_setEng (s : State) (e : EngId) (x : Engine) : (s.setEng e x).eng e = x := by
  simp [State.eng, State.setEng]
theorem State.eng_setEng_ne (s : State) {e f : EngId} (x : Engine) (h : e ≠ f) : (s.setEng e x).eng f = s.eng f := by
  simp [State.eng, State.setEng, Fin.val_inj, h]
@[simp] theorem State.qp_setQp (s : State) (n : QpId) (x : QueuePair) : (s.setQp n x).qp n = x := by
  simp [State.qp, State.setQp]
theorem State.qp_setQp_ne (s : State) {n m : QpId} (x : QueuePair) (h : n ≠ m) : (s.setQp n x).qp m = s.qp m := by
  simp [State.qp, State.setQp, Fin.val_inj, h]

/-! ### What an update of one part leaves of the parts read through an accessor -/

@[simp] theorem State.setCore_quire (s : State) (c : CoreId) (k : Core) (d : QuireId) : (s.setCore c k).quire d = s.quire d := rfl
@[simp] theorem State.setCore_eng (s : State) (c : CoreId) (k : Core) (d : EngId) : (s.setCore c k).eng d = s.eng d := rfl
@[simp] theorem State.setCore_qp (s : State) (c : CoreId) (k : Core) (d : QpId) : (s.setCore c k).qp d = s.qp d := rfl
@[simp] theorem State.modCore_quire (s : State) (c : CoreId) (f : Core → Core) (d : QuireId) : (s.modCore c f).quire d = s.quire d := rfl
@[simp] theorem State.modCore_eng (s : State) (c : CoreId) (f : Core → Core) (d : EngId) : (s.modCore c f).eng d = s.eng d := rfl
@[simp] theorem State.modCore_qp (s : State) (c : CoreId) (f : Core → Core) (d : QpId) : (s.modCore c f).qp d = s.qp d := rfl
@[simp] theorem State.setQuire_core (s : State) (q : QuireId) (x : Quire) (d : CoreId) : (s.setQuire q x).core d = s.core d := rfl
@[simp] theorem State.setQuire_eng (s : State) (q : QuireId) (x : Quire) (d : EngId) : (s.setQuire q x).eng d = s.eng d := rfl
@[simp] theorem State.setQuire_qp (s : State) (q : QuireId) (x : Quire) (d : QpId) : (s.setQuire q x).qp d = s.qp d := rfl
@[simp] theorem State.setEng_core (s : State) (e : EngId) (x : Engine) (d : CoreId) : (s.setEng e x).core d = s.core d := rfl
@[simp] theorem State.setEng_quire (s : State) (e : EngId) (x : Engine) (d : QuireId) : (s.setEng e x).quire d = s.quire d := rfl
@[simp] theorem State.setEng_qp (s : State) (e : EngId) (x : Engine) (d : QpId) : (s.setEng e x).qp d = s.qp d := rfl
@[simp] theorem State.setQp_core (s : State) (n : QpId) (x : QueuePair) (d : CoreId) : (s.setQp n x).core d = s.core d := rfl
@[simp] theorem State.setQp_quire (s : State) (n : QpId) (x : QueuePair) (d : QuireId) : (s.setQp n x).quire d = s.quire d := rfl
@[simp] theorem State.setQp_eng (s : State) (n : QpId) (x : QueuePair) (d : EngId) : (s.setQp n x).eng d = s.eng d := rfl
@[simp] theorem State.modRing_core (s : State) (f : Ring → Ring) (d : CoreId) : (s.modRing f).core d = s.core d := rfl
@[simp] theorem State.modRing_quire (s : State) (f : Ring → Ring) (d : QuireId) : (s.modRing f).quire d = s.quire d := rfl
@[simp] theorem State.modRing_eng (s : State) (f : Ring → Ring) (d : EngId) : (s.modRing f).eng d = s.eng d := rfl
@[simp] theorem State.modRing_qp (s : State) (f : Ring → Ring) (d : QpId) : (s.modRing f).qp d = s.qp d := rfl
@[simp] theorem State.modStw_core (s : State) (f : Steward → Steward) (d : CoreId) : (s.modStw f).core d = s.core d := rfl
@[simp] theorem State.modStw_quire (s : State) (f : Steward → Steward) (d : QuireId) : (s.modStw f).quire d = s.quire d := rfl
@[simp] theorem State.modStw_eng (s : State) (f : Steward → Steward) (d : EngId) : (s.modStw f).eng d = s.eng d := rfl
@[simp] theorem State.modStw_qp (s : State) (f : Steward → Steward) (d : QpId) : (s.modStw f).qp d = s.qp d := rfl
@[simp] theorem State.drawn_core (s : State) (d : CoreId) : (s.drawn).core d = s.core d := rfl
@[simp] theorem State.drawn_quire (s : State) (d : QuireId) : (s.drawn).quire d = s.quire d := rfl
@[simp] theorem State.drawn_eng (s : State) (d : EngId) : (s.drawn).eng d = s.eng d := rfl
@[simp] theorem State.drawn_qp (s : State) (d : QpId) : (s.drawn).qp d = s.qp d := rfl
@[simp] theorem State.stamped_core (s : State) (d : CoreId) : (s.stamped).core d = s.core d := rfl
@[simp] theorem State.stamped_quire (s : State) (d : QuireId) : (s.stamped).quire d = s.quire d := rfl
@[simp] theorem State.stamped_eng (s : State) (d : EngId) : (s.stamped).eng d = s.eng d := rfl
@[simp] theorem State.stamped_qp (s : State) (d : QpId) : (s.stamped).qp d = s.qp d := rfl
@[simp] theorem State.send_core (s : State) (o : Output) (d : CoreId) : (s.send o).core d = s.core d := rfl
@[simp] theorem State.send_quire (s : State) (o : Output) (d : QuireId) : (s.send o).quire d = s.quire d := rfl
@[simp] theorem State.send_eng (s : State) (o : Output) (d : EngId) : (s.send o).eng d = s.eng d := rfl
@[simp] theorem State.send_qp (s : State) (o : Output) (d : QpId) : (s.send o).qp d = s.qp d := rfl

end Sys2Proof.Machine
end

