-- ==== Sys2Proof/Laws/Device.lean ====
section
/-!
SUPPORT. The shared operations of the device outside one core: events, the log, lines of memory, and postings' locks; what each
changes and what it leaves. Cited in place of the operations' bodies.
-/
namespace Sys2Proof.Machine

/-! ### Events, the log, the host (R355, R466, R470, R491, R570) -/

/-- An event on a source sets its PND; only that route changes (R355). -/
theorem raiseIn_frame (s : State) (q : QuireId) (i : Fin 64) (m : Option (BitVec 56)) :
    raiseIn s q i m = { s with quires := (raiseIn s q i m).quires } := rfl
theorem raiseIn_pnd (s : State) (q : QuireId) (i : Fin 64) (m : Option (BitVec 56)) : ((raiseIn s q i m).quire q).routes[i].pnd = true := by
  simp [raiseIn]
theorem raiseIn_other (s : State) {q r : QuireId} (i : Fin 64) (m : Option (BitVec 56)) (h : q ≠ r) :
    (raiseIn s q i m).quire r = s.quire r := by
  simp [raiseIn, State.quire_setQuire_ne, h]
theorem raiseFold_frame (l : List QuireId) (s : State) (i : Fin 64) (m : Option (BitVec 56)) :
    l.foldl (fun s q => raiseIn s q i m) s = { s with quires := (l.foldl (fun s q => raiseIn s q i m) s).quires } := by
  induction l generalizing s with
  | nil => rfl
  | cons q l ih => rw [List.foldl_cons, ih (raiseIn s q i m), raiseIn_frame s q i m]
theorem raiseAll_frame (s : State) (i : Fin 64) (m : Option (BitVec 56)) :
    raiseAll s i m = { s with quires := (raiseAll s i m).quires } := raiseFold_frame _ _ _ _
/-- A source raised in every quire is pending in each (R570). -/
theorem raiseFold_pnd (l : List QuireId) (s : State) (i : Fin 64) (m : Option (BitVec 56)) (r : QuireId)
    (h : r ∈ l ∨ (s.quire r).routes[i].pnd = true) : ((l.foldl (fun s q => raiseIn s q i m) s).quire r).routes[i].pnd = true := by
  induction l generalizing s with
  | nil =>
    rcases h with h | h
    · cases h
    · exact h
  | cons q l ih =>
    rw [List.foldl_cons]
    refine ih _ ?_
    by_cases e : q = r
    · subst e; exact .inr (raiseIn_pnd s q i m)
    · rcases h with h | h
      · rcases List.mem_cons.1 h with h | h
        · exact absurd h.symm e
        · exact .inl h
      · exact .inr (by rw [raiseIn_other s i m e]; exact h)
theorem raiseAll_pnd (s : State) (i : Fin 64) (m : Option (BitVec 56)) (q : QuireId) : ((raiseAll s i m).quire q).routes[i].pnd = true :=
  raiseFold_pnd _ _ _ _ _ (.inl (List.mem_finRange q))
/-- Logging an event changes the log and its chain (R491). -/
theorem logEvent_frame (s : State) (k : LogKind) (n : BitVec 16) : logEvent s k n = { s with stw := { s.stw with
    log := (logEvent s k n).stw.log, logNext := s.stw.logNext + 1#32, chain := (logEvent s k n).stw.chain
    chains := (logEvent s k n).stw.chains } } := by
  simp only [logEvent]
/-- An uncorrectable error is logged and raises source 45 everywhere (R214, R413, R570). -/
theorem reportUncorrectable_frame (s : State) : reportUncorrectable s = { s with
    quires := (reportUncorrectable s).quires, stw := { s.stw with
      log := (reportUncorrectable s).stw.log, logNext := s.stw.logNext + 1#32, chain := (reportUncorrectable s).stw.chain
      chains := (reportUncorrectable s).stw.chains } } := by
  unfold reportUncorrectable
  rw [raiseAll_frame, logEvent_frame]
theorem reportUncorrectable_pnd (s : State) (q : QuireId) : ((reportUncorrectable s).quire q).routes[(45 : Fin 64)].pnd = true :=
  raiseAll_pnd _ _ _ q
/-- A signalled vector sends its message or becomes pending (R458, R466). -/
theorem signalMsix_frame (s : State) (f : FnId) (v : BitVec 7) :
    signalMsix s f v = { s with host := { s.host with pba := (signalMsix s f v).host.pba }, out := (signalMsix s f v).out } := by
  unfold signalMsix sendMsix
  split
  · rfl
  · split
    · rfl
    · dsimp only
      split <;> rfl
/-- A bit of HI_EVT (R470). -/
theorem hostEvent_frame (s : State) (b : Nat) : hostEvent s b = { s with
    host := { s.host with evt := s.host.evt ||| (1#6 <<< b), pba := (hostEvent s b).host.pba }, out := (hostEvent s b).out } := by
  unfold hostEvent
  dsimp only
  split
  · rw [signalMsix_frame]
  · rfl
/-- A message joins a mailbox with room, or is dropped with OVF (R362). -/
theorem mailboxPut_room {s : State} {c : CoreId} {snd : BitVec 8} {v : BitVec 56} (h1 : (s.core c).ctl.cks = false)
    (h2 : (s.core c).ctl.iso = false) (h3 : (s.core c).irq.mbx.length < 16) :
    mailboxPut s c snd v = s.setCore c { s.core c with irq := { (s.core c).irq with mbx := (s.core c).irq.mbx ++ [snd ++ v] } } := by
  have : ¬ 16 ≤ (s.core c).irq.mbx.length := by omega
  simp [mailboxPut, h1, h2, this]
theorem mailboxPut_full {s : State} {c : CoreId} {snd : BitVec 8} {v : BitVec 56} (h : 16 ≤ (s.core c).irq.mbx.length) :
    mailboxPut s c snd v = s.setCore c { s.core c with irq := { (s.core c).irq with movf := true } } := by
  simp [mailboxPut, h]
/-- A fatal fault is remembered until it is handled, with FAT and ALERT_N (R374, R490). -/
theorem detectFatal_mem (s : State) (f : FatalKind) : f ∈ (detectFatal s f).stw.faults ∧ (detectFatal s f).stw.fat = true := by
  refine ⟨?_, rfl⟩
  simp [detectFatal]

/-! ### Lines of memory (R213, R214, R219, R412 to R414) -/

theorem countCorrected_frame (s : State) (b : Nat) :
    countCorrected s b = { s with quires := (countCorrected s b).quires, hbm := { s.hbm with ec := (countCorrected s b).hbm.ec } } := by
  unfold countCorrected
  dsimp only
  split
  · rw [raiseAll_frame]; rfl
  · rfl
theorem hbmStored_frame (s : State) (b : Nat) (p : Bool) : hbmStored s b p = { s with
    phys := (hbmStored s b p).phys, hbmEcc := (hbmStored s b p).hbmEcc, hbm := { s.hbm with injArm := (hbmStored s b p).hbm.injArm } } := by
  unfold hbmStored
  dsimp only
  split <;> rfl
/-- A burst stored with nothing armed for it has the code of its data, or the pattern of poison added to it (R412). -/
theorem hbmStored_plain {s : State} {b : Nat} {p : Bool} (h : s.hbm.injArm = false) :
    hbmStored s b p = { s with hbmEcc := s.hbmEcc.set b (if p then poisonPattern else 0#32) } := by
  simp [hbmStored, h]
theorem elogPut_frame (s : State) (b : Nat) (u r : Bool) : elogPut s b u r = { s with hbm := (elogPut s b u r).hbm } := by
  unfold elogPut; split <;> rfl
theorem countUncorrectable_frame (s : State) (b : Nat) (u r : Bool) : countUncorrectable s b u r = { s with
    hbm := (countUncorrectable s b u r).hbm, quires := (countUncorrectable s b u r).quires
    stw := (countUncorrectable s b u r).stw } := by
  simp only [countUncorrectable]
  rw [reportUncorrectable_frame, elogPut_frame]
  simp only [modEc]
/-- A command to the stack changes the controller's registers (R406). -/
theorem hbmCommand_frame (s : State) (b : Nat) : (hbmCommand s b).1 = { s with hbm := (hbmCommand s b).1.hbm } := by
  unfold hbmCommand
  split
  · rfl
  · dsimp only; split <;> rfl
theorem hbmLook_frame (s : State) (b : Nat) : (hbmLook s b).1 = { s with
    hbm := (hbmLook s b).1.hbm, quires := (hbmLook s b).1.quires, stw := (hbmLook s b).1.stw } := by
  have h := hbmCommand_frame s b
  unfold hbmLook
  split <;> (rename_i e; rw [e] at h; dsimp only at h ⊢)
  · rw [h]
  · rw [countCorrected_frame, h]
  · rw [countUncorrectable_frame, h]
  · simp only [modEc]; rw [h]
/-- A demand read of a burst changes at most the stack, its word 0 by an injection, the sources and the log (R413). -/
theorem hbmRead_frame (s : State) (b : Nat) : (hbmRead s b).1 = { s with
    phys := (hbmRead s b).1.phys, hbmEcc := (hbmRead s b).1.hbmEcc, hbm := (hbmRead s b).1.hbm
    quires := (hbmRead s b).1.quires, stw := (hbmRead s b).1.stw } := by
  unfold hbmRead
  dsimp only
  split
  · rw [hbmStored_frame, hbmLook_frame]
  · rw [hbmLook_frame]
/-- No parity error of the stack is to come, and a burst is clean: a read leaves everything and gives its words (R413). -/
theorem burstSt_clean {s : State} {b : Nat} (h : s.hbmEcc.get b = 0#32) : burstSt s b = .clean := by simp [burstSt, h]
theorem hbmCommand_clean {s : State} {b : Nat} (hp : s.hbm.parErr = 0#2) (h : s.hbmEcc.get b = 0#32) :
    hbmCommand s b = (s, .clean, true) := by simp [hbmCommand, hp, burstSt_clean h]
theorem hbmLook_clean {s : State} {b : Nat} (hp : s.hbm.parErr = 0#2) (h : s.hbmEcc.get b = 0#32) : hbmLook s b = (s, false, false) := by
  simp [hbmLook, hbmCommand_clean hp h]
theorem hbmRead_clean {s : State} {b : Nat} (hp : s.hbm.parErr = 0#2) (h : s.hbmEcc.get b = 0#32) : hbmRead s b = (s, false) := by
  simp [hbmRead, hbmLook_clean hp h]
theorem wordAsRead_clean {s : State} {a : Nat} (h : s.hbmEcc.get (a / 16) = 0#32) : wordAsRead s a = s.phys.get a := by
  simp [wordAsRead, burstSt_clean h]
theorem Cells.read_eq_map {w : Nat} (m : Cells w) (a n : Nat) : m.read a n = (List.range n).map (fun i => m.get (a + i)) := by
  induction n generalizing a with
  | zero => rfl
  | succ n ih =>
    rw [Cells.read, ih, List.range_succ_eq_map, List.map_cons, List.map_map]
    simp [Function.comp_def, Nat.add_assoc, Nat.add_comm 1]
/-- Words of clean bursts, and of every other region, are delivered as they stand. -/
theorem seen_clean {s : State} {pa n : Nat} (h : ∀ i < n, s.hbmEcc.get ((pa + i) / 16) = 0#32) : s.seen pa n = s.phys.read pa n := by
  unfold State.seen
  split
  · rw [Cells.read_eq_map]
    exact List.map_congr_left (fun i hi => wordAsRead_clean (h i (List.mem_range.1 hi)))
  · rfl
theorem seen_other {s : State} {pa n : Nat} (h : regionOf s.part pa ≠ .hbm) : s.seen pa n = s.phys.read pa n := by
  simp [State.seen, h]
/-- A clean Vat line reads as it stands (R214). -/
theorem vatCheck_clean {s : State} {u l : Nat} (h : s.vatMark.get l = 0#2) : vatCheck s u l = (s, false) := by
  simp [vatCheck, h]
theorem vatCheck_frame (s : State) (u l : Nat) : (vatCheck s u l).1 = { s with
    vatMark := (vatCheck s u l).1.vatMark, ceCount := (vatCheck s u l).1.ceCount, ueCount := (vatCheck s u l).1.ueCount, reports := (vatCheck s u l).1.reports
    quires := (vatCheck s u l).1.quires, stw := (vatCheck s u l).1.stw } := by
  unfold vatCheck
  split
  · rfl
  · rfl
  · dsimp only; rw [reportUncorrectable_frame]; split <;> rfl
  · rfl
/-- What a read of words of a line may change (R219, R220). -/
theorem readWords_frame (s : State) (u pa n : Nat) : (readWords s u pa n).s = { s with
    phys := (readWords s u pa n).s.phys, vatMark := (readWords s u pa n).s.vatMark, hbmEcc := (readWords s u pa n).s.hbmEcc, hbm := (readWords s u pa n).s.hbm
    quires := (readWords s u pa n).s.quires, stw := (readWords s u pa n).s.stw, ceCount := (readWords s u pa n).s.ceCount
    ueCount := (readWords s u pa n).s.ueCount, reports := (readWords s u pa n).s.reports } := by
  unfold readWords
  split
  · dsimp only
    split
    · rw [hbmRead_frame]
    · rw [hbmRead_frame (hbmRead s _).1, hbmRead_frame s]
  · dsimp only; rw [vatCheck_frame]
  · rfl
/-- A read of a clean Vat line gives its words and changes nothing. -/
theorem readWords_vat {s : State} {u pa n : Nat} (h : regionOf s.part pa = .vat) (hm : s.vatMark.get (vatLine pa) = 0#2) :
    readWords s u pa n = ⟨s, s.phys.read pa n, []⟩ := by
  simp [readWords, h, vatCheck_clean hm]
/-- A read within clean bursts gives their words and changes nothing. -/
theorem readWords_hbm {s : State} {u pa n : Nat} (h : regionOf s.part pa = .hbm) (hn : 0 < n) (hp : s.hbm.parErr = 0#2)
    (hc : ∀ i < n, s.hbmEcc.get ((pa + i) / 16) = 0#32) : readWords s u pa n = ⟨s, s.phys.read pa n, []⟩ := by
  have h0 := hc 0 hn
  have h1 := hc (n - 1) (by omega)
  rw [Nat.add_zero] at h0
  rw [← Nat.add_sub_assoc hn] at h1
  simp only [readWords, h, hbmRead_clean hp h0, seen_clean hc]
  split
  · simp
  · simp [hbmRead_clean hp h1]
/-- A write of part of a clean Vat line leaves it clean. -/
theorem mergeWords_vat {s : State} {pa : Nat} {ws : List W16} (h : regionOf s.part pa = .vat) (hm : s.vatMark.get (vatLine pa) = 0#2) :
    mergeWords s pa ws = ({ s with phys := s.phys.write pa ws, vatMark := s.vatMark.set (vatLine pa) 0#2 }, false) := by
  simp [mergeWords, h, vatCheck_clean hm, hm]
/-- USE of a frame is all that an access records of it (R330). -/
theorem touchUse_frame (s : State) (pa : Nat) (w : Bool) : touchUse s pa w = { s with keys := (touchUse s pa w).keys } := by
  unfold touchUse
  dsimp only
  split <;> rfl

/-! ### Postings and their locks (R240, R245) -/

theorem lockLine_frame (s : State) (p : Posting) (ln : Nat) : lockLine s p ln = { s with locks := s.locks ++ [(ln, p.id)] } := rfl
/-- A line that a posting unlocks is no longer locked by it, and every other lock stands. -/
theorem mem_unlockLine (s : State) (p : Posting) (ln : Nat) (x : Nat × Nat) :
    x ∈ (unlockLine s p ln).locks ↔ x ∈ s.locks ∧ x ≠ (ln, p.id) := by
  obtain ⟨a, b⟩ := x
  simp only [unlockLine, List.mem_filter, Bool.not_eq_true', Bool.and_eq_false_iff, beq_eq_false_iff_ne, ne_eq, Prod.mk.injEq, Decidable.not_and_iff_or_not]
theorem mem_dropPost (s : State) (id : Nat) (p : Posting) : p ∈ (s.dropPost id).posts ↔ p ∈ s.posts ∧ p.id ≠ id := by
  simp [State.dropPost]
/-- A delivered result changes its core's long op and one of the two counts (R229, R243). -/
theorem postDeliver_frame (s : State) (p : Posting) (r : BitVec 4) (q : W64) : postDeliver s p r q = { s with
    cores := (postDeliver s p r q).cores, postCnt := if r = 0#4 then s.postCnt + 1#64 else s.postCnt
    postRef := if r = 0#4 then s.postRef else s.postRef + 1#64 } := by
  simp only [postDeliver]
  split
  · simp only [*]; rfl
  · simp only [*]; rfl

end Sys2Proof.Machine
end

