-- ==== Sys2Proof/Laws/Issue.lean ====
section
/-! SUPPORT. What an instruction that issues comes to, by its kind: cited in place of the fetch and the boundary. -/
namespace Sys2Proof.Machine

/-- The dispatch entry of the first word's major opcode has right parity in the core's quire (R377, R392). -/
def dispatchOk (s : State) (c : CoreId) (ws : List W16) : Bool :=
  (s.quire (coreQuire c)).image.parityOk 1 ((ws.getD 0 0).extractLsb' 8 8).toNat

section
variable {s : State} {c : CoreId} {i : Instr} {kind : IKind} {body : State → Core → Res} {ws : List W16} {k : Core}

/-- An instruction that the fetched words spell comes to its own effect, after the checks of R344. -/
theorem issue_of (h : s.canIssue c = true) (hf : fetchInstr (s.quire (coreQuire c)).image (s.core c) (s.core c).pc = .ok ws k)
    (hs : spells c k ws i = true) (hd : dispatchOk s c ws = true) :
    issue s c i kind body = .next (settleRes s c k ws.length (checked kind body s k)) := by
  unfold dispatchOk at hd
  simp only [issue, h, if_true, hf, hs, dispatched, hd]

/-- A plain instruction comes to its own effect. -/
theorem issue_plain (h : s.canIssue c = true) (hf : fetchInstr (s.quire (coreQuire c)).image (s.core c) (s.core c).pc = .ok ws k)
    (hs : spells c k ws i = true) (hd : dispatchOk s c ws = true) : issue s c i plain body = .next (settleRes s c k ws.length (body s k)) := by
  rw [issue_of h hf hs hd]; simp [checked, plain]

/-- A control instruction outside a delay slot comes to its own effect (R88). -/
theorem issue_ctl (h : s.canIssue c = true) (hf : fetchInstr (s.quire (coreQuire c)).image (s.core c) (s.core c).pc = .ok ws k)
    (hs : spells c k ws i = true) (hd : dispatchOk s c ws = true) (hb : k.branch = none) :
    issue s c i ctlKind body = .next (settleRes s c k ws.length (body s k)) := by
  rw [issue_of h hf hs hd]; simp [checked, ctlKind, hb]

/-- A privileged instruction in Service mode comes to its own effect (R31). -/
theorem issue_priv (h : s.canIssue c = true) (hf : fetchInstr (s.quire (coreQuire c)).image (s.core c) (s.core c).pc = .ok ws k)
    (hs : spells c k ws i = true) (hd : dispatchOk s c ws = true) (hm : k.sys.mode = true) :
    issue s c i privKind body = .next (settleRes s c k ws.length (body s k)) := by
  rw [issue_of h hf hs hd]; simp [checked, privKind, hm]

/-- A privileged control instruction in Service mode outside a delay slot comes to its own effect. -/
theorem issue_sys (h : s.canIssue c = true) (hf : fetchInstr (s.quire (coreQuire c)).image (s.core c) (s.core c).pc = .ok ws k)
    (hs : spells c k ws i = true) (hd : dispatchOk s c ws = true) (hb : k.branch = none) (hm : k.sys.mode = true) :
    issue s c i ⟨true, true⟩ body = .next (settleRes s c k ws.length (body s k)) := by
  rw [issue_of h hf hs hd]; simp [checked, hb, hm]

/-- In Tenant mode a privileged instruction outside a delay slot raises privileged-operation (R31, R343). -/
theorem issue_tenant {ctl : Bool} (h : s.canIssue c = true)
    (hf : fetchInstr (s.quire (coreQuire c)).image (s.core c) (s.core c).pc = .ok ws k)
    (hs : spells c k ws i = true) (hd : dispatchOk s c ws = true) (hb : k.branch = none) (hm : k.sys.mode = false) :
    issue s c i ⟨ctl, true⟩ body = .next (s.setCore c (k.enterPrecise 0x02 0 0)) := by
  rw [issue_of h hf hs hd]; simp [checked, hb, hm, Res.privileged, settleRes]

/-- A control instruction in a delay slot is illegal (R88, R114). -/
theorem issue_slot {priv : Bool} (h : s.canIssue c = true)
    (hf : fetchInstr (s.quire (coreQuire c)).image (s.core c) (s.core c).pc = .ok ws k)
    (hs : spells c k ws i = true) (hd : dispatchOk s c ws = true) (hb : k.branch.isSome = true) :
    issue s c i ⟨true, priv⟩ body = .next (s.setCore c (k.enterPrecise 0x01 (k.pc.setWidth 40) 0)) := by
  rw [issue_of h hf hs hd]; simp [checked, hb, Res.illegal, settleRes]

/-- A command that the fetched words do not spell changes nothing. -/
theorem issue_other (hf : fetchInstr (s.quire (coreQuire c)).image (s.core c) (s.core c).pc = .ok ws k)
    (hs : spells c k ws i = false) : issue s c i kind body = .next s := by
  simp [issue, hf, hs]

/-- A core that cannot issue is left as it is. -/
theorem issue_idle (h : s.canIssue c = false) : issue s c i kind body = .next s := by
  simp [issue, h]

/-- Every instruction that goes through issue answers a next state. -/
theorem issue_next : ∃ t, issue s c i kind body = .next t := by
  unfold issue
  split
  · dsimp only; split <;> exact ⟨_, rfl⟩
  · exact ⟨_, rfl⟩

end

end Sys2Proof.Machine
end

