-- ==== Sys2Proof/Laws/Memory.lean ====
section
/-!
SUPPORT. The device's arrays: what an operation on memory changes of them, and that each keeps their canonical form. Cited in
place of the operations' bodies.
-/
namespace Sys2Proof.Machine

/-- Two states whose arrays are the same data. -/
def SameArrays (s t : State) : Prop :=
  t.phys = s.phys ∧ t.vatMark = s.vatMark ∧ t.hbmEcc = s.hbmEcc ∧ t.jnlMark = s.jnlMark ∧ t.keys = s.keys ∧ t.keyMark = s.keyMark

theorem SameArrays.rfl' {s : State} : SameArrays s s := ⟨rfl, rfl, rfl, rfl, rfl, rfl⟩
theorem SameArrays.trans {s t u : State} (h : SameArrays s t) (g : SameArrays t u) : SameArrays s u :=
  ⟨g.1.trans h.1, g.2.1.trans h.2.1, g.2.2.1.trans h.2.2.1, g.2.2.2.1.trans h.2.2.2.1, g.2.2.2.2.1.trans h.2.2.2.2.1,
    g.2.2.2.2.2.trans h.2.2.2.2.2⟩

/-- The canonical form, array by array. -/
theorem memWf_iff (s : State) : s.memWf = true ↔
    s.phys.wf = true ∧ s.vatMark.wf = true ∧ s.hbmEcc.wf = true ∧ s.jnlMark.wf = true ∧ s.keys.wf = true ∧ s.keyMark.wf = true := by
  simp only [State.memWf, Bool.and_eq_true, and_assoc]

/-- What changes none of the arrays keeps their form. -/
theorem SameArrays.memWf {s t : State} (h : SameArrays s t) (w : s.memWf = true) : t.memWf = true := by
  rw [memWf_iff] at w ⊢
  obtain ⟨h1, h2, h3, h4, h5, h6⟩ := h
  rw [h1, h2, h3, h4, h5, h6]
  exact w

theorem memWf_reset : State.reset.memWf = true := rfl

/-! ### What leaves every array -/

theorem setCore_same (s : State) (c : CoreId) (k : Core) : SameArrays s (s.setCore c k) := .rfl'
theorem raiseIn_same (s : State) (q : QuireId) (i : Fin 64) (m : Option (BitVec 56)) : SameArrays s (raiseIn s q i m) := .rfl'
/-- A fold of acts that leave the arrays leaves them. -/
theorem SameArrays.foldl {α : Type} (l : List α) (f : State → α → State) (h : ∀ s x, SameArrays s (f s x)) (s : State) :
    SameArrays s (l.foldl f s) := by
  induction l generalizing s with
  | nil => exact .rfl'
  | cons x l ih => exact (h s x).trans (ih _)
theorem raiseAll_same (s : State) (i : Fin 64) (m : Option (BitVec 56)) : SameArrays s (raiseAll s i m) :=
  SameArrays.foldl _ _ (fun s q => raiseIn_same s q i m) s
theorem logEvent_same (s : State) (k : LogKind) (n : BitVec 16) : SameArrays s (logEvent s k n) := by
  simp only [SameArrays, logEvent, and_self]
theorem reportUncorrectable_same (s : State) : SameArrays s (reportUncorrectable s) := (logEvent_same s _ _).trans (raiseAll_same _ _ _)
theorem countCe_same (s : State) (u : Nat) : SameArrays s (countCe s u) := .rfl'
theorem countUe_same (s : State) (u : Nat) : SameArrays s (countUe s u) := .rfl'
theorem modEc_same (s : State) (p : Fin 16) (f : HcEc → HcEc) : SameArrays s (modEc s p f) := .rfl'
theorem elogPut_same (s : State) (b : Nat) (u r : Bool) : SameArrays s (elogPut s b u r) := by
  unfold elogPut; split <;> exact .rfl'
theorem countCorrected_same (s : State) (b : Nat) : SameArrays s (countCorrected s b) := by
  unfold countCorrected
  dsimp only
  split
  · exact (modEc_same s _ _).trans (raiseAll_same _ _ _)
  · exact modEc_same s _ _
theorem countUncorrectable_same (s : State) (b : Nat) (u r : Bool) : SameArrays s (countUncorrectable s b u r) :=
  ((modEc_same _ _ _).trans (elogPut_same _ _ _ _)).trans (reportUncorrectable_same _)
theorem keyError_same (s : State) : SameArrays s (keyError s) := (countUe_same s _).trans (reportUncorrectable_same _)
/-- A command to the HBM stack, and a demand read of a burst before any write-back, leave the data (R406, R413). -/
theorem hbmCommand_same (s : State) (b : Nat) : SameArrays s (hbmCommand s b).1 := by
  unfold hbmCommand
  split
  · exact .rfl'
  · dsimp only; split <;> exact .rfl'
theorem hbmLook_same (s : State) (b : Nat) : SameArrays s (hbmLook s b).1 := by
  have h := hbmCommand_same s b
  unfold hbmLook
  split <;> (rename_i e; rw [e] at h)
  · exact h
  · exact h.trans (countCorrected_same _ _)
  · exact h.trans (countUncorrectable_same _ _ _ _)
  · exact h.trans (modEc_same _ _ _)

/-! ### What writes them, and keeps their form -/

/-- A state whose arrays keep their form, whatever writes were made of them. -/
theorem memWf_of {s t : State} (w : s.memWf = true) (h1 : s.phys.wf = true → t.phys.wf = true)
    (h2 : s.vatMark.wf = true → t.vatMark.wf = true) (h3 : s.hbmEcc.wf = true → t.hbmEcc.wf = true)
    (h4 : s.jnlMark.wf = true → t.jnlMark.wf = true) (h5 : s.keys.wf = true → t.keys.wf = true)
    (h6 : s.keyMark.wf = true → t.keyMark.wf = true) : t.memWf = true := by
  rw [memWf_iff] at w ⊢
  exact ⟨h1 w.1, h2 w.2.1, h3 w.2.2.1, h4 w.2.2.2.1, h5 w.2.2.2.2.1, h6 w.2.2.2.2.2⟩

theorem physWrite_memWf {s : State} (w : s.memWf = true) (pa : Nat) (ws : List W16) :
    ({ s with phys := s.phys.write pa ws } : State).memWf = true :=
  memWf_of w (Cells.write_wf · _ _) id id id id id
theorem vatMarkSet_memWf {s : State} (w : s.memWf = true) (l : Nat) (m : BitVec 2) :
    ({ s with vatMark := s.vatMark.set l m } : State).memWf = true :=
  memWf_of w id (Cells.set_wf · _ _) id id id id
theorem hbmEccSet_memWf {s : State} (w : s.memWf = true) (b : Nat) (m : BitVec 32) :
    ({ s with hbmEcc := s.hbmEcc.set b m } : State).memWf = true :=
  memWf_of w id id (Cells.set_wf · _ _) id id id

/-- A check of a Vat line (R214). -/
theorem vatCheck_memWf {s : State} (w : s.memWf = true) (u l : Nat) : (vatCheck s u l).1.memWf = true := by
  unfold vatCheck
  split
  · exact w
  · exact (countCe_same s u).memWf w
  · refine (reportUncorrectable_same _).memWf ?_
    split
    · exact vatMarkSet_memWf ((countUe_same s u).memWf w) _ _
    · exact SameArrays.memWf .rfl' w
  · exact w

/-- Storing a burst (R412, R417). -/
theorem hbmStored_memWf {s : State} (w : s.memWf = true) (b : Nat) (p : Bool) : (hbmStored s b p).memWf = true := by
  unfold hbmStored
  dsimp only
  split
  · exact memWf_of w (Cells.set_wf · _ _) id (Cells.set_wf · _ _) id id id
  · exact hbmEccSet_memWf w _ _
/-- Putting a corrected burst right (R414). -/
theorem fixBurst_memWf {s : State} (w : s.memWf = true) (b : Nat) : (fixBurst s b).memWf = true := by
  unfold fixBurst
  split
  · exact physWrite_memWf w _ _
  · exact w
/-- A demand read of a burst (R413). -/
theorem hbmRead_memWf {s : State} (w : s.memWf = true) (b : Nat) : (hbmRead s b).1.memWf = true := by
  have w1 := (hbmLook_same s b).memWf w
  unfold hbmRead
  dsimp only
  split
  · exact hbmStored_memWf w1 _ _
  · exact w1
/-- A write of part of a burst, and of a whole one (R414). -/
theorem hbmMerge_memWf {s : State} (w : s.memWf = true) (pa : Nat) (ws : List W16) (p : Bool) :
    (hbmMerge s pa ws p).1.memWf = true :=
  hbmStored_memWf (physWrite_memWf (fixBurst_memWf ((hbmLook_same s _).memWf w) _) _ _) _ _
theorem hbmWrite_memWf {s : State} (w : s.memWf = true) (b : Nat) (ws : List W16) (p : Bool) :
    (hbmWrite s b ws p).memWf = true := by
  have h := hbmCommand_same s b
  unfold hbmWrite
  split <;> (rename_i e; rw [e] at h)
  · exact hbmStored_memWf ((h.trans (countUncorrectable_same _ _ _ _)).memWf w) _ _
  · exact hbmStored_memWf (physWrite_memWf (h.memWf w) _ _) _ _
theorem hbmPut_memWf {s : State} (w : s.memWf = true) (pa : Nat) (ws : List W16) (whole p : Bool) :
    (hbmPut s pa ws whole p).1.memWf = true := by
  unfold hbmPut
  split
  · exact hbmWrite_memWf w _ _ _
  · exact hbmMerge_memWf w _ _ _

/-- Reading words of a line (R219, R220). -/
theorem readWords_memWf {s : State} (w : s.memWf = true) (u pa n : Nat) : (readWords s u pa n).s.memWf = true := by
  unfold readWords
  split
  · dsimp only
    split
    · exact hbmRead_memWf w _
    · exact hbmRead_memWf (hbmRead_memWf w _) _
  · exact vatCheck_memWf w u _
  · exact w
/-- Writing part of a line (R214, R220, R414). -/
theorem mergeWords_memWf {s : State} (w : s.memWf = true) (pa : Nat) (ws : List W16) : (mergeWords s pa ws).1.memWf = true := by
  unfold mergeWords
  split
  · dsimp only
    split
    · exact hbmPut_memWf w _ _ _ _
    · exact hbmPut_memWf (hbmPut_memWf w _ _ _ _) _ _ _ _
  · dsimp only
    have w1 := vatCheck_memWf w (unitBank (vatLine pa)) (vatLine pa)
    split
    · exact memWf_of ((countUe_same _ _).memWf w1) (Cells.write_wf · _ _) (Cells.set_wf · _ _) id id id id
    · exact memWf_of w1 (Cells.write_wf · _ _) (Cells.set_wf · _ _) id id id id
  · exact physWrite_memWf w _ _
/-- Writing a whole line (R219, R220, R300). -/
theorem storeLine_memWf {s : State} (w : s.memWf = true) (pa : Nat) (ws : List W16) (p : Bool) : (storeLine s pa ws p).memWf = true := by
  unfold storeLine
  split
  · exact hbmWrite_memWf (hbmWrite_memWf w _ _ _) _ _ _
  · exact memWf_of w (Cells.write_wf · _ _) (Cells.set_wf · _ _) id id id id
  · exact physWrite_memWf w _ _
/-- Writing part of a line with units that may carry poison (R300). -/
theorem mergeUnits_memWf {s : State} (w : s.memWf = true) (pa : Nat) (us : List (W16 × Bool × Bool)) :
    (mergeUnits s pa us).memWf = true := by
  have hp : ∀ {s : State}, s.memWf = true → ∀ pa (us : List (W16 × Bool × Bool)),
      (if us.isEmpty then s
        else (hbmPut s pa (us.map (·.1)) (us.length == 16 && us.all (·.2.1)) (us.any (·.2.2))).1).memWf = true := by
    intro s w pa us
    split
    · exact w
    · exact hbmPut_memWf w _ _ _ _
  unfold mergeUnits
  split
  · exact hp (hp w _ _) _ _
  · split
    · exact storeLine_memWf w _ _ _
    · dsimp only
      split
      · exact vatMarkSet_memWf (mergeWords_memWf w _ _) _ _
      · exact mergeWords_memWf w _ _
  · exact physWrite_memWf w _ _
/-- A fold of acts that keep the form of the arrays keeps it. -/
theorem memWf_foldl {α : Type} (l : List α) (f : State → α → State) (h : ∀ s x, s.memWf = true → (f s x).memWf = true) {s : State}
    (w : s.memWf = true) : (l.foldl f s).memWf = true := by
  induction l generalizing s with
  | nil => exact w
  | cons x l ih => exact ih (h s x w)
/-- Writing runs of words of a line just read correctable (R219, R240). -/
theorem writeCleans_memWf {s : State} (w : s.memWf = true) (ln : Nat) (runs : List (Nat × List W16)) :
    (writeCleans s ln runs).memWf = true := by
  have put : ∀ (l : List (Nat × List W16)) (m : Cells 16), m.wf = true → (l.foldl (fun m r => m.write r.1 r.2) m).wf = true := by
    intro l
    induction l with
    | nil => exact fun _ h => h
    | cons r l ih => exact fun m h => ih _ (Cells.write_wf h _ _)
  have all : ∀ s : State, s.memWf = true →
      State.memWf { s with phys := runs.foldl (fun m r => m.write r.1 r.2) s.phys } = true :=
    fun s w => memWf_of w (put runs _) id id id id id
  unfold writeCleans
  dsimp only
  split
  · exact memWf_foldl _ _ (fun _ _ h => hbmStored_memWf h _ _) (all _ (memWf_foldl _ _ (fun _ _ h => fixBurst_memWf h _) w))
  · exact vatMarkSet_memWf (all _ w) _ _
  · exact all _ w
/-- Writing one run of words so. -/
theorem writeClean_memWf {s : State} (w : s.memWf = true) (pa : Nat) (ws : List W16) : (writeClean s pa ws).memWf = true :=
  writeCleans_memWf w _ _
/-- USE of a frame (R330). -/
theorem touchUse_memWf {s : State} (w : s.memWf = true) (pa : Nat) (wr : Bool) : (touchUse s pa wr).memWf = true := by
  unfold touchUse
  dsimp only
  split
  · exact w
  · exact memWf_of w id id id id (Cells.set_wf · _ _) id
/-- A journal slot (R255). -/
theorem putSlot_memWf {s : State} (w : s.memWf = true) (pa : Nat) (ws : List W16) : (putSlot s pa ws).memWf = true :=
  memWf_of w (Cells.write_wf · _ _) id id (Cells.foldl_set_wf _ _ (fun _ => 0#1) ·) id id
/-- The key array (R331, R333). -/
theorem skeyAct_memWf {s : State} (w : s.memWf = true) (f : BitVec 24) (v : W64) : (skeyAct s f v).1.memWf = true := by
  unfold skeyAct
  dsimp only
  split
  · exact w
  · have w1 : ∀ t : BitVec 8, ({ s with
        keys := s.keys.set f.toNat t
        keyMark := if v.getLsbD 8 || v.getLsbD 9 then s.keyMark.set (f.toNat / 8) 0#1 else s.keyMark } : State).memWf = true := by
      intro t
      refine memWf_of w id id id id (Cells.set_wf · _ _) (fun h => ?_)
      show Cells.wf (if _ then _ else _) = true
      split
      · exact Cells.set_wf h _ _
      · exact h
    dsimp only
    split
    · exact (keyError_same _).memWf (w1 _)
    · exact w1 _
/-- A walk reads tables (R318): it keeps the form. -/
theorem walkLeaf_memWf {s : State} (w : s.memWf = true) (wc : List WalkEntry) (tag : BitVec 12) (vpn : BitVec 28) (e : W64) :
    (walkLeaf s wc tag vpn e).s.memWf = true := by
  unfold walkLeaf
  dsimp only
  split
  · exact w
  · split
    · exact w
    · split
      · exact (keyError_same s).memWf w
      · exact SameArrays.memWf .rfl' w
theorem walkFrom_memWf {s : State} (w : s.memWf = true) (u : Nat) (wc : List WalkEntry) (tag : BitVec 12) (vpn : BitVec 28)
    (t : BitVec 24) (fuel : Nat) : (walkFrom s u wc tag vpn t fuel).s.memWf = true := by
  induction fuel generalizing s wc t with
  | zero =>
    unfold walkFrom
    split
    · exact w
    · split
      · exact w
      · dsimp only
        split
        · exact walkLeaf_memWf (readWords_memWf w _ _ _) _ _ _ _
        · exact readWords_memWf w _ _ _
  | succ f ih =>
    have hr : ∀ i, (tableRead s u t i).s.memWf = true := fun i => readWords_memWf w _ _ _
    unfold walkFrom
    dsimp only
    repeat' split
    all_goals try dsimp only
    all_goals with_reducible first
      | exact w
      | exact hr _
      | exact ih w _ _
      | exact ih (hr _) _ _
theorem walk_memWf {s : State} (w : s.memWf = true) (u : Nat) (x : Ctx) (wc : List WalkEntry) (va : BitVec 40) :
    (walk s u x wc va).s.memWf = true := by
  unfold walk
  split
  · exact w
  · exact walkFrom_memWf w _ _ _ _ _ _

/-! ### Resets and erasure -/

/-- The zero fill of a cold boot, the erasure and a warm reset (R215, R499, R527). -/
theorem fillStage_memWf {s : State} (w : s.memWf = true) : (fillStage s).memWf = true := by
  unfold fillStage
  split
  · rfl
  · exact w
theorem eraseOwner_memWf (s : State) : (eraseOwner s).memWf = true := rfl
theorem warmReset_memWf {s : State} (w : s.memWf = true) (ws : BitVec 2) : (warmReset s ws).memWf = true := SameArrays.memWf .rfl' w

end Sys2Proof.Machine
end

