-- ==== Sys2Proof/Laws/Pipe.lean ====
section
/-!
SUPPORT. One core's shared operations: what results in flight, completion, entries, local memory, the return stack and
translation change of a core, and what they leave. Cited in place of the operations' bodies.
-/
namespace Sys2Proof.Machine

/-! ### Results in flight (R68 to R72) -/

/-- A result that becomes visible writes a G register, an accumulator, a status field or a request, and nothing else. -/
theorem Core.commit_frame (k : Core) (f : FDst) : k.commit f = { k with
    g := (k.commit f).g, a := (k.commit f).a, fpDue := (k.commit f).fpDue, micro := (k.commit f).micro
    sys := { k.sys with
      mode := (k.commit f).sys.mode, ie := (k.commit f).sys.ie, krr := (k.commit f).sys.krr
      bpctl := (k.commit f).sys.bpctl, fpsf := (k.commit f).sys.fpsf } } := by
  cases f <;> rfl
theorem Core.commitAll_cons (k : Core) (f : Flight) (fs : List Flight) : k.commitAll (f :: fs) = (k.commit f.dst).commitAll fs := rfl
theorem Core.commitAll_append (k : Core) (fs gs : List Flight) : k.commitAll (fs ++ gs) = (k.commitAll fs).commitAll gs := by
  simp [Core.commitAll]
theorem Core.commitAll_frame (fs : List Flight) (k : Core) : k.commitAll fs = { k with
    g := (k.commitAll fs).g, a := (k.commitAll fs).a, fpDue := (k.commitAll fs).fpDue, micro := (k.commitAll fs).micro
    sys := { k.sys with
      mode := (k.commitAll fs).sys.mode, ie := (k.commitAll fs).sys.ie, krr := (k.commitAll fs).sys.krr
      bpctl := (k.commitAll fs).sys.bpctl, fpsf := (k.commitAll fs).sys.fpsf } } := by
  induction fs generalizing k with
  | nil => rfl
  | cons f fs ih =>
    rw [Core.commitAll_cons, ih (k.commit f.dst), Core.commit_frame k f.dst]
/-- The end of an instruction writes what becomes visible and the results in flight, and nothing else. -/
theorem Core.retire_frame (k : Core) (own : List Flight) : k.retire own = { k with
    g := (k.retire own).g, a := (k.retire own).a, fpDue := (k.retire own).fpDue, micro := (k.retire own).micro
    flights := (k.retire own).flights
    sys := { k.sys with
      mode := (k.retire own).sys.mode, ie := (k.retire own).sys.ie, krr := (k.retire own).sys.krr
      bpctl := (k.retire own).sys.bpctl, fpsf := (k.retire own).sys.fpsf } } := by
  simp only [Core.retire]
  rw [Core.commitAll_frame (own.filter _), Core.commitAll_frame (k.flights.filter _)]
/-- Every result in flight becomes visible, and none is left. -/
theorem Core.settle_frame (k : Core) : k.settle = { k with
    g := k.settle.g, a := k.settle.a, fpDue := k.settle.fpDue, micro := k.settle.micro, flights := []
    sys := { k.sys with
      mode := k.settle.sys.mode, ie := k.settle.sys.ie, krr := k.settle.sys.krr
      bpctl := k.settle.sys.bpctl, fpsf := k.settle.sys.fpsf } } := by
  simp only [Core.settle]
  rw [Core.commitAll_frame k.flights]
@[simp] theorem Core.retire_branch (k : Core) (own : List Flight) : (k.retire own).branch = k.branch := by rw [Core.retire_frame]
@[simp] theorem Core.retire_pc (k : Core) (own : List Flight) : (k.retire own).pc = k.pc := by rw [Core.retire_frame]
@[simp] theorem Core.retire_loop (k : Core) (own : List Flight) : (k.retire own).loop = k.loop := by rw [Core.retire_frame]
@[simp] theorem Core.retire_loc (k : Core) (own : List Flight) : (k.retire own).loc = k.loc := by rw [Core.retire_frame]
@[simp] theorem Core.retire_sbuf (k : Core) (own : List Flight) : (k.retire own).sbuf = k.sbuf := by rw [Core.retire_frame]
@[simp] theorem Core.retire_longs (k : Core) (own : List Flight) : (k.retire own).longs = k.longs := by rw [Core.retire_frame]
@[simp] theorem Core.retire_rs (k : Core) (own : List Flight) : (k.retire own).rs = k.rs := by rw [Core.retire_frame]
@[simp] theorem Core.retire_l (k : Core) (own : List Flight) : (k.retire own).l = k.l := by rw [Core.retire_frame]
@[simp] theorem Core.retire_fl (k : Core) (own : List Flight) : (k.retire own).fl = k.fl := by rw [Core.retire_frame]

/-- A result for a G register is what the register holds once visible; one for another leaves it. -/
theorem Core.gr_commit (k : Core) (r : GReg) (v : W64) : (k.commit (.g r v)).gr r = v := by simp [Core.commit, Core.gr]
theorem Core.gr_commit_ne (k : Core) (r q : GReg) (v : W64) (h : q ≠ r) : (k.commit (.g q v)).gr r = k.gr r := by
  simp only [Core.commit, Core.gr]
  exact Vector.getElem_set_ne _ _ (fun e => h (Fin.ext e))
theorem Core.ac_commit (k : Core) (r : AReg) (v : Acc) : (k.commit (.a r v)).ac r = v := by simp [Core.commit, Core.ac]
theorem Core.ac_commit_ne (k : Core) (r q : AReg) (v : Acc) (h : q ≠ r) : (k.commit (.a q v)).ac r = k.ac r := by
  simp only [Core.commit, Core.ac]
  exact Vector.getElem_set_ne _ _ (fun e => h (Fin.ext e))

/-- The step past an instruction writes the pc and the loop registers. -/
theorem Core.stepPast_frame (k : Core) (p : BitVec 32) (n : Nat) :
    k.stepPast p n = { k with pc := (k.stepPast p n).pc, loop := (k.stepPast p n).loop } := by
  simp only [Core.stepPast]
  split
  · split <;> rfl
  · rfl

/-! ### Entries (R345, R366) -/

/-- An entry through the X set settles the core and writes the X set, the mode and the pc; LVL, VB and the rest of the core stand. -/
theorem Core.unmicro_frame (k : Core) : k.unmicro = { k with flights := k.unmicro.flights, micro := none } := by
  simp only [Core.unmicro]
  split
  · rename_i h; rw [← h]
  · rfl
theorem Core.enterX_frame (k : Core) (cause : BitVec 8) (xpc : BitVec 32) (xad : BitVec 40) (lvl : BitVec 2) (xtgt : Option (BitVec 32))
    (xlp xrs : Bool) :
    let t := k.enterX cause xpc xad lvl xtgt xlp xrs
    t = { k with
      g := t.g, a := t.a, fpDue := t.fpDue, micro := none, flights := [], ahead := [], pc := k.sys.x.xvb + cause.setWidth 32 * 16#32, branch := none
      longs := dropFpReqs k.longs, ctl := k.ctl.proceed
      sys := { k.sys with mode := true, ie := false, krr := t.sys.krr, bpctl := t.sys.bpctl, fpsf := t.sys.fpsf, x := t.sys.x } } := by
  simp only [Core.enterX]
  rw [Core.settle_frame k.unmicro, Core.unmicro_frame k]
/-- What the X set records (R345 to R348). -/
theorem Core.enterX_x (k : Core) (cause : BitVec 8) (xpc : BitVec 32) (xad : BitVec 40) (lvl : BitVec 2) (xtgt : Option (BitVec 32))
    (xlp xrs : Bool) :
    let x := (k.enterX cause xpc xad lvl xtgt xlp xrs).sys.x
    x.xvb = k.sys.x.xvb ∧ x.xpc = xpc ∧ x.xfl = k.fl ∧ x.cause = cause ∧ x.lvl = lvl ∧ x.xad = xad ∧ x.xds = xtgt.isSome
    ∧ x.xtgt = xtgt.getD k.sys.x.xtgt ∧ x.xlp = xlp ∧ x.xrs = xrs := by
  simp only [Core.enterX]
  rw [Core.settle_frame k.unmicro, Core.unmicro_frame k]
  simp
/-- An entry through the M set does the same with the M set, and discards the decimal and floating requests (R366). -/
theorem Core.enterM_frame (k : Core) (cause : MCause) (lvl : BitVec 2) (mpc : BitVec 32) (mms : Option (BitVec 3)) :
    let t := k.enterM cause lvl mpc mms
    t = { k with
      g := t.g, a := t.a, fpDue := [], ovf := none, micro := none, flights := [], ahead := [], branch := none
      pc := k.sys.x.xvb + (mcauseCode cause).setWidth 32 * 16#32, longs := dropFpReqs k.longs, ctl := k.ctl.proceed
      sys := { k.sys with mode := true, ie := false, krr := t.sys.krr, bpctl := t.sys.bpctl, fpsf := t.sys.fpsf, m := t.sys.m } } := by
  simp only [Core.enterM]
  rw [Core.settle_frame k.unmicro, Core.unmicro_frame k]
/-- A precise exception enters through the X set, or reports an older floating request first (R208). -/
theorem Core.enterPrecise_cases (k : Core) (cause : BitVec 8) (xad : BitVec 40) (lvl : BitVec 2) :
    (∃ r, k.fpAtEntry = some r ∧ k.branch = none ∧ k.enterPrecise cause xad lvl = k.enterFloat r)
    ∨ k.enterPrecise cause xad lvl = k.enterX cause k.pc xad lvl (k.branch.map (·.target)) k.atLoopEnd false := by
  unfold Core.enterPrecise
  split
  · rename_i r hb hf
    exact .inl ⟨r, hf, hb, rfl⟩
  · exact .inr rfl

/-! ### Local memory (R82 to R84) -/

/-- A drain writes one entry's words to the banks and nothing else. -/
theorem Core.drainOldest_frame (k : Core) :
    k.drainOldest = { k with loc := k.drainOldest.loc, locBad := k.drainOldest.locBad, locOne := k.drainOldest.locOne, sbuf := k.drainOldest.sbuf } := by
  simp only [Core.drainOldest]
  split <;> rfl
theorem Core.drainOver_frame (f : Nat) (k : Core) (a n : Nat) :
    k.drainOver a n f = { k with loc := (k.drainOver a n f).loc, locBad := (k.drainOver a n f).locBad, locOne := (k.drainOver a n f).locOne, sbuf := (k.drainOver a n f).sbuf } := by
  induction f generalizing k with
  | zero => rfl
  | succ f ih =>
    simp only [Core.drainOver]
    split
    · rw [ih k.drainOldest, Core.drainOldest_frame k]
    · rfl
theorem Core.drainLocal_frame (f : Nat) (k : Core) :
    k.drainLocal f = { k with loc := (k.drainLocal f).loc, locBad := (k.drainLocal f).locBad, locOne := (k.drainLocal f).locOne, sbuf := (k.drainLocal f).sbuf } := by
  induction f generalizing k with
  | zero => rfl
  | succ f ih =>
    simp only [Core.drainLocal]
    split
    · rw [ih k.drainOldest, Core.drainOldest_frame k]
    · rfl
/-- A local store goes to the store buffer; at most the oldest entry drains. -/
theorem Core.storeLoc_frame (k : Core) (a : Nat) (ws : List W16) :
    k.storeLoc a ws = { k with loc := (k.storeLoc a ws).loc, locBad := (k.storeLoc a ws).locBad, locOne := (k.storeLoc a ws).locOne, sbuf := (k.storeLoc a ws).sbuf } := by
  simp only [Core.storeLoc]
  split
  · rw [Core.drainOldest_frame k]
  · rfl
/-- A read counts the single-bit errors that it corrects (R177). -/
theorem Core.countLoc_frame (k : Core) (a n : Nat) : k.countLoc a n = { k with locCe := (k.countLoc a n).locCe } := by
  simp only [Core.countLoc]
/-- A local read that brings words changes at most what has drained, and the count of corrected words. -/
theorem Core.readLoc_frame {k k1 : Core} {a n : Nat} {ws : List W16} (h : k.readLoc a n = .ok ws k1) :
    k1 = { k with loc := k1.loc, locBad := k1.locBad, locOne := k1.locOne, locCe := k1.locCe, sbuf := k1.sbuf } := by
  have bank : ∀ k2 : Core, (if ((List.range n).any fun i => k2.locBad.get ((a + i) / 4) != 0#1) = true then LocRead.bad (k2.countLoc a n)
      else .ok (k2.loc.read a n) (k2.countLoc a n)) = .ok ws k1 → k1 = k2.countLoc a n := by
    intro k2 e
    split at e
    · cases e
    · injection e with _ e; exact e.symm
  simp only [Core.readLoc] at h
  split at h
  · split at h
    · injection h with _ h; rw [← h]
    · rw [bank _ h, Core.countLoc_frame, Core.drainOver_frame]
  · rw [bank _ h, Core.countLoc_frame]
/-- A local read that meets an uncorrectable word changes no more: what drained before it stands (R84). -/
theorem Core.readLoc_bad_frame {k k1 : Core} {a n : Nat} (h : k.readLoc a n = .bad k1) :
    k1 = { k with loc := k1.loc, locBad := k1.locBad, locOne := k1.locOne, locCe := k1.locCe, sbuf := k1.sbuf } := by
  have bank : ∀ k2 : Core, (if ((List.range n).any fun i => k2.locBad.get ((a + i) / 4) != 0#1) = true then LocRead.bad (k2.countLoc a n)
      else .ok (k2.loc.read a n) (k2.countLoc a n)) = .bad k1 → k1 = k2.countLoc a n := by
    intro k2 e
    split at e
    · injection e with e; exact e.symm
    · cases e
  simp only [Core.readLoc] at h
  split at h
  · split at h
    · cases h
    · rw [bank _ h, Core.countLoc_frame, Core.drainOver_frame]
  · rw [bank _ h, Core.countLoc_frame]
theorem Cells.read_length {w : Nat} (m : Cells w) (a n : Nat) : (m.read a n).length = n := by
  induction n generalizing a with
  | zero => rfl
  | succ n ih => simp [Cells.read, ih]

/-! ### The return stack (R60 to R62) -/

theorem Core.rsPush_room {k : Core} {v : BitVec 32} (h : k.rs.length < 16) : k.rsPush v = some { k with rs := v :: k.rs } := by
  simp [Core.rsPush, h]
/-- With 16 entries, a push spills the oldest to the word pair below RSP; with the spill area full it overflows. -/
theorem Core.rsPush_spill {k : Core} {v old : BitVec 32} (h : k.rs.length = 16) (hl : k.rs.getLast? = some old) (hr : k.rsp ≠ 0x7C00#16) :
    ∃ t, k.rsPush v = some t ∧ t.rs = v :: k.rs.dropLast ∧ t.rsp = k.rsp - 2#16 := by
  have n : ¬ k.rs.length < 16 := by omega
  refine ⟨_, by simp only [Core.rsPush, n, if_false, Core.rsSpill, hl, hr, Option.map_some]; rfl, ?_, ?_⟩
  · simp only
    rw [Core.storeLoc_frame]
  · simp only
    rw [Core.storeLoc_frame]
theorem Core.rsPush_full {k : Core} {v : BitVec 32} (h : k.rs.length = 16) (hr : k.rsp = 0x7C00#16) : k.rsPush v = none := by
  simp only [Core.rsPush, h, Core.rsSpill]
  cases e : k.rs.getLast? with
  | none => simp only [List.getLast?_eq_none_iff] at e; simp [e] at h
  | some x => simp [hr]
theorem Core.rsPop_top {k : Core} {v : BitVec 32} {rest : List (BitVec 32)} (h : k.rs = v :: rest) : k.rsPop = .ok v { k with rs := rest } := by
  simp [Core.rsPop, h]
theorem Core.rsPop_empty {k : Core} (h : k.rs = []) (hr : k.rsp = 0x8000#16) : k.rsPop = .underflow := by
  simp [Core.rsPop, h, hr]

/-! ### Translation (R314, R321, R325) -/

/-- The entry found is one of the TLB that hits. -/
theorem tlbFind_mem {l : List TlbEntry} {tag : BitVec 12} {vpn : BitVec 28} {e : TlbEntry} (h : tlbFind l tag vpn = some e) :
    e ∈ l ∧ e.hits tag vpn = true := by
  have key : ∀ (m : List TlbEntry) (acc : Option TlbEntry), (∀ x, acc = some x → x ∈ l.filter (fun e => e.hits tag vpn)) →
      (∀ x ∈ m, x ∈ l.filter (fun e => e.hits tag vpn)) → ∀ r, m.foldl (fun acc e => match acc with
        | none => some e
        | some b => if b.fill < e.fill then some e else some b) acc = some r → r ∈ l.filter (fun e => e.hits tag vpn) := by
    intro m
    induction m with
    | nil => intro acc ha _ r hr; exact ha r hr
    | cons y m ih =>
      intro acc ha hm r hr
      simp only [List.foldl_cons] at hr
      refine ih _ (fun x hx => ?_) (fun x hx => hm x (List.mem_cons_of_mem _ hx)) r hr
      cases acc with
      | none => simp only [Option.some.injEq] at hx; subst hx; exact hm _ List.mem_cons_self
      | some b =>
        simp only at hx
        split at hx <;> simp only [Option.some.injEq] at hx <;> subst hx
        · exact hm _ List.mem_cons_self
        · exact ha _ rfl
  have := key _ none (fun x hx => by cases hx) (fun x hx => hx) _ h
  simpa using List.mem_filter.1 this
/-- A look-up that passes gives the page of an entry of the TLB that grants the access. -/
theorem translate_ok {l : List TlbEntry} {tag : BitVec 12} {mode : Bool} {krr : W32} {va : BitVec 40} {q : Want} {pa : Nat} {e : TlbEntry}
    (h : translate l tag mode krr va q = .ok pa e) :
    tlbFind l tag (vpnOf va) = some e ∧ pa = e.pa va ∧ (q.r = true → e.r = true) ∧ (q.w = true → e.w = true) ∧ (q.x = true → e.x = true)
    ∧ (mode = false → e.u = true) ∧ e.mt ∈ q.mts := by
  unfold translate at h
  split at h
  · cases h
  · rename_i e1 he
    split at h
    · cases h
    · rename_i hp
      split at h
      · cases h
      · split at h
        · cases h
        · rename_i hm
          injection h with h1 h2
          subst h2
          simp only [Bool.or_eq_true, Bool.and_eq_true, Bool.not_eq_true', not_or, not_and, Bool.not_eq_false] at hp
          refine ⟨he, h1.symm, fun h => hp.1.1.1 h, fun h => hp.1.1.2 h, fun h => hp.1.2 h, fun h => ?_, by simpa using hm⟩
          exact hp.2 (by simpa using h)
/-- A touched TLB holds the same entries in another order, one of them moved up. -/
theorem tlbTouch_perm {l : List TlbEntry} {e : TlbEntry} (he : e ∈ l) : (tlbTouch l e).Perm l := (List.perm_cons_erase he).symm
/-- So does a touched instruction cache. -/
theorem icTouch_perm {l : List ICLine} {e : ICLine} (he : e ∈ l) : (icTouch l e).Perm l := (List.perm_cons_erase he).symm
theorem mem_tlbTouch {l : List TlbEntry} {e x : TlbEntry} (he : e ∈ l) (h : x ∈ tlbTouch l e) : x ∈ l :=
  (tlbTouch_perm he).mem_iff.1 h
/-- A translated access that passes comes to its own effect, with the entry touched. -/
theorem dAccess_ok {k : Core} {va : BitVec 40} {q : Want} {pa : Nat} {e : TlbEntry} {f : Nat → TlbEntry → Core → Res}
    (h : translate k.dtlb k.cxt.tag k.sys.mode k.sys.krr va q = .ok pa e) : dAccess k va q f = f pa e { k with dtlb := tlbTouch k.dtlb e } := by
  simp [dAccess, h]

/-! ### Local operands (R41, R110) -/

/-- A local access that lies below 0x8000, within LRB in Tenant mode, has no fault. -/
theorem localCheck_ok {k : Core} {ea : BitVec 40} {n : Nat} (h : ea.toNat + n ≤ 0x8000)
    (hm : k.sys.mode = false → ∀ j < n, k.sys.tenantWord (ea.toNat + j) = true) : localCheck k ea n = none := by
  have h1 : inLocal ea n = true := by simp [inLocal, localEnd, h]
  simp only [localCheck, h1, Core.outOfBound]
  cases hk : k.sys.mode with
  | true => simp
  | false =>
    have : (List.range n).find? (fun i => !k.sys.tenantWord (ea.toNat + i)) = none := by
      rw [List.find?_eq_none]
      intro j hj
      simp [hm hk j (List.mem_range.1 hj)]
    simp [this]
theorem localCheck_place {k : Core} {ea : BitVec 40} {n : Nat} (h : 0x8000 < ea.toNat + n) : localCheck k ea n = some (.exc 0x03 ea 0) := by
  have h1 : inLocal ea n = false := decide_eq_false (Nat.not_le_of_lt h)
  simp [localCheck, h1]
/-- A load whose words pass comes to its own effect on them, from the core that the read leaves. -/
theorem loadThen_ok {k k1 : Core} {ea : BitVec 40} {n : Nat} {ws : List W16} {f : List W16 → Core → Res} (h : localCheck k ea n = none)
    (hr : k.readLoc ea.toNat n = .ok ws k1) : loadThen k ea n f = .from k1 (f ws k1) := by
  simp [loadThen, withLocal, readThen, h, hr]
/-- A load that meets an uncorrectable word is a machine check of the core that the read leaves (R365). -/
theorem loadThen_bad {k k1 : Core} {ea : BitVec 40} {n : Nat} {f : List W16 → Core → Res} (h : localCheck k ea n = none)
    (hr : k.readLoc ea.toNat n = .bad k1) : loadThen k ea n f = .from k1 (.mcheck .localData 0) := by
  simp [loadThen, withLocal, readThen, h, hr]
@[simp] theorem settleRes_from (s : State) (c : CoreId) (k k1 : Core) (len : Nat) (r : Res) :
    settleRes s c k len (.from k1 r) = settleRes s c k1 len r := rfl

/-! ### Units that serve requests (R17, R74) -/

/-- A request that waits leaves the device; one whose turn it is has the unit's effect, and what it held back enters; one where no
memory is stops the model. -/
theorem serveAt_waits {s : State} {c : CoreId} {e : Entry} {st pa : Nat} {f : State → State}
    (h : s.blocked (e.age (srcCore c) st) (lineOf pa) = true) : serveAt s c e st pa f = .next s := by simp [serveAt, h]
theorem serveAt_serves {s : State} {c : CoreId} {e : Entry} {st pa : Nat} {f : State → State}
    (h : s.blocked (e.age (srcCore c) st) (lineOf pa) = false)
    (hr : regionOf s.part pa ≠ .absent) : serveAt s c e st pa f = .next ((f s).letIn c) := by simp [serveAt, h, hr]
theorem serveAt_absent {s : State} {c : CoreId} {e : Entry} {st pa : Nat} {f : State → State}
    (h : s.blocked (e.age (srcCore c) st) (lineOf pa) = false)
    (hr : regionOf s.part pa = .absent) : serveAt s c e st pa f = .fault (.noMemory pa) := by simp [serveAt, h, hr]
/-- A long op's destination is busy from its issue, and free once it has delivered (R46, R74). -/
theorem lBusy_addLong (k : Core) (o : LongOp) (n : LRegId) : (k.addLong o).lBusy n = (k.lBusy n || (o.dest == .l n)) := by
  simp [Core.lBusy, Core.addLong]
theorem lBusy_dropLong (k : Core) (n : LRegId) : (k.dropLong (.l n)).lBusy n = false := by
  simp [Core.lBusy, Core.dropLong]
theorem whenL_free {k : Core} {l : LRegId} {f : Res} (h : k.lBusy l = false) : whenL k l f = f := by simp [whenL, h]
theorem whenL_busy {k : Core} {l : LRegId} {f : Res} (h : k.lBusy l = true) : whenL k l f = .hold := by simp [whenL, h]

end Sys2Proof.Machine
end

