-- ==== Sys2Proof/Tests/Slice0.lean ====
section
/-!
SUPPORT. The model's own tests: ill-formed commands, worked values of the spec, and for each statement states and operands that meet
its hypotheses. Expected values are the spec's, or worked out from its rules by hand.
-/
namespace Sys2Proof.Tests
set_option Elab.async false
open Sys2Proof.Machine Sys2Proof.Claims
set_option maxRecDepth 20000

/-! ### Small states -/

/-- A core that has been released (R30). -/
def runCore : Core := { Core.reset with ctl := { Ctl.reset with run := true } }
/-- A core in Tenant mode. -/
def tenant : Core := { runCore with sys := { runCore.sys with mode := false, tib := 0x2000, txb := 0x0100, tyb := 0x0080 } }
/-- A device at READY with every core released. -/
def up : State :=
  { State.reset with
    pins := { Pins.reset with phase := .running }, cores := Vector.replicate 64 runCore, stw := { Steward.reset with bst := .ready } }
/-- The same, with core 0 as given. -/
def upWith (k : Core) : State := up.setCore 0 k
/-- The same, with its PCIe link up and every function open to requests. -/
def linked : State :=
  { up with host := { HostIf.reset with
      lup := true, cfg := Vector.replicate 16 { FnCfg.reset with mse := true, bme := true, msixEn := true }, nvf := 2, b4e := true } }
/-- The state after a command; the state itself where none follows. -/
def after (i : Instr) (s : State) : State := match exec i s with | .next t => t | _ => s
/-- Core 0 after a command. -/
def coreAfter (i : Instr) (s : State) : Core := (after i s).core 0

/-- A core with the words of an instruction where it fetches next. -/
def placed (k : Core) (i : Instr) : Core := { k with iram := k.iram.write k.pc.toNat (encodeInstr i) }
/-- Core 0 after an instruction whose words stand at its pc. -/
def ran (i : Instr) (k : Core) : Core := coreAfter i (upWith (placed k i))
/-- Core 0 issues instruction i, of n words: nothing holds it, and the words at its pc spell i. -/
def issuesNow (s : State) (i : Instr) (n : Nat) : Bool :=
  s.canIssue 0 &&
    match fetchInstr (s.quire (coreQuire 0)).image (s.core 0) (s.core 0).pc with
    | .ok ws k1 => decide (k1 = s.core 0) && ws.length == n
        && (s.quire (coreQuire 0)).image.parityOk 1 ((ws.getD 0 0).extractLsb' 8 8).toNat && spells 0 k1 ws i
    | _ => false
theorem issuesNow_issues {s : State} {i : Instr} {n : Nat} (h : issuesNow s i n = true) : Issues s 0 n (s.core 0) ∧ AtPc s 0 i := by
  simp only [issuesNow, Bool.and_eq_true] at h
  obtain ⟨h0, h1⟩ := h
  split at h1
  case h_1 ws k1 hf =>
    simp only [Bool.and_eq_true, decide_eq_true_eq, beq_iff_eq] at h1
    obtain ⟨⟨⟨e, rfl⟩, hp⟩, hs⟩ := h1
    rw [e] at hf hs
    exact ⟨⟨h0, ws, hf, rfl, hp⟩, ws, s.core 0, hf, hs⟩
  case h_2 => exact absurd h1 (by decide)
/-- The same, of the device with core 0 as given. -/
def goes (k : Core) (i : Instr) (n : Nat) : Bool := issuesNow (upWith k) i n
theorem goes_issues {k : Core} {i : Instr} {n : Nat} (h : goes k i n = true) : Issues (upWith k) 0 n k ∧ AtPc (upWith k) 0 i := by
  have c : (upWith k).core 0 = k := by simp [upWith, State.core, State.setCore]
  have := issuesNow_issues h
  rwa [c] at this

/-! ### Ill-formed commands -/

theorem refuses_quad_load_through_high_register : (Instr.ld 0 .q (.reg 3) 16).wf = false := by decide
theorem refuses_narrow_store_by_register : (Instr.st 0 .w (.reg 3) 4).wf = false := by decide
theorem refuses_one_block_sheet : (Instr.acknowledgement [⟨1, 0⟩]).wf = false := by decide
theorem refuses_empty_bar_read : (Instr.bar0Read 0 0).wf = false := by decide
theorem refuses_empty_bar_write : (Instr.bar4Write 0 []).wf = false := by decide
theorem refuses_other_majors : (Instr.customerInstruction 0 0x1200 0 0).wf = false := by decide
theorem refuses_management_over_doe : (Instr.getStatus .doe).wf = false := by decide
theorem refuses_count_beyond_a_byte : (Instr.readLog .smbus 0 256 0).wf = false := by decide
theorem refuses_spdm_in_band : (Instr.getVersion .inBand).wf = false := by decide
theorem refuses_mctp_over_doe : (Instr.getEndpointId .doe).wf = false := by decide
theorem refuses_short_unlock : (Instr.unlock 1 [0x41]).wf = false := by decide
theorem accepts_a_quad_load : (Instr.ld 0 .q (.reg 3) 15).wf = true := by decide

/-! ### States and operands that meet the hypotheses of the statements -/

theorem witness_IdleStepIsOneCycle : Calm up ∧ up.pwr.move = .still := by unfold Calm; decide +kernel
theorem witness_ArraysStayCanonical :
    let s := { up with pending := [.registerWrite .steward 0x000000 0] }
    s.memWf = true ∧ ∃ t, step s = .next t := ⟨by decide +kernel, _, rfl⟩
theorem witness_CoreLeavesReset :
    (State.reset.core 5).ctl.run = false ∧ Core.reset.pc = 0#32 ∧ Core.reset.sys.mode = true ∧ Core.reset.iramBad.get 0 = 0#1 := by
  decide +kernel
theorem witness_FetchFrame : fetchRun runCore 0 2 = .ok [0, 0] runCore := rfl

/-- A core with one result for G3 in flight. -/
def flying : Core := { runCore with flights := [⟨.g 3 7, 1⟩] }
theorem witness_ResultsAndDistances :
    (∀ f ∈ runCore.flights, namesG f 3 = false ∧ namesA f 0 = false)
    ∧ (∀ own ∈ [[⟨.g 4 1, 0⟩], []], ∀ f ∈ own, namesG f 3 = false ∧ namesA f 0 = false)
    ∧ flying.micro = none ∧ flying.flights = [] ++ ⟨.g 3 7, 1⟩ :: [] := by decide +kernel

/-- A core at the end of a loop of one instruction, with n in LC. -/
def atLoopEnd (n : BitVec 32) : Core := { runCore with pc := 0x10, loop := ⟨n, 0x10, 0x10, none, none, none⟩ }
theorem witness_LoopEndAndNextPc :
    let b : Core := { runCore with branch := some ⟨0x30, 0x10, .none, none⟩ }
    b.branch = some ⟨0x30, 0x10, .none, none⟩
    ∧ (atLoopEnd 0).branch = none ∧ (atLoopEnd 0).loop.lc = 0#32
    ∧ (atLoopEnd 1).branch = none ∧ (atLoopEnd 1).pc = (atLoopEnd 1).loop.le ∧ (atLoopEnd 1).loop.lc ≠ 0#32
    ∧ (atLoopEnd 2).loop.lc ≠ 0#32 ∧ (2 ≤ ((atLoopEnd 2).loop.lcNew.getD (atLoopEnd 2).loop.lc).toNat) := by decide +kernel
theorem witness_FinishFrame :
    (∀ f ∈ flying.flights, namesG f 5 = false) ∧ (∀ f ∈ toG 4 1, namesG f 5 = false) ∧ ∀ f ∈ flying.flights, namesA f 0 = false := by
  decide +kernel

/-- One instruction of each row that a core fetches, with its words; the words themselves are the encoder's. -/
def integers : List (Instr × Nat) :=
  [(.nop 0, 1), (.lwait 0, 1), (.vfence 0, 1), (.fbar 0, 1), (.svc 0 5, 1), (.sret 0, 1), (.xret 0, 1), (.mret 0, 1),
   (.mov 0 (.s 1 2), 1), (.mov 0 (.w 20 21), 2), (.add 0 (.s 1 2), 1), (.add 0 (.w 20 21 22), 2), (.sub 0 (.s 1 2), 1),
   (.addc 0 (.s 1 2), 1), (.subc 0 (.w 20 21 22), 2), (.and 0 (.s 1 2), 1), (.or 0 (.s 1 2), 1), (.xor 0 (.w 20 21 22), 2),
   (.andn 0 1 2 3, 2), (.cmp 0 (.s 1 2), 1), (.cmp 0 (.w 20 21), 2), (.shl 0 (.s 1 2), 1), (.shr 0 (.s 1 2), 1),
   (.sar 0 (.w 20 21 22), 2), (.rol 0 1 2 3, 2), (.not 0 1, 1), (.neg 0 1, 1), (.tst 0 1, 1), (.addi 0 1 2 3, 3),
   (.andi 0 1 2 3, 3), (.ori 0 1 2 3, 3), (.xori 0 1 2 3, 3), (.shli 0 1 2 3, 3), (.shri 0 1 2 3, 3), (.sari 0 1 2 3, 3),
   (.roli 0 1 2 3, 3), (.cmpi 0 1 3, 3), (.movi 0 1 5, 3), (.moviu 0 1 5, 3), (.movh 0 1 5, 3), (.mul 0 1 2 3, 2),
   (.mulw 0 4 2 3, 2), (.mulwu 0 4 2 3, 2), (.mac 0 1 2 3, 2), (.div 0 4 2 3, 2), (.divu 0 4 2 3, 2)]
def controls : List (Instr × Nat) :=
  [(.ld 0 .q (.reg 1) 2, 1), (.ld 0 .w (.idx 1 2) 3, 2), (.ld 0 .ds (.disp 1 2) 3, 3), (.st 0 .q (.reg 1) 2, 1), (.st 0 .d (.idx 1 2) 3, 2),
   (.st 0 .q (.disp 1 2) 3, 3), (.push 0 1, 1), (.pop 0 1, 1), (.bcc 0 false 3 5, 2), (.br 0 true 5, 2), (.bra 0 false 5, 3),
   (.call 0 false 5, 2), (.calla 0 true 5, 3), (.callRegister 0 false 1, 1), (.jmpi 0 true 1, 1), (.ret 0 false, 1), (.repb 0 1 3, 2),
   (.repbi 0 3 3, 2), (.setms 0 1, 1), (.setkr 0 1, 1), (.inp 0 (.imm 0x80) 1, 3), (.inp 0 (.reg 2) 1, 2), (.outp 0 (.imm 0x80) 1, 3),
   (.outp 0 (.reg 2) 1, 2), (.outRsd 0 .imm 1, 3), (.outRsp 0 .imm 1, 3), (.icinv 0 .imm 1, 3), (.outBpctl 0 .imm 1, 3), (.iclaim 0 .imm 1, 3),
   (.mbxData 0 .imm 1, 3), (.tlbiv 0 1 2, 2), (.tlbit 0 2, 2), (.tlbia 0, 2), (.tlbiaF 0, 2), (.tlblk 0 1, 2), (.tlblkI 0 1, 2),
   (.tlbul 0 1, 2), (.tlbulI 0 1, 2), (.skey 0 2 1 2, 2)]
def decimals : List (Instr × Nat) :=
  [(.dld 0 1 2 3 4, 3), (.dst 0 1 2 3 4, 3), (.dadd 0 1 2 3, 2), (.dsub 0 1 2 3, 2), (.dcmp 0 2 3, 2), (.daddc 0 true 1 2 3, 2),
   (.dsubc 0 false 1 2 3, 2), (.dmul 0 4 2 3, 2), (.ddiv 0 4 2 3, 2), (.dshl 0 1 2 3, 2), (.dshr 0 5 1 2 3, 2), (.dcvb 0 true 1 2, 2),
   (.dcvd 0 false 1 2, 2), (.dmac 0 true false true 1 2 3, 2), (.mvs 0, 1), (.mvsp 0, 1), (.trs 0, 1), (.cms 0, 1), (.scs 0, 1), (.scsN 0, 1),
   (.eds 0, 1), (.edsm 0, 1), (.pks 0, 1), (.ups 0, 1)]
def floats : List (Instr × Nat) :=
  [(.fadd 0 1 2 3, 2), (.fsub 0 1 2 3, 2), (.fmul 0 1 2 3, 2), (.fma 0 1 2 3, 2), (.fdiv 0 1 2 3, 2), (.fsqrt 0 1 2, 2), (.fcmp 0 2 3, 2),
   (.fcvti 0 1 2, 2), (.fcvtf 0 1 2, 2), (.frint 0 1 2, 2), (.dqadd 0 1 2 3, 2), (.dqsub 0 1 2 3, 2), (.dqmul 0 1 2 3, 2),
   (.dqdiv 0 1 2 3, 2), (.dqsqrt 0 1 2, 2), (.dqcmp 0 2 3, 2), (.dqfix 0 1 2, 2), (.dqflt 0 1 2, 2), (.dqrint 0 1 2, 2),
   (.dqquant 0 1 2 3, 2), (.dqld 0 1 2, 2), (.dqst 0 1 2, 2), (.vld 0 1 2, 2), (.vst 0 1 2 3, 2), (.vget 0 1 2 3, 2), (.vput 0 1 2 3, 2),
   (.vcas 0 1 2 3, 2), (.find 0 1 2, 2), (.dswap 0 1 2 4, 2), (.post 0 1 2, 2), (.swait 0 1 2, 2)]
/-- Each of them is issued by a core whose pc stands at its words. -/
theorem integers_go : ∀ x ∈ integers, goes (placed runCore x.1) x.1 x.2 = true := by decide +kernel
theorem controls_go : ∀ x ∈ controls, goes (placed runCore x.1) x.1 x.2 = true := by decide +kernel
theorem decimals_go : ∀ x ∈ decimals, goes (placed runCore x.1) x.1 x.2 = true := by decide +kernel
theorem floats_go : ∀ x ∈ floats, goes (placed runCore x.1) x.1 x.2 = true := by decide +kernel
/-- A row whose port is fixed, with the port in a register. -/
theorem register_port_goes :
    let k := placed { runCore with g := runCore.g.set 2 0x220 } (.inp 0 (.reg 2) 1)
    goes k (.mbxData 0 .reg 1) 2 = true ∧ goes k (.iclaim 0 .reg 1) 2 = false := by decide +kernel

/-- A core whose next instruction is in a delay slot. -/
def inSlot : Core := { runCore with pc := 0x12, branch := some ⟨0x30, 0x10, .none, none⟩ }
theorem runs_in_service : goes (placed runCore (.nop 0)) (.nop 0) 1 = true ∧ runCore.branch = none ∧ runCore.sys.mode = true := by decide +kernel
theorem runs_in_tenant : goes (placed tenant (.nop 0)) (.nop 0) 1 = true ∧ tenant.branch = none ∧ tenant.sys.mode = false := by decide +kernel
theorem runs_in_a_slot : goes (placed inSlot (.nop 0)) (.nop 0) 1 = true ∧ inSlot.branch ≠ none := by decide +kernel

/-- Both register forms, the one-word and the three-word forms. -/
theorem witness_AddAndSubtract :
    (∀ x ∈ integers, goes (placed runCore x.1) x.1 x.2 = true)
    ∧ rformLen (.s 1 2) = 1 ∧ rformLen (.w 20 21 22) = 2 ∧ (Instr.add 0 (.s 1 2), 1) ∈ integers ∧ (Instr.add 0 (.w 20 21 22), 2) ∈ integers
    ∧ (Instr.cmp 0 (.s 1 2), 1) ∈ integers ∧ (Instr.cmp 0 (.w 20 21), 2) ∈ integers ∧ (Instr.cmpi 0 1 3, 3) ∈ integers :=
  ⟨integers_go, by decide +kernel⟩
theorem witness_LogicMovesAndShifts :
    (∀ x ∈ integers, goes (placed runCore x.1) x.1 x.2 = true)
    ∧ (Instr.xor 0 (.w 20 21 22), 2) ∈ integers ∧ (Instr.mov 0 (.s 1 2), 1) ∈ integers ∧ (Instr.andi 0 1 2 3, 3) ∈ integers
    ∧ (Instr.movh 0 1 5, 3) ∈ integers ∧ (Instr.sar 0 (.w 20 21 22), 2) ∈ integers ∧ (Instr.roli 0 1 2 3, 3) ∈ integers :=
  ⟨integers_go, by decide +kernel⟩

/-- A core with operands in G1 and G2. -/
def withPair (x y : W64) : Core := { runCore with g := (runCore.g.set 1 x).set 2 y }
/-- An even and an odd d; a divisor of 0; the one overflow and the operands beside it. -/
theorem witness_MultiplyAndDivide :
    (∀ i ∈ [Instr.mul 0 5 1 2, .mac 0 5 1 2, .mulw 0 4 1 2, .mulwu 0 4 1 2, .div 0 4 1 2, .divu 0 4 1 2, .mulw 0 5 1 2, .divu 0 5 1 2],
        goes (placed (withPair 7 0) i) i 2 = true)
    ∧ (4 : GReg).val % 2 = 0 ∧ (5 : GReg).val % 2 = 1 ∧ (withPair 7 0).gr 2 = 0#64
    ∧ (let k := withPair 0x8000000000000000 0xFFFFFFFFFFFFFFFF; (k.gr 1).toInt = -2 ^ 63 ∧ (k.gr 2).toInt = -1)
    ∧ (let k := withPair 0x8000000000000001 0xFFFFFFFFFFFFFFFF
       k.gr 2 ≠ 0#64 ∧ ¬ ((k.gr 1).toInt = -2 ^ 63 ∧ (k.gr 2).toInt = -1)) := by decide +kernel

/-! #### Local memory, the stack, waiting -/

/-- A core with x in G1 and G2. -/
def withBase (k : Core) (x : W64) : Core := { k with g := (k.g.set 1 x).set 2 x }
/-- A valid entry for page 9 of D-space, and its frame. -/
def entry9 : TlbEntry :=
  { vpn := 9, cont := 0, frame := 0x800001, r := true, w := true, x := true, u := true, g := false, mt := 1, tag := 0, key := 3, grd := 0
    locked := false, fill := 0 }
/-- A translated access to va passes its checks through that entry. -/
def Reaches9 (k : Core) (va : BitVec 40) (q : Want) : Prop := ∃ k1, Translates k va q (entry9.pa va) entry9 k1
theorem reaches9 {k : Core} {va : BitVec 40} {q : Want}
    (h : translate k.dtlb k.cxt.tag k.sys.mode k.sys.krr va q = .ok (entry9.pa va) entry9) : Reaches9 k va q := ⟨_, h, rfl⟩
/-- A core with that entry in its data TLB and x in DSP. -/
def stackAt (x : BitVec 40) : Core := { runCore with dtlb := [entry9], dsp := x }

/-- The last quad of the local region in Service mode; the last words of both banks' parts within LRB in Tenant mode. -/
theorem witness_LoadsAndStores :
    (∀ i ∈ [Instr.ld 0 .q (.reg 1) 3, .st 0 .q (.reg 1) 2], let a := placed (withBase runCore 0x7FFC) i
      goes a i 1 = true ∧ addrLen (.reg 1) = 1 ∧ MayTouch a (addrOf a (.reg 1)) 4 ∧ CleanLocal a 0x7FFC 4)
    ∧ (∀ i ∈ [Instr.ld 0 .q (.idx 1 3) 3, .st 0 .q (.idx 1 3) 2], let b := placed (withBase tenant 0xFC) i
      goes b i 2 = true ∧ addrLen (.idx 1 3) = 2 ∧ MayTouch b (addrOf b (.idx 1 3)) 4 ∧ CleanLocal b 0xFC 4)
    ∧ (∀ i ∈ [Instr.ld 0 .ws (.disp 1 0) 3, .st 0 .w (.disp 1 0) 2], let c := placed (withBase tenant 0x407F) i
      goes c i 3 = true ∧ addrLen (.disp 1 0) = 3 ∧ MayTouch c (addrOf c (.disp 1 0)) 1 ∧ CleanLocal c 0x407F 1) := by
  unfold MayTouch CleanLocal; decide +kernel

theorem witness_PlacementAndBound :
    (∀ i ∈ [Instr.ld 0 .q (.reg 1) 3, .st 0 .q (.reg 1) 2], let a := placed (withBase runCore 0x7FFD) i
      goes a i 1 = true ∧ 0x8000 < (addrOf a (.reg 1)).toNat + ldWords .q ∧ 0x8000 < (addrOf a (.reg 1)).toNat + (stWords .q 0).length)
    ∧ (let b := withBase runCore 0x7FFC
       (addrOf b (.reg 1)).toNat + ldWords .q ≤ 0x8000 ∧ b.sys.mode = true ∧ CleanLocal b 0x7FFC 4)
    ∧ (∀ i ∈ [Instr.ld 0 .d (.idx 1 3) 3, .st 0 .d (.idx 1 3) 2], let c := placed (withBase tenant 0xFF) i
       goes c i 2 = true ∧ c.sys.mode = false ∧ (∀ j < 1, c.sys.tenantWord (0xFF + j) = true) ∧ c.sys.tenantWord (0xFF + 1) = false
        ∧ 1 < ldWords .d ∧ 1 < (stWords .d 0).length)
    ∧ (let d := withBase tenant 0x100
       (∀ j < 0, d.sys.tenantWord (0x100 + j) = true) ∧ d.sys.tenantWord (0x100 + 0) = false ∧ 0 < ldWords .w) := by
  unfold CleanLocal; decide +kernel

/-- Local at both ends; in translated D-space in one line, and with 1 and 3 words in the first of two; across 0x8000. -/
theorem witness_StackAndWaiting_stack :
    (∀ i ∈ [Instr.push 0 1, .pop 0 1], let k := placed runCore i
      goes k i 1 = true ∧ MayTouch k (k.dsp - 4#40) 4 ∧ MayTouch k k.dsp 4 ∧ CleanLocal k k.dsp.toNat 4)
    ∧ (∀ x ∈ [0x9004#40, 0x9023, 0x9021], let k := placed (stackAt x) (.push 0 1); let lo := k.dsp - 4#40;
        goes k (.push 0 1) 1 = true ∧ 0x8000 ≤ lo.toNat ∧ lo.toNat + 4 ≤ 2 ^ 40
        ∧ Reaches9 k lo (wantWrite [0#2, 1#2, 3#2]) ∧ k.pushLoad < 7)
    ∧ ((stackAt 0x9004).dsp - 4#40).toNat % 32 ≤ 28
    ∧ ((stackAt 0x9023).dsp - 4#40).toNat % 32 = 32 - 1 ∧ ((stackAt 0x9023).dsp - 4#40).toNat % 4096 ≠ 4096 - 1
    ∧ ((stackAt 0x9021).dsp - 4#40).toNat % 32 = 32 - 3
    ∧ (let k := placed (stackAt 0x901C) (.pop 0 1);
        goes k (.pop 0 1) 1 = true ∧ 0x8000 ≤ k.dsp.toNat ∧ Reaches9 k k.dsp (wantRead [0#2, 1#2, 2#2, 3#2])
        ∧ k.lBusy 1 = false ∧ k.dsp.toNat % 32 ≤ 28)
    ∧ (let k := stackAt 0x8003; (k.dsp - 4#40).toNat < 0x8000 ∧ 0x8000 < (k.dsp - 4#40).toNat + 4)
    ∧ (let k := stackAt 0x7FFD; k.dsp.toNat < 0x8000 ∧ 0x8000 < k.dsp.toNat + 4) := by
  refine ⟨?_, ?_, by decide +kernel, by decide +kernel, by decide +kernel, by decide +kernel,
    ⟨by decide +kernel, by decide +kernel, reaches9 (by decide +kernel), by decide +kernel, by decide +kernel⟩, by decide +kernel, by decide +kernel⟩
  · unfold MayTouch CleanLocal; decide +kernel
  · intro x hx
    simp only [List.mem_cons, List.not_mem_nil, or_false] at hx
    rcases hx with rfl | rfl | rfl <;>
      exact ⟨by decide +kernel, by decide +kernel, by decide +kernel, reaches9 (by decide +kernel), by decide +kernel⟩

/-- A core with one long op, for L5, that has not delivered; a floating one when asked. -/
def waiting (fp : Bool) : Core :=
  { runCore with longs := [⟨.l 5, .calc, 0, none, some (.l 9 false), if fp then some ⟨0, none⟩ else none⟩] }
/-- A core with a VLD under way. -/
def loading : Core := { runCore with longs := [⟨.l 5, .vld 0x800001000, 3, some ⟨0, 0⟩, none, none⟩] }
theorem witness_StackAndWaiting_waits :
    (goes (placed (waiting true) (.fbar 0)) (.fbar 0) 1 = true ∧ (waiting true).longs ≠ [] ∧ ∀ o ∈ (waiting true).longs, o.fp ≠ none)
    ∧ (runCore.longs = [] ∧ runCore.fenceClear = true ∧ runCore.settleFp.fpDue = [])
    ∧ ((∀ o ∈ (waiting false).longs, o.fp = none) ∧ (waiting false).settleFp.fpDue = [])
    ∧ (goes (placed loading (.vfence 0)) (.vfence 0) 1 = true ∧ loading.fenceClear = false) := by decide +kernel

/-! #### Control -/

/-- Flags of which each condition holds or fails. -/
def manyFlags : Fin 4 → Flags
  | 0 => Flags.zero
  | 1 => ⟨true, true, true, true, true⟩
  | 2 => ⟨true, false, false, false, true⟩
  | 3 => ⟨false, false, false, true, false⟩
theorem conditions_hold_and_fail : (∀ n < 16, ∃ i, Taken n (manyFlags i)) ∧ ∀ n < 16, ∃ i, ¬ Taken n (manyFlags i) := by
  constructor <;> intro n h
  all_goals
    iterate 16
      rcases n with _ | n
      · first
        | (refine ⟨0, ?_⟩; simp [Taken, manyFlags, Flags.zero]; done)
        | (refine ⟨1, ?_⟩; simp [Taken, manyFlags]; done)
        | (refine ⟨2, ?_⟩; simp [Taken, manyFlags]; done)
        | (refine ⟨3, ?_⟩; simp [Taken, manyFlags])
    omega
/-- Every condition holds of some flags and fails of others; the slot of a branch at 0 is the word at 2. -/
theorem witness_Branches :
    (∀ i ∈ [Instr.bcc 0 false 3 5, .bcc 0 true 3 5, .br 0 true 5], goes (placed runCore i) i 2 = true)
    ∧ goes (placed runCore (.bra 0 false 5)) (.bra 0 false 5) 3 = true ∧ goes (placed runCore (.jmpi 0 true 1)) (.jmpi 0 true 1) 1 = true
    ∧ runCore.branch = none
    ∧ ((∀ n < 16, ∃ i, Taken n (manyFlags i)) ∧ ∀ n < 16, ∃ i, ¬ Taken n (manyFlags i))
    ∧ SlotEnd (upWith (placed runCore (.bcc 0 false 3 5))) 0 (placed runCore (.bcc 0 false 3 5)) 2 3#32 :=
  ⟨by decide +kernel, by decide +kernel, by decide +kernel, rfl, conditions_hold_and_fail, 0, by decide +kernel, by decide +kernel⟩

/-- A core with n entries in the hardware top of its return stack and RSP at p. -/
def called (n : Nat) (p : BitVec 16) : Core := { runCore with rs := List.replicate n 0x212, rsp := p }
theorem witness_CallsAndReturns :
    (let k := placed (called 15 0x8000) (.callRegister 0 false 1)
     goes k (.callRegister 0 false 1) 1 = true ∧ k.branch = none ∧ k.rs.length < 16 ∧ SlotEnd (upWith k) 0 k 1 2#32)
    ∧ (let k := placed (called 16 0x7C02) (.call 0 true 5)
       goes k (.call 0 true 5) 2 = true ∧ k.rs = List.replicate 15 0x212 ++ [0x212] ∧ k.rs.length = 16 ∧ k.rsp ≠ 0x7C00#16)
    ∧ (let k := placed (called 16 0x7C00) (.calla 0 false 5)
       goes k (.calla 0 false 5) 3 = true ∧ k.rs.length = 16 ∧ k.rsp = 0x7C00#16)
    ∧ (let k := placed (called 1 0x8000) (.ret 0 false); goes k (.ret 0 false) 1 = true ∧ k.rs = 0x212 :: [])
    ∧ ((called 0 0x7FFE).rs = [] ∧ (called 0 0x7FFE).rsp ≠ 0x8000#16 ∧ CleanLocal (called 0 0x7FFE) 0x7FFE 2)
    ∧ ((called 0 0x8000).rs = [] ∧ (called 0 0x8000).rsp = 0x8000#16) :=
  ⟨⟨by decide +kernel, rfl, by decide +kernel, 0, by decide +kernel, by decide +kernel⟩, by decide +kernel, by decide +kernel, by decide +kernel,
    ⟨by decide +kernel, by decide +kernel, by unfold CleanLocal; decide +kernel⟩, by decide +kernel⟩
theorem witness_ReturnStackIsLifo :
    (∃ k1, (called 15 0x8000).rsPush 0x300 = some k1) ∧ (∃ k1, (called 16 0x7C02).rsPush 0x300 = some k1)
    ∧ (called 15 0x8000).rs.length < 16 ∧ (called 16 0x7C02).rs.length = 16 := ⟨⟨_, rfl⟩, ⟨_, rfl⟩, by decide +kernel⟩

theorem witness_SystemCall :
    (let k := placed tenant (.svc 0 5); goes k (.svc 0 5) 1 = true ∧ k.branch = none ∧ k.sys.mode = false)
    ∧ (let k := placed runCore (.sret 0); goes k (.sret 0) 1 = true ∧ k.branch = none ∧ k.sys.mode = true) := by decide +kernel
theorem witness_MachineCheckReturn :
    (let k := placed runCore (.mret 0); goes k (.mret 0) 1 = true ∧ k.branch = none ∧ k.sys.mode = true)
    ∧ (let k := placed tenant (.mret 0); goes k (.mret 0) 1 = true ∧ k.branch = none ∧ k.sys.mode = false)
    ∧ (let k := placed inSlot (.mret 0); goes k (.mret 0) 1 = true ∧ k.branch ≠ none) := by decide +kernel

/-- A core whose X set says that a DSU instruction is to be re-issued: MVS of 4 words, stopped, or delivered. -/
def redoing (st : BitVec 4) (busy : Bool) : Core :=
  placed { runCore with
    sys := { runCore.sys with x := { runCore.sys.x with xrs := true } }
    dk := { runCore.dk with sa := 0x10, sc := 4, da := 0x20, tl := { Tally.zero with st := st } }
    longs := if busy then [⟨.dsu, .dsu 0 false 0 true false none, 0, none, none, none⟩] else [] } (.xret 0)
/-- A body of 16 instructions that do nothing, after a REPB at 0. -/
def repeating : Core :=
  { placed runCore (.repbi 0 3 15) with iram := (placed runCore (.repbi 0 3 15)).iram.write 2 (List.replicate 16 0x0001) }
/-- A body; an X set without a re-issue, and the three with one. -/
theorem witness_RepeatAndExceptionReturn :
    (goes repeating (.repbi 0 3 15) 2 = true ∧ repeating.branch = none ∧ Body (upWith repeating) 0 repeating 16 17#32 18#32 repeating)
    ∧ (let k := placed runCore (.xret 0); goes k (.xret 0) 1 = true ∧ k.branch = none ∧ k.sys.mode = true ∧ k.sys.x.xrs = false)
    ∧ (goes (redoing 1 true) (.xret 0) 1 = true ∧ (redoing 1 true).sys.x.xrs = true ∧ (redoing 1 true).dsuBusy = true)
    ∧ (goes (redoing 0 false) (.xret 0) 1 = true ∧ (redoing 0 false).dsuBusy = false ∧ (redoing 0 false).dk.tl.st ≠ 1#4)
    ∧ (goes (redoing 1 false) (.xret 0) 1 = true ∧ (redoing 1 false).dsuBusy = false ∧ (redoing 1 false).dk.tl.st = 1#4
      ∧ dsuProg ((upWith (redoing 1 false)).quire (coreQuire 0)).image 0 false = some (.unit .mvs)
      ∧ (DsuProg.unit .mvs).check (redoing 1 false) = none) := by
  unfold Body; decide +kernel
theorem witness_StatusWrites :
    (let k := placed runCore (.setms 0 1); goes k (.setms 0 1) 1 = true ∧ k.sys.mode = true)
    ∧ (let k := placed tenant (.setms 0 4)
       goes k (.setms 0 4) 1 = true ∧ k.branch = none ∧ k.sys.mode = false ∧ PrivilegedAt 0 1 (.setms 0 4))
    ∧ (let k := placed tenant (.dswap 0 1 2 3)
       goes k (.dswap 0 1 2 3) 2 = true ∧ k.branch = none ∧ PrivilegedAt 0 2 (.dswap 0 1 2 3)) :=
  ⟨by decide +kernel, ⟨by decide +kernel, rfl, rfl, rfl, rfl⟩, by decide +kernel, rfl, rfl, rfl⟩

/-! #### Ports -/

theorem witness_PortsHoldWhatIsWritten : runCore.inBody = false := by decide +kernel
/-- A core with source 9 pending and the timer's, and a message in its mailbox. -/
def interrupted : Core := { runCore with irq := { runCore.irq with ipnd := 0x200, tpnd := true, tlvl := 5, mbx := [7], men := true } }
theorem witness_ClaimHighestSource :
    (let k := placed runCore (.iclaim 0 .imm 1)
     goes k (.iclaim 0 .imm 1) 3 = true ∧ k.sys.mode = true ∧ pendingSrcs (upWith k) 0 = [])
    ∧ (let k := placed interrupted (.iclaim 0 .imm 1)
       goes k (.iclaim 0 .imm 1) 3 = true ∧ k.sys.mode = true ∧ Highest (pendingSrcs (upWith k) 0) ⟨64, 5⟩) := by
  unfold Highest; decide +kernel
/-- A core with n messages in its mailbox. -/
def mailed (n : Nat) : Core := { runCore with irq := { runCore.irq with mbx := List.replicate n 7 } }
theorem witness_Mailbox :
    (let k := (upWith (mailed 15)).core 0; k.irq.mbx.length < 16 ∧ k.ctl.cks = false ∧ k.ctl.iso = false)
    ∧ 16 ≤ ((upWith (mailed 16)).core 0).irq.mbx.length
    ∧ (let k := placed (mailed 1) (.mbxData 0 .imm 1); goes k (.mbxData 0 .imm 1) 3 = true ∧ k.sys.mode = true ∧ k.irq.mbx = 7 :: [])
    ∧ runCore.irq.mbx = [] := by decide +kernel

/-- An L register that a long op owns; a device port; a full mesh queue; a port that Tenant mode may not read or write. -/
theorem witness_InAndOut :
    (∀ i ∈ [Instr.inp 0 (.imm 0x80) 1, .outp 0 (.imm 0x80) 1], let k := placed runCore i
      goes k i (portLen (.imm 0x80)) = true ∧ PortOpen k 0x80 false ∧ PortOpen k 0x80 true ∧ lPort 0x80 = some 0
      ∧ k.l[(0 : LRegId)].poisoned = false)
    ∧ (let k := placed (waiting false) (.inp 0 (.imm 0x85) 1); goes k (.inp 0 (.imm 0x85) 1) 3 = true ∧ k.portBusy 0x85 = true)
    ∧ (∀ i ∈ [Instr.inp 0 (.imm 0x40) 1, .outp 0 (.imm 0x40) 1], let k := placed tenant i
      goes k i 3 = true ∧ k.sys.mode = false ∧ tenantNoRead 0x40 = true ∧ tenantNoWrite 0x40 = true)
    ∧ (∀ i ∈ [Instr.inp 0 (.reg 1) 3, .outp 0 (.reg 1) 2], let k := placed (withBase runCore 0x700000) i
      goes k i (portLen (.reg 1)) = true ∧ k.sys.mode = true ∧ 0x10000 ≤ (portOf k (.reg 1)).toNat ∧ k.lBusy 3 = false ∧ k.outq.length < 8)
    ∧ 8 ≤ { runCore with outq := List.replicate 8 ⟨0x700000, 1, 0, ⟨0, 0⟩⟩ : Core }.outq.length
    ∧ (let k := placed (called 3 0x7C06) (.outRsd 0 .imm 1)
       goes k (.outRsd 0 .imm 1) 3 = true ∧ k.rs.length ≤ 16 ∧ 0x7C00 + 2 * k.rs.length ≤ k.rsp.toNat) := by
  unfold PortOpen; decide +kernel

/-! #### Translation -/

/-- A core with one entry in each TLB, locked or not. -/
def cachedTlb (locked : Bool) : Core :=
  { runCore with dtlb := [{ entry9 with locked := locked }], itlb := [{ entry9 with mt := 0, locked := locked }], g := runCore.g.set 1 0x9000 }
/-- The device with core 0 waiting for an SKEY of a frame, with WK and WU set. -/
def keying (frame : BitVec 24) : State :=
  upWith { runCore with longs := [⟨.l 2, .skey frame 0x3FF, 1, some ⟨0, 0⟩, none, none⟩] }
theorem witness_TranslationAndKeys :
    (∀ i ∈ [Instr.tlbiv 0 1 2, .tlbit 0 2, .tlbia 0, .tlbiaF 0, .tlblk 0 1, .tlblkI 0 1, .tlbul 0 1, .tlbulI 0 1, .skey 0 2 1 2],
        goes (placed runCore i) i 2 = true ∧ ∀ l, goes (placed (cachedTlb l) i) i 2 = true)
    ∧ (∀ l, tlbFind (cachedTlb l).dtlb (cachedTlb l).cxt.tag (vpnOf 0x9000) = some { entry9 with locked := l }
        ∧ tlbFind (cachedTlb l).itlb (cachedTlb l).cxt.tag (vpnOf 0x9000) = some { entry9 with mt := 0, locked := l })
    ∧ ((cachedTlb false).dtlb.filter (·.locked)).length < 8 ∧ 8 ≤ ((List.replicate 8 { entry9 with locked := true }).filter (·.locked)).length
    ∧ (BitVec.ofNat 40 ((withBase runCore 0x7FFF).gr 1).toNat).toNat < 0x8000
    ∧ (BitVec.ofNat 40 (((withBase runCore 0x1FFF).gr 1).toNat % 2 ^ 32)).toNat < 0x2000
    ∧ runCore.lBusy 2 = false
    ∧ (∃ o, ((keying 0x800010).core 0).long? (.l 2) = some o ∧ o.op = .skey 0x800010 0x3FF ∧ o.res = none)
    ∧ (keying 0x800010).spineRuns = true ∧ keyedFrame (keying 0x800010).part 0x800010 = true ∧ (keying 0x800010).keyMark.get (0x800010 / 8) = 0#1
    ∧ keyedFrame (keying 0).part 0xFFFFFF = false :=
  ⟨by decide +kernel, by decide +kernel, by decide +kernel, by decide +kernel, by decide +kernel, by decide +kernel, by decide +kernel,
    ⟨_, rfl, rfl, rfl⟩, by decide +kernel⟩

/-! #### Decimal, strings, floating point -/

/-- A fixed-decimal accumulator with these digits. -/
def fixedOf (neg : Bool) (dig : BitVec 136) : Acc := { Acc.zero with sign := neg, dig := dig }
/-- A core with −125 in A0, 37 in A1, and 3 in G1. -/
def withDecimals : Core :=
  { runCore with a := (runCore.a.set 0 (fixedOf true 0x125)).set 1 (fixedOf false 0x37), g := runCore.g.set 1 3 }
theorem witness_DecimalSums :
    (∀ i ∈ [Instr.dadd 0 2 0 1, .dsub 0 2 0 1, .dcmp 0 0 1, .daddc 0 true 2 0 1, .dsubc 0 false 2 0 1], goes (placed withDecimals i) i 2 = true)
    ∧ ReadsFixed withDecimals 0 true 125 ∧ ReadsFixed withDecimals 1 false 37
    ∧ ReadsFixed withDecimals 2 false 0 ∧ Free withDecimals [0, 1, 2] := by
  unfold ReadsFixed Free; decide +kernel
theorem witness_DecimalProductsAndShifts :
    (∀ i ∈ [Instr.dmul 0 4 0 1, .ddiv 0 4 0 1, .dmul 0 3 0 1, .dshl 0 4 0 1, .dshr 0 5 4 0 1], goes (placed withDecimals i) i 2 = true)
    ∧ (3 : AReg).val % 2 = 1 ∧ (4 : AReg).val % 2 = 0 ∧ (37 ≠ 0 ∧ ReadsFixed withDecimals 1 false 37)
    ∧ ReadsFixed withDecimals 2 false 0 ∧ Free withDecimals [0, 1, 4, nextAcc 4] ∧ (0 : BitVec 3) ≠ 7#3
    ∧ (withDecimals.gr 2).toNat % 256 = 0 ∧ 1 ≤ (withDecimals.gr 1).toNat % 256 := by
  unfold ReadsFixed Free; decide +kernel

/-- A core with the field +125,000,000 of R123 at 0x100 and −7 at 0x4100, in G1 and G2 their addresses, and −125 in A0. -/
def withFields : Core :=
  { withDecimals with
    g := (runCore.g.set 1 0x100).set 2 0x4100
    loc := (runCore.loc.write 0x100 [0x0000, 0x0012, 0x5000, 0x000C]).write 0x4100 [0x0000, 0x0000, 0x0000, 0x007D] }
theorem witness_DecimalFieldsAndConversions :
    (∀ i ∈ [Instr.dld 0 4 1 0 3, .dst 0 0 1 0 3], goes (placed withFields i) i 3 = true)
    ∧ (∀ i ∈ [Instr.dcvb 0 true 3 0, .dcvd 0 false 4 1, .dmac 0 false false true 5 1 2], goes (placed withFields i) i 2 = true)
    ∧ Free withFields [0] ∧ MayTouch withFields 0x100 4 ∧ MayTouch withFields 0x4100 4 ∧ CleanLocal withFields 0x100 4
    ∧ CleanLocal withFields 0x4100 4 ∧ IsDecField (localWords withFields 0x100 4) false 125000000
    ∧ IsDecField (localWords withFields 0x4100 4) true 7 ∧ ReadsFixed withFields 0 true 125 := by
  unfold Free MayTouch CleanLocal IsDecField ReadsFixed; decide +kernel

/-- A core with a deckle group: n units from sa to da. -/
def decked (sa da : BitVec 15) (n : BitVec 32) : Core := { runCore with dk := { runCore.dk with sa := sa, da := da, sc := n, dc := n } }
/-- A core with a DSU instruction under way. -/
def stringing (stop : Bool) : Core :=
  { decked 0x100 0x200 4 with longs := [⟨.dsu, .dsu 4 true 0x10 true stop none, 0, none, none, none⟩] }
theorem witness_StringInstructions :
    (let k := placed (decked 0x7FFC 0x10 4) (.mvs 0); goes k (.mvs 0) 1 = true ∧ k.dsuBusy = false ∧ dsuCheck k .mvs = none)
    ∧ (let k := placed (decked 0x7FFD 0x10 4) (.mvs 0); goes k (.mvs 0) 1 = true ∧ dsuCheck k .mvs = some (0x03, 0x8000))
    ∧ (let k := placed (stringing false) (.scsN 0); goes k (.scsN 0) 1 = true ∧ k.dsuBusy = true)
    ∧ (∃ o, ((upWith (stringing true)).core 0).long? .dsu = some o ∧ o.op = .dsu 4 true 0x10 true true none) ∧ dsuOpOf 4 = some .scs
    ∧ (stringing true).ctl.cks = false :=
  ⟨by decide +kernel, by decide +kernel, by decide +kernel, ⟨_, rfl, rfl⟩, rfl, rfl⟩
/-- Apart, overlapping upward, one word above, and empty. -/
theorem witness_MoveAndCompareStrings_move :
    (∀ a b n j, (decked a b n).locBad.get j = 0#1) ∧ (∀ a b n, (decked a b n).dk.dc = (decked a b n).dk.sc)
    ∧ (∀ x, x = (0x100#15, 0x200#15, 4#32) ∨ x = (0x104, 0x100, 8) ∨ x = (0x100, 0x101, 5) ∨ x = (0x7FFF, 0, 0) →
      let k := decked x.1 x.2.1 x.2.2; let n := k.dk.sc.toNat; let sa := k.dk.sa.toNat; let da := k.dk.da.toNat
      sa + n ≤ 0x8000 ∧ da + n ≤ 0x8000 ∧ n ≤ 8 ∧ (da ≤ sa ∨ sa + n ≤ da ∨ da = sa + 1)) := by
  refine ⟨fun a b n j => rfl, fun a b n => rfl, ?_⟩
  rintro x (rfl | rfl | rfl | rfl) <;> decide +kernel
/-- Two ranges that agree in units 0 and 1 and differ at unit 2. -/
theorem witness_MoveAndCompareStrings_compare :
    let k := { decked 0x100 0x200 4 with loc := (Core.reset.loc.write 0x100 [1, 2, 3, 4]).write 0x200 [1, 2, 9, 4] }
    k.loc.get 0x100 = k.loc.get 0x200 ∧ k.loc.get 0x101 = k.loc.get 0x201 ∧ k.loc.get 0x102 ≠ k.loc.get 0x202 := by decide +kernel

theorem witness_Binary64 :
    (∀ x ∈ floats, goes (placed runCore x.1) x.1 x.2 = true) ∧ runCore.lBusy 0 = false ∧ BVal.qnan ≠ .snan ∧ (0 : Nat) < 1 :=
  ⟨floats_go, by decide +kernel, by decide, by decide⟩
/-- The decimal128 accumulator 125 with an exponent. -/
def longOf (e : BitVec 16) : Acc := { Acc.zero with tag := 1, dig := 0x125, exp := e }
/-- −125 and 37 as they read as decimal128; an area of 8 words; the least and the greatest exponent. -/
theorem witness_Decimal128_sources :
    (∀ i ∈ [Instr.dqadd 0 2 0 1, .dqmul 0 2 0 1, .dqquant 0 2 0 1, .dqfix 0 2 0], goes (placed withDecimals i) i 2 = true)
    ∧ Free withDecimals [0, 1, 2]
    ∧ (withDecimals.ac 0).dval = some (.fin true 125 0) ∧ (withDecimals.ac 1).dval = some (.fin false 37 0) := by
  unfold Free; decide +kernel
theorem witness_Decimal128_memory :
    (∀ i ∈ [Instr.dqld 0 1 1, .dqst 0 0 1], goes (placed withFields i) i 2 = true) ∧ MayTouch withFields 0x100 8 ∧ CleanLocal withFields 0x100 8
    ∧ (withFields.ac 0).dval ≠ none := by unfold MayTouch CleanLocal; decide +kernel
theorem witness_Decimal128_encoding :
    (longOf 0).tag = 1#7 ∧ bcdOk 34 (longOf 0).dig.toNat = true
    ∧ (longOf 0xE7E0).exp.toInt = -6176 ∧ (longOf 0x17DF).exp.toInt = 6111 := by
  refine ⟨rfl, by decide +kernel, ?_, ?_⟩ <;> simp [longOf, BitVec.toInt]

/-! #### The Vat, postings and deliveries: the records of the worked example of spec/08_vat_records_posting.md -/

/-- Entries for the pages of records A and B. -/
def entryA : TlbEntry := { entry9 with vpn := 0x100000, frame := 0x800020, key := 0, fill := 1 }
def entryB : TlbEntry := { entry9 with vpn := 0x100011, frame := 0x800031, key := 0, fill := 2 }
/-- The words of the first descriptor. -/
def desc1 : List W16 :=
  [0x0000, 0x0001, 0x0000, 0x0400, 0x0000, 0x0001, 0x0001, 0x1C40, 0x0000, 0x0000, 0x0025, 0x000C, 0x0000, 0x0000, 0x00A1, 0x0F33,
   0x0C08, 0x0010, 0x0018, 0x0000]
/-- The core that posts, with the descriptor at 0x600. -/
def poster : Core := { runCore with dtlb := [entryA, entryB], g := runCore.g.set 4 0x600, loc := runCore.loc.write 0x600 desc1 }
/-- The lines of the balances, as the posting reads them once it has locked them. -/
def lineOfA : List W16 := List.replicate 8 0 ++ [0, 0, 0x0120, 0x000C, 0, 0, 0x0050, 0x000D] ++ List.replicate 16 0
def lineOfB : List W16 := List.replicate 16 0 ++ [0, 0, 0x0007, 0x530C] ++ List.replicate 12 0
/-- The posting, at a phase. -/
def posted (ph : PostPhase) : Posting :=
  let lines : List W16 × List W16 := match ph with | .issued => ([], []) | .lockedLo => (lineOfA, []) | _ => (lineOfA, lineOfB)
  { id := 0, core := 0, l := 2, paA := 0x800020408, paB := 0x800031C50, limit := 0x80002040C, n := 4, od := false, jc := 0
    amt := [0, 0, 0x0025, 0x000C], pid := [0, 0, 0x00A1, 0x0F33], ridA := 0x40001020, ridB := 0x400018E2, krr := 0xFFFFFFFF
    mode := true, psf := false, zsk := false, stamp := 5, entry := some ⟨0, 0⟩, phase := ph, wsLo := lines.1, wsHi := lines.2
    bad := false, newA := [], newB := [] }
/-- The device with the records in the Vat and that posting in flight. -/
def booked (ph : PostPhase) (locks : List (Nat × Nat)) : State :=
  { upWith { poster with longs := [⟨.l 2, .post 0, 5, none, none, none⟩] } with
    phys := ((State.reset.phys.write 0x800020408 [0, 0, 0x0120, 0x000C]).write 0x80002040C [0, 0, 0x0050, 0x000D]).write 0x800031C50
      [0, 0, 0x0007, 0x530C]
    jnl := { Journal.reset with pen := true, next := 0x317A40, repl := 0x317A3F, hbm := 0x317A3F, host := 0x317A3F, dur := 0x317A3F }
    posts := [posted ph], nextPost := 1, locks := locks }

theorem translates_A : Translates poster 0x0100000408 wantLeg 0x800020408 entryA { poster with dtlb := [entryA, entryB] } :=
  ⟨by decide +kernel, by decide +kernel⟩
theorem translates_B : Translates poster 0x0100011C50 wantLeg 0x800031C50 entryB { poster with dtlb := [entryB, entryA] } :=
  ⟨by decide +kernel, by decide +kernel⟩

/-- Addresses for each kind of access, aligned and not, and an empty and a taken L register. -/
def accessing (x : W64) : Core :=
  { runCore with dtlb := [entry9], g := (runCore.g.set 1 x).set 2 0x100, dir := ⟨7, 0, 1, 2⟩ }
theorem witness_VatInstructions :
    ((∀ i ∈ [Instr.vld 0 0 1, .vst 0 0 1 2, .vcas 0 0 1 2], goes (placed (accessing 0x9004) i) i 2 = true)
      ∧ (∀ i ∈ [Instr.vget 0 0 1 2, .vput 0 0 1 2], goes (placed (accessing 0x9020) i) i 2 = true)
      ∧ (∀ i ∈ [Instr.find 0 0 1, .dswap 0 0 1 2], goes (placed (accessing 0x200) i) i 2 = true)
      ∧ (accessing 0x9004).lBusy 0 = false)
    ∧ (Reaches9 (accessing 0x9004) 0x9004 (wantRead [0#2, 1#2, 2#2, 3#2]) ∧ Reaches9 (accessing 0x9004) 0x9004 (wantWrite [0#2, 1#2, 3#2])
      ∧ Reaches9 (accessing 0x9004) 0x9004 (wantBoth [0#2, 1#2]) ∧ (0x9004 : Nat) % 4 = 0 ∧ (2 : GReg).val % 2 = 0)
    ∧ (Reaches9 (accessing 0x9020) 0x9020 (wantRead [0#2, 1#2, 2#2]) ∧ Reaches9 (accessing 0x9020) 0x9020 (wantWrite [0#2, 1#2])
      ∧ (0x9020 : Nat) % 32 = 0 ∧ MayTouch (accessing 0x9020) 0x100 32 ∧ CleanLocal (accessing 0x9020) 0x100 32)
    ∧ (0x9001 : Nat) % 4 ≠ 0 ∧ (0x9004 : Nat) % 32 ≠ 0 ∧ (0x7FFF : Nat) < 0x8000
    ∧ (let k := accessing 0x200
       k.sys.mode = true ∧ MayTouch k 0x200 16 ∧ CleanLocal k 0x200 16 ∧ k.dir.enabled = true ∧ (k.gr 2).toNat / 4 % 2 ^ 18 < k.dir.buckets) :=
  ⟨by decide +kernel,
    ⟨reaches9 (by decide +kernel), reaches9 (by decide +kernel), reaches9 (by decide +kernel), by decide, by decide⟩,
    ⟨reaches9 (by decide +kernel), reaches9 (by decide +kernel), by decide, by unfold MayTouch; decide +kernel,
      by unfold CleanLocal; decide +kernel⟩, by decide, by decide, by decide,
    ⟨by decide +kernel, by unfold MayTouch; decide +kernel, by unfold CleanLocal; decide +kernel, by decide +kernel, by decide +kernel⟩⟩

/-- The device with core 0 waiting in L2 for an operation; its stamp is 5. -/
def serving (op : LOp) : State := upWith { runCore with longs := [⟨.l 2, op, 5, some ⟨0, 0⟩, none, none⟩] }
theorem turn_of (op : LOp) (pa : Nat) (h : (serving op).blocked ⟨0, srcCore 0, 0, 5⟩ (lineOf pa) = false) : Turn (serving op) 0 2 op pa :=
  ⟨_, rfl, rfl, rfl, ⟨0, 0⟩, rfl, h⟩
theorem witness_VatAndDirectory_post :
    goes (placed poster (.post 0 2 4)) (.post 0 2 4) 2 = true ∧ poster.lBusy 2 = false ∧ MayTouch poster 0x600 20 ∧ CleanLocal poster 0x600 20
    ∧ (∀ i < 20, poster.locOne.get ((0x600 + i) / 4) = 0#1) ∧ (∀ x ∈ poster.sbuf, x.isLoc = false)
    ∧ 0x8000 ≤ ((postDesc desc1).ra.setWidth 40 + BitVec.ofNat 40 (postDesc desc1).oa).toNat
    ∧ 0x8000 ≤ ((postDesc desc1).rb.setWidth 40 + BitVec.ofNat 40 (postDesc desc1).ob).toNat ∧ localWords poster 0x600 20 = desc1 ∧ postBadWord desc1 = none
    ∧ fieldBad ((desc1.drop 8).take 4) = none
    ∧ (Translates poster ((postDesc desc1).ra.setWidth 40 + BitVec.ofNat 40 (postDesc desc1).oa) wantLeg 0x800020408 entryA
        { poster with dtlb := [entryA, entryB] })
    ∧ (Translates { poster with dtlb := [entryA, entryB] } ((postDesc desc1).rb.setWidth 40 + BitVec.ofNat 40 (postDesc desc1).ob) wantLeg
        0x800031C50 entryB { poster with dtlb := [entryB, entryA] })
    ∧ entryA.mt = 1#2 ∧ entryB.mt = 1#2 ∧ runsMeet 0x800020408 0x800031C50 (postDesc desc1).n = false :=
  ⟨by decide +kernel, by decide +kernel, by unfold MayTouch; decide +kernel, by unfold CleanLocal; decide +kernel, by decide +kernel,
    by decide +kernel, by decide +kernel, by decide +kernel, by decide +kernel, by decide +kernel, by decide +kernel, translates_A, translates_B, rfl, rfl, by decide +kernel⟩
theorem witness_VatAndDirectory_serves :
    (serving .calc).hbm.injArm = false
    ∧ (Turn (serving (.vld 0x800001000)) 0 2 (.vld 0x800001000) 0x800001000 ∧ CleanMem (serving (.vld 0x800001000)) 0x800001000 4)
    ∧ (Turn (serving (.vget 0x800001020 0x100)) 0 2 (.vget 0x800001020 0x100) 0x800001020
      ∧ CleanMem (serving (.vget 0x800001020 0x100)) 0x800001020 32)
    ∧ Turn (serving (.vst 0x800001000 7)) 0 2 (.vst 0x800001000 7) 0x800001000
    ∧ Turn (serving (.vput 0x800001020 (List.replicate 32 1))) 0 2 (.vput 0x800001020 (List.replicate 32 1)) 0x800001020
    ∧ Turn (serving (.vcas 0x800001000 0 9)) 0 2 (.vcas 0x800001000 0 9) 0x800001000
    ∧ Turn (serving (.dswap 0x800001008 (List.replicate 16 0) 0x200)) 0 2 (.dswap 0x800001008 (List.replicate 16 0) 0x200) 0x800001008
    ∧ CleanMem (serving .calc) (lineOf 0x800001008 * 32) 32 ∧ (runCore.storesBefore 5 = true)
    ∧ (∃ o, ((serving (.find 77 ⟨7, 0, 1, 2⟩ none none false)).core 0).long? (.l 2) = some o ∧ o.op = .find 77 ⟨7, 0, 1, 2⟩ none none false
        ∧ o.res = none ∧ o.entry = some ⟨0, 0⟩)
    ∧ (let d : DirCfg := ⟨7, 0, 1, 2⟩; let s := serving (.find 77 d none none false)
       d.enabled = true ∧ ∀ b ∈ [(d.choices 77).1, (d.choices 77).2],
         s.blocked ⟨0, srcCore 0, 0, 5⟩ (lineOf (d.bucketPa b)) = false ∧ CleanMem s (d.bucketPa b) 32)
    ∧ (DirCfg.zero.enabled = false ∧ (serving .calc).spineRuns = true) :=
  ⟨by decide +kernel, ⟨turn_of _ _ (by decide +kernel), by unfold CleanMem; decide +kernel⟩,
    ⟨turn_of _ _ (by decide +kernel), by unfold CleanMem; decide +kernel⟩, turn_of _ _ (by decide +kernel), turn_of _ _ (by decide +kernel),
    turn_of _ _ (by decide +kernel), turn_of _ _ (by decide +kernel), by unfold CleanMem; decide +kernel, by decide +kernel,
    ⟨_, rfl, rfl, rfl, rfl⟩, by unfold CleanMem; decide +kernel, by decide +kernel⟩

theorem witness_PostingConservesMoney :
    let p := posted .lockedHi; let a : List W16 := [0, 0, 0x0120, 0x000C]; let b : List W16 := [0, 0, 0x0007, 0x530C]
    let l : List W16 := [0, 0, 0x0050, 0x000D]
    1 ≤ p.n ∧ p.n ≤ 8 ∧ a.length = p.n ∧ b.length = p.n ∧ l.length = p.n
    ∧ postCompute p a b l = .ok ([0, 0, 0x0095, 0x000C], [0, 0, 0x0032, 0x530C]) :=
  ⟨by decide, by decide, rfl, rfl, rfl, by rfl⟩
/-- Each phase of the example; a journal that is full, a refusal, and stopped postings. -/
theorem witness_PostingAndDelivery_posts :
    (let s := booked .issued []; let p := posted .issued
     s.post? 0 = some p ∧ s.spineRuns = true ∧ p.phase = .issued ∧ p.entry ≠ none ∧ postingsStopped s = false
     ∧ regionOf s.part p.paA ≠ .absent ∧ regionOf s.part p.paB ≠ .absent ∧ canLock s p p.lo = true
     ∧ postingsStopped { s with jnl := { s.jnl with pf := true } } = true)
    ∧ (let s := booked .lockedLo [(0x40001020, 0)]; let p := posted .lockedLo
       s.post? 0 = some p ∧ p.phase = .lockedLo ∧ p.twoLines = true ∧ canLock s p p.hi = true)
    ∧ (let s := booked .lockedHi [(0x40001020, 0), (0x400018E2, 0)]; let p := posted .lockedHi
       s.post? 0 = some p ∧ p.phase = .lockedHi ∧ p.bad = false ∧ s.hbmShut (p.hi * 32) = false ∧ p.wsLo = s.phys.read (p.lo * 32) 32 ∧ p.wsHi = s.phys.read (p.hi * 32) 32 ∧ FitsLines p ∧ legKey s p p.paA = (s, true) ∧ legKey s p p.paB = (s, true)
       ∧ s.jnl.held < 65536 ∧ 65536 ≤ { s.jnl with next := s.jnl.dur + 65537#64 : Journal }.held)
    ∧ (CleanMem (booked .lockedHi []) ((posted .lockedHi).lo * 32) 32 ∧ CleanMem (booked .lockedHi []) ((posted .lockedHi).hi * 32) 32)
    ∧ ((booked (.closed 0 0x317A40) []).post? 0 = some (posted (.closed 0 0x317A40)))
    ∧ ((booked .released []).post? 0 = some (posted .released)) := by
  refine ⟨⟨rfl, rfl, rfl, by decide +kernel, by decide +kernel, by decide +kernel, by decide +kernel, by decide +kernel, by decide +kernel⟩,
    ⟨rfl, rfl, by decide +kernel, by decide +kernel⟩,
    ⟨rfl, rfl, rfl, by decide +kernel, by decide +kernel, by decide +kernel, by unfold FitsLines; decide +kernel, rfl, rfl, by decide +kernel, by decide +kernel⟩, ⟨?_, ?_⟩, rfl, rfl⟩ <;>
    unfold CleanMem <;> decide +kernel

/-- The device with core 0 having a long op whose result is known. -/
def delivering (d : LDest) (op : LOp) (r : Option LRes) : State := upWith { runCore with longs := [⟨d, op, 5, some ⟨0, 0⟩, r, none⟩] }
theorem witness_PostingAndDelivery_delivers :
    (runCore.discards = false ∧ runCore.ctl.gated = false ∧ (delivering (.l 3) .calc none).spineRuns = true)
    ∧ (∃ o, ((delivering (.l 3) .calc (some (.l 9 false))).core 0).long? (.l 3) = some o ∧ o.res = some (.l 9 false) ∧ o.op = .calc)
    ∧ (∃ o, ((delivering (.a 2) .calc (some (.a1 Acc.zero))).core 0).long? (.a 2) = some o ∧ o.res = some (.a1 Acc.zero))
    ∧ (∃ o, ((delivering (.a 2) .calc (some (.a2 Acc.zero Acc.zero))).core 0).long? (.a 2) = some o ∧ o.res = some (.a2 Acc.zero Acc.zero))
    ∧ (∃ o, ((delivering (.l 3) (.vget 0x800001020 0x7FE0) (some (.line 0 (List.replicate 32 1) []))).core 0).long? (.l 3) = some o
        ∧ o.op = .vget 0x800001020 0x7FE0 ∧ o.res = some (.line 0 (List.replicate 32 1) []))
    ∧ (∃ o, ((delivering (.l 3) (.dswap 0x800001008 [] 0x200) (some (.slot 1 (some (List.replicate 8 2))))).core 0).long? (.l 3) = some o
        ∧ o.op = .dswap 0x800001008 [] 0x200 ∧ o.res = some (.slot 1 (some (List.replicate 8 2))))
    ∧ (∃ o v rest, (let k := ((delivering (.l 3) (.swait 1) none).setCore 0 { (delivering (.l 3) (.swait 1) none).core 0 with
          win := runCore.win.set 1 { Window.zero with en := true, queue := [0x0003004100105000] } }).core 0
        k.firstSwait 1 = some o ∧ o.dest = .l 3 ∧ o.res = none ∧ k.win[(1 : WinId)].queue = v :: rest)) :=
  ⟨by decide +kernel, ⟨_, rfl, rfl, rfl⟩, ⟨_, rfl, rfl⟩, ⟨_, rfl, rfl⟩, ⟨_, rfl, rfl, rfl⟩, ⟨_, rfl, rfl, rfl⟩, ⟨_, _, _, rfl, rfl, rfl, rfl⟩⟩

/-! #### A core's events, customer instructions, entries, the warden -/

/-- The device with three tables in the Vat that map page 9 for core 0, which waits for a walk of its address. -/
def walking (v : Bool) (e1 : W64) : State :=
  { upWith { runCore with cxt := ⟨0x800000, 7, v⟩, ctl := { runCore.ctl with need := some (.data, 0x9004) } } with
    phys := ((State.reset.phys.write 0x800000000 (wordsOf e1)).write 0x800001000 (wordsOf 0x0000008000020001)).write 0x800002024
      (wordsOf 0x00000080000300BF) }
theorem witness_CoreMemoryAndDevices_walks :
    (let s := walking true 0x0000008000010001
     WalkDue s 0 .data 0x9004 ∧ (s.core 0).cxt.v = true
     ∧ TableEntry s 0 (s.core 0).cxt.root 0 0x0000008000010001 ∧ Points 0x0000008000010001 0x800001
     ∧ TableEntry s 0 0x800001 0 0x0000008000020001 ∧ Points 0x0000008000020001 0x800002
     ∧ TableEntry s 0 0x800002 9 0x00000080000300BF ∧ IsLeaf s 0x00000080000300BF 0x800003)
    ∧ (let s := walking false 0; WalkDue s 0 .data 0x9004 ∧ s.canTake 0 = true ∧ (s.core 0).cxt.v = false)
    ∧ (let s := walking true 0; WalkDue s 0 .data 0x9004 ∧ s.canTake 0 = true ∧ TableEntry s 0 (s.core 0).cxt.root 0 0 ∧ (0 : W64).getLsbD 0 = false) := by
  unfold WalkDue TableEntry Points IsLeaf CleanMem
  dsimp only
  and_intros <;> decide +kernel

/-- The device with its stack ready, and core 0 able to fetch page 9 from HBM. -/
def fetching : State :=
  { upWith { runCore with pc := 0x9004, itlb := [{ entry9 with frame := 0x10, mt := 0 }] } with hbm := { Hbm.reset with rdy := true } }
/-- A core with one store of each kind at the front of its buffer. -/
def draining (e : SbEntry) : State := upWith { runCore with sbuf := [.loc 0x20 [1], e, .loc 0x21 [2]] }
/-- The device with core 0 waiting for an IN from a device port. -/
def inFrom (p : BitVec 24) : State := upWith { runCore with longs := [⟨.l 2, .devIn p, 5, some ⟨0, 0⟩, none, none⟩] }
/-- The same, with quire 0's warden failed. -/
def failedIn (p : BitVec 24) : State := (inFrom p).setQuire 0 { Quire.reset with failed := true }
/-- The device with core 0 having an OUT in its mesh queue. -/
def outTo (p : BitVec 24) : State := upWith { runCore with outq := [⟨p, 7, 5, ⟨0, 0⟩⟩] }
theorem witness_CoreMemoryAndDevices :
    ((∀ e, ((draining e).core 0).sbuf = [.loc 0x20 [1]] ++ e :: [.loc 0x21 [2]]) ∧ ∀ e ∈ [SbEntry.loc 0x20 [1]], e.isLoc = true)
    ∧ (let s := fetching; let k := s.core 0
       s.runs 0 = true ∧ 0x2000 ≤ (0x9004#32).toNat
       ∧ translate k.itlb k.cxt.tag k.sys.mode k.sys.krr (BitVec.ofNat 40 0x9004) fetchWant = .ok 0x10004 { entry9 with frame := 0x10, mt := 0 }
       ∧ s.mustWait (srcCore 0) 0x10004 = false ∧ k.icache = [])
    ∧ CleanMem fetching (0x10004 / 32 * 32) 32
    ∧ (∃ o, ((inFrom 0x700000).core 0).long? (.l 2) = some o ∧ o.op = .devIn 0x700000 ∧ o.res = none
        ∧ (inFrom 0x700000).spineRuns = true ∧ o.entry = some ⟨0, 0⟩
        ∧ olderAccess (inFrom 0x700000) ⟨0, srcCore 0, 0, o.stamp⟩ (blockOf 0x700000) = false)
    ∧ failedBlock (inFrom 0x700000) 0x700000 = none ∧ (∃ r, devPort 0x700000 = some r) ∧ devPort 0x7000FF = none
    ∧ failedBlock (failedIn 0x100000) 0x100000 = some 0
    ∧ (let s := outTo 0x300000
       (s.core 0).outq = ⟨0x300000, 7, 5, ⟨0, 0⟩⟩ :: [] ∧ s.spineRuns = true ∧ olderAccess s ⟨0, srcCore 0, 0, 5⟩ (blockOf 0x300000) = false ∧ failedBlock s 0x300000 = none) :=
  ⟨⟨fun _ => rfl, by decide⟩, by decide +kernel, by unfold CleanMem; decide +kernel, ⟨_, rfl, rfl, rfl, rfl, rfl, by decide +kernel⟩, by decide +kernel, ⟨_, rfl⟩,
    by decide +kernel, by decide +kernel, by decide +kernel⟩

/-- A device whose opcode 0xE0 adds two registers by one microword, with FLW as given, and core 0 in a mode, at these words. -/
def custom (flw : Nat) (priv mode : Bool) (ws : List W16) : State :=
  let g : Image := { Image.empty with
    dispatch := [(0xE0, BitVec.ofNat 24 (2 * 2 ^ 12 + 2 * 2 ^ 14 + if priv then 2 ^ 17 else 0))]
    micro := [(0, 0x800000)], nano := [(0, BitVec.ofNat 112 (2 + 3 * 2 ^ 5 + 2 ^ 10 + 2 ^ 16 + flw * 2 ^ 21))] }
  let bits := parityBits 1 0xE0 (g.word 1 0xE0) ++ parityBits 2 0 (g.word 2 0) ++ parityBits 3 0 (g.word 3 0)
  { upWith { (if mode then runCore else tenant) with iram := Cells.write [] 0 ws } with
    quires := State.reset.quires.set 0 { Quire.reset with image := { g with parity := bits.foldl (fun m x => m.set x.1 x.2) [] } } }
/-- The same, with these parity bits. -/
def withParity (s : State) (bits : Cells 1) : State :=
  s.setQuire 0 { s.quire 0 with image := { (s.quire 0).image with parity := bits } }
/-- Opcode 0xE1 has no entry. The words name G5, G1 and G2. -/
theorem witness_CustomerInstruction :
    issuesNow (custom 0 false true [0xE100]) (.customerInstruction 0 0xE100 0 0) 1 = true
    ∧ issuesNow (custom 0 false true [0xE000, 0x2844]) (.customerInstruction 0 0xE000 0x2844 0) 2 = true
    ∧ issuesNow (custom 0 false true [0xE000, 0x2845]) (.customerInstruction 0 0xE000 0x2845 0) 2 = true
    ∧ issuesNow (custom 0 true false [0xE000, 0x2844]) (.customerInstruction 0 0xE000 0x2844 0) 2 = true
    ∧ (let s := custom 0 false true [0xE000, 0x2844]; let g := (s.quire (coreQuire 0)).image
       (g.entry 0xE1).toNat / 2 ^ 12 % 4 = 0 ∧ (g.entry 0xE0).toNat / 2 ^ 12 % 4 = 2 ∧ (g.entry 0xE0).toNat / 2 ^ 14 % 8 = 2
       ∧ (g.entry 0xE0).toNat / 2 ^ 17 % 2 = 0 ∧ (g.micro.get ((g.entry 0xE0).toNat % 2 ^ 12)).toNat / 2 ^ 21 = 4
       ∧ (let n := nanoOf (g.nano.get 0)
          n.asel = 2 ∧ n.bsel = 3 ∧ n.dst = 1 ∧ n.mem = 0 ∧ n.long = 0 ∧ n.dec = 0 ∧ n.fp = 0 ∧ n.port = 0 ∧ n.flw = 0 ∧ n.alu = 0x01))
    ∧ (let s := withParity (custom 0 false true [0xE000, 0x2844]) []; let g := (s.quire (coreQuire 0)).image
       issuesNow s (.customerInstruction 0 0xE000 0x2844 0) 2 = true ∧ (g.parityOk 2 0 && g.parityOk 3 0) = false)
    ∧ (let s := withParity (custom 0 true true [0xE000, 0x2844]) []
       s.canIssue 0 = true ∧ Fetches s 0 [0xE000, 0x2844] (s.core 0) ∧ ¬ DispatchReads s 0 [0xE000, 0x2844]
       ∧ spells 0 (s.core 0) [0xE000, 0x2844] (.customerInstruction 0 0xE000 0x2844 0) = true)
    ∧ (let s := withParity (upWith (placed runCore (.nop 0))) [(0, 1)]; let ws := encodeInstr (.nop 0)
       s.canIssue 0 = true ∧ Fetches s 0 ws (s.core 0) ∧ ¬ DispatchReads s 0 ws ∧ spells 0 (s.core 0) ws (.nop 0) = true)
    ∧ NanoResult 0x01 3 4 7 ∧ (0x2844 : W16).getLsbD 0 = false ∧ (0x2845 : W16).getLsbD 0 = true
    ∧ (nanoOf (((custom 1 false true []).quire (coreQuire 0)).image.nano.get 0)).flw = 1
    ∧ (let s := custom 0 true false [0xE000, 0x2844]
       ((s.quire (coreQuire 0)).image.entry 0xE0).toNat / 2 ^ 17 % 2 = 1 ∧ (s.core 0).sys.mode = false ∧ (s.core 0).micro = none) := by
  unfold NanoResult Fetches DispatchReads; decide +kernel

/-- Core 0 with IE set, IPL.MIN 0 and source 9 pending. -/
def pendingIrq : Core := { runCore with sys := { runCore.sys with ie := true }, irq := { runCore.irq with ipnd := 0x200 } }
/-- Core 0 with two floating trap requests due. -/
def trapping : Core := { runCore with fpDue := [⟨4, 0x40, 0x6000, 7⟩, ⟨1, 0x44, 0x6001, 8⟩] }
/-- A core whose pc lies in a page that may not be executed; a core at a MULW of an odd register. -/
def noExec : Core := { runCore with pc := 0x9004, itlb := [{ entry9 with mt := 0, x := false }] }
def oddPair : Core := placed runCore (.mulw 0 5 1 2)
/-- A delay slot that a floating result stands before. -/
def flyingFloat : Core := { runCore with flights := [⟨.fp 4 (some ⟨4, 0x40, 0x6000, 7⟩), 2⟩] }
theorem witness_EntriesThroughX :
    (up.canIssue 0 = true ∧ Fetches up 0 [0] (up.core 0) ∧ decodeWords 0 [0] = none ∧ (up.core 0).branch = none
      ∧ (written (up.core 0)).fpDue = [])
    ∧ ((upWith inSlot).canIssue 0 = true ∧ ((upWith inSlot).core 0).branch = some ⟨0x30, 0x10, .none, none⟩)
    ∧ ((upWith flyingFloat).canIssue 0 = true ∧ flyingFloat.branch = none ∧ (written flyingFloat).fpDue = [] ++ ⟨4, 0x40, 0x6000, 7⟩ :: [])
    ∧ (let s := upWith noExec
       s.canIssue 0 = true ∧ fetchInstr (s.quire (coreQuire 0)).image (s.core 0) (s.core 0).pc = .stop 0x9004 (.exc 0x0C)
       ∧ 0x0C = preciseCode .iProt)
    ∧ (let s := upWith oddPair
       s.canIssue 0 = true ∧ issuesNow s (.mulw 0 5 1 2) 2 = true
       ∧ ∃ t, runInstr (.mulw 0 5 1 2) s = .next t ∧ enteredX s t 0 (preciseCode .illegal) 0 0 = true)
    ∧ (let s := upWith { runCore with ovf := some 0x40 }
       AtEvent s 0 ∧ (s.core 0).ctl.asyncMc = [] ∧ (s.core 0).ovf = some 0x40)
    ∧ (let s := upWith trapping
       AtEvent s 0 ∧ (s.core 0).ctl.asyncMc = [] ∧ (s.core 0).ovf = none ∧ (s.core 0).fpDue ≠ []
       ∧ (written (s.core 0)).fpDue = [] ++ ⟨4, 0x40, 0x6000, 7⟩ :: [⟨1, 0x44, 0x6001, 8⟩])
    ∧ (∀ x ∈ [(⟨1, 0x44, 0x6001, 8⟩ : FpReq)], (7 : Nat) ≤ x.issue) ∧ TrapCause 4 0x1A
    ∧ (let s := upWith pendingIrq; let k := s.core 0
       AtEvent s 0 ∧ k.ctl.asyncMc = [] ∧ k.ovf = none ∧ (written k).fpDue = [] ∧ k.fpDue = [] ∧ k.ctl.fbWait = false
       ∧ Highest (pendingSrcs s 0) ⟨9, 0⟩ ∧ k.sys.ie = true ∧ k.irq.ipl.toNat ≤ (0 : BitVec 3).toNat) := by
  refine ⟨?_, ?_, ?_, ?_, ⟨by decide +kernel, by decide +kernel, _, rfl, by decide +kernel⟩, ?_⟩ <;>
    (try unfold Fetches) <;> (try unfold AtEvent Highest TrapCause) <;> (try dsimp only) <;> and_intros <;> decide +kernel

/-- The device with core 0 holding an asynchronous machine check, or an outstanding DSU instruction. -/
def checking (l : List MCause) (longs : List LongOp) (reload : Option Bool) : State :=
  upWith { runCore with ctl := { runCore.ctl with asyncMc := l, reload := reload }, longs := longs }
theorem witness_MachineChecks :
    (let s := up; (s.core 0).sys.m.mcip = false ∧ s.canTake 0 = true ∧ MCause.instr ∉ (s.core 0).ctl.asyncMc ∧ (s.core 0).branch = none)
    ∧ ((upWith inSlot).canTake 0 = true ∧ ((upWith inSlot).core 0).branch = some ⟨0x30, 0x10, .none, none⟩)
    ∧ (AtEvent (checking [.walkData] [] none) 0 ∧ MCause.walkData ∈ ((checking [.walkData] [] none).core 0).ctl.asyncMc)
    ∧ (AtEvent up 0 ∧ up.canTake 0 = true ∧ MCause.csParity ∉ (up.core 0).ctl.asyncMc)
    ∧ (MCause.coreState ∉ (up.core 0).ctl.asyncMc ∧ up.runs 0 = true ∧ (up.core 0).branch = none ∧ (up.core 0).micro = none
      ∧ (up.core 0).ctl.fbWait = false)
    ∧ (let s := upWith inSlot; MCause.coreState ∉ (s.core 0).ctl.asyncMc ∧ s.interruptible 0 = false ∧ (s.core 0).ctl.run = true
        ∧ (s.core 0).ctl.cks = false ∧ (s.core 0).ctl.iso = false)
    ∧ ((checking [] [] (some false)).core 0).ctl.reload ≠ none
    ∧ (let k := (checking [] [⟨.dsu, .dsu 0 false 0x10 true false none, 5, none, none, none⟩] none).core 0
       k.ctl.cks = false ∧ k.ctl.iso = false ∧ k.ctl.run = true
       ∧ k.long? .dsu = some ⟨.dsu, .dsu 0 false 0x10 true false none, 5, none, none, none⟩) := by
  unfold AtEvent
  dsimp only
  and_intros <;> decide +kernel
/-- Core 0 with MCIP set. -/
def inCheck : Core := { runCore with sys := { runCore.sys with m := { runCore.sys.m with mcip := true } } }
theorem witness_SecondMachineCheckStopsCore :
    let s := upWith inCheck
    (s.core 0).sys.m.mcip = true ∧ (s.core 0).ctl.iso = false ∧ (s.core 0).ctl.run = true ∧ (s.core 0).ctl.cks = false ∧ s.canTake 0 = true
    ∧ MCause.instr ∉ (s.core 0).ctl.asyncMc ∧ MCause.instr ∈ [MCause.localData, .poisonedData, .instr] := by decide +kernel

/-- The device with source 50 of quire 0 pending, for cores 1 and 3, to one or to all. -/
def route50 (one : Bool) (last : Option (Fin 8)) (en : Bool) : Route :=
  { Route.zero with cores := 0x0A, one := one, en := en, pnd := true, last := last, msgs := [5] }
def sourced (one : Bool) (last : Option (Fin 8)) (en : Bool) : State :=
  up.setQuire 0 { Quire.reset with routes := Quire.reset.routes.set 50 (route50 one last en) }
theorem sourced_eligible (one : Bool) (last : Option (Fin 8)) (en : Bool) (k : Fin 8) :
    Eligible (sourced one last en) 0 (route50 one last en) k ↔ k = 1 ∨ k = 3 := by
  have h : (sourced one last en).core (coreOf 0 k) = runCore := by
    show up.cores[coreOf 0 k] = runCore
    simp [up]
  unfold Eligible
  rw [h]
  clear h
  revert k
  show ∀ k : Fin 8, (((0x0A : BitVec 8).getLsbD k.val = true ∧ false = false ∧ false = false) ↔ k = 1 ∨ k = 3)
  decide
theorem witness_InterruptSources :
    (let s := sourced false none true; let r := route50 false none true
     (s.quire 0).routes[(50 : Fin 64)] = r ∧ s.spineRuns = true ∧ (s.quire 0).failed = false ∧ (50 : Fin 64).val = (50 : BitVec 6).toNat ∧ r.pnd = true ∧ r.en = true
     ∧ Receives s 0 r 1 ∧ Receives s 0 r 3 ∧ ¬ Receives s 0 r 0 ∧ (s.core (coreOf 0 1)).irq.mbx.length + r.msgs.length ≤ 16)
    ∧ Receives (sourced true (some 1) true) 0 (route50 true (some 1) true) 3
    ∧ Receives (sourced true (some 3) true) 0 (route50 true (some 3) true) 1
    ∧ Receives (sourced true none true) 0 (route50 true none true) 1
    ∧ (route50 true none false).en = false := by
  have e := fun one last => sourced_eligible one last true
  refine ⟨⟨by decide +kernel, rfl, by decide +kernel, by decide, rfl, rfl, (e _ _ 1).2 (by decide), (e _ _ 3).2 (by decide),
    fun h => absurd ((e _ _ 0).1 h) (by decide), by decide +kernel⟩, ⟨(e _ _ 3).2 (by decide), ?_⟩, ⟨(e _ _ 1).2 (by decide), ?_⟩,
    ⟨(e _ _ 1).2 (by decide), ?_⟩, rfl⟩
  · exact .inl ⟨by decide, fun j h1 h2 h => by rcases (e _ _ j).1 h with rfl | rfl <;> revert h1 h2 <;> decide⟩
  · exact .inr ⟨fun j h1 h => by rcases (e _ _ j).1 h with rfl | rfl <;> revert h1 <;> decide,
      fun j h1 h => by rcases (e _ _ j).1 h with rfl | rfl <;> revert h1 <;> decide⟩
  · exact fun j h1 h => by rcases (e _ _ j).1 h with rfl | rfl <;> revert h1 <;> decide

/-- The device with a broadcast of OP 0 accepted, for core 0 and quire 1 to apply. -/
def shooting : State := up.setQuire 0 { Quire.reset with shoot := ⟨9, 7, 0, false, [.core 0, .quire 1]⟩ }
/-- Core 0 gated, with source 9 pending; a woken one that waits since cycle 0. -/
def gatedCore (r : Bool) : Core :=
  { runCore with ctl := { runCore.ctl with gated := true, recShoot := r }, irq := { runCore.irq with ipnd := 0x200 } }
def wokenCore : Core := { runCore with ctl := { runCore.ctl with woken := true, stallSince := some 0, opStall := true } }
theorem witness_WardenActs :
    ((up.quire 0).shoot.waiting = [] ∧ (shooting.quire 0).shoot.waiting ≠ [] ∧ up.spineRuns = true ∧ shooting.spineRuns = true)
    ∧ (ShootTarget.core 0 ∈ (shooting.quire 0).shoot.waiting ∧ (shooting.core 0).ctl.gated = false ∧ ShootTarget.quire 1 ∈ (shooting.quire 0).shoot.waiting)
    ∧ (∀ r ∈ [false, true], let s := upWith (gatedCore r); let t := (s.core 0).ctl
        s.spineRuns = true ∧ t.gated = true ∧ t.noWake = false ∧ (s.quire (coreQuire 0)).quiesced = false ∧ t.dsuStopped = false ∧ t.wen = true
        ∧ (∃ x ∈ pendingSrcs s 0, t.wlvl.toNat ≤ x.lvl.toNat) ∧ t.recShoot = r)
    ∧ ((up.core 0).ctl.gated = false)
    ∧ (let s := { upWith wokenCore with pwr := { Power.reset with st := .idle }, now := 14400 }
       s.spineRuns = true ∧ AtEvent s 0 ∧ (s.core 0).ctl.opStall = true ∧ (s.core 0).ctl.woken = true ∧ (s.core 0).ctl.gated = false ∧ (s.core 0).ctl.stallSince = some 0
       ∧ (s.core 0).ctl.need = none ∧ pendingSrcs s 0 = [] ∧ s.pwr.gt ≠ 0 ∧ 0 + s.pwr.gt.toNat * 900 ≤ s.now ∧ s.pwr.st = .idle
       ∧ (s.core 0).dsuBusy = false)
    ∧ (let k := (upWith { runCore with ctl := { runCore.ctl with cks := true, run := false } }).core 0
       k.ctl.cks = true ∧ k.ctl.iso = false ∧ k.quiet = true)
    ∧ (let k := (upWith { loading with ctl := { runCore.ctl with cks := true, run := false } }).core 0
       k.ctl.cks = true ∧ k.ctl.iso = false ∧ k.quiet = false)
    ∧ (up.quire 3).failed = false ∧ engQuire 6 = 3 ∧ ({ QueuePair.reset with sqn := 2, cqn := 4096 } : QueuePair).en = true := by
  unfold AtEvent
  dsimp only
  and_intros <;> decide +kernel

/-! #### Streams, journal, ring -/

/-- A descriptor's words: source, destination, count, MLD, window, signal, slot, core, tag. -/
def descWords (src dst : W64) (cnt mld win : Nat) (ws slot : Bool) (wc : Nat) (tag : Nat) : List W16 :=
  wordsOf src ++ wordsOf dst ++ [BitVec.ofNat 16 (cnt / 65536), BitVec.ofNat 16 cnt,
    BitVec.ofNat 16 (mld + win * 2 ^ 6 + (if ws then 2 ^ 10 else 0) + if slot then 2 ^ 11 else 0), BitVec.ofNat 16 wc,
    BitVec.ofNat 16 (tag / 65536), BitVec.ofNat 16 tag, 0, 0]
/-- Engine 5 as given. -/
def engined (x : Engine) : State := { up with engines := State.reset.engines.set 5 x }
/-- A running descriptor. -/
def running (ws : List W16) : Running := { words := ws, place := .none, cam := none, ended := none, slot := 0xF, dst := (descOf ws).dst, record := none }
theorem witness_StreamPorts :
    (up.eng 5).cur = none ∧ ((engined { Engine.reset with cur := some (running []) }).eng 5).cur ≠ none
    ∧ ((up.core 0).win[(2 : WinId)].en = false ∧ (0x01420100 : W64).toNat / 2 ^ 26 % 2 = 0)
    ∧ ((upWith { runCore with win := runCore.win.set 2 { Window.zero with en := true } }).core 0).win[(2 : WinId)].en = true := by
  and_intros <;> decide +kernel

/-- A copy of 8 words from core 3's local region to core 4's. -/
def copyWords : List W16 := descWords (ramAddr 3 false 0x100) (ramAddr 4 false 0x7FF8) 16 0 0 false false 0 7
/-- Engine 5 with a ring of 4 descriptors at word 0x40 of core 9's instruction RAM, and two to run; and one misplaced. -/
def ringed (base : W64) : Engine := { Engine.reset with en := true, rbase := base, rcfg := 2, head := 2, tail := 0 }
/-- A descriptor that asks for a slot of window 1 of core 3. -/
def slotWords : List W16 := descWords 0x1000 0 64 0 1 true true 3 9
/-- The same engine with a descriptor of its ring under way; core 3 has window 1 with two slots. -/
def slotting (ended : Option (BitVec 8 × BitVec 7)) (record : Option W64) (queue : List W64) (en : Bool) : State :=
  (engined { ringed (ramAddr 9 true 0x40) with cur := some { running slotWords with ended := ended, record := record } }).setCore 3
    { runCore with win := runCore.win.set 1 { Window.zero with en := en, base := 0x3F80, lsz := 6, nsl := 2, queue := queue } }
theorem witness_StreamDescriptors_starts :
    (let s := engined (ringed (ramAddr 9 true 0x40)); let x := s.eng 5
     s.live = true ∧ x.gated = false ∧ x.en = true ∧ x.halt = false ∧ x.cur = none ∧ x.head ≠ x.tail ∧ x.work = [] ∧ x.ahead = []
     ∧ x.rbase = ramAddr 9 true 0x40 ∧ 0x40 % 16 = 0 ∧ 0x40 + x.tail.toNat % 2 ^ min 12 x.rcfg.toNat * 16 + 16 ≤ 0x2000
     ∧ ∀ j < 16, (s.core 9).iramBad.get ((0x40 + j) / 4) = 0#1)
    ∧ (let x := ringed 0x8000000000000004; x.head ≠ x.tail ∧ x.rbase.toNat % 16 ≠ 0)
    ∧ (let x := { Engine.reset with en := true, cen := true, work := [⟨0, 0, 3, .data [], slotWords, true⟩] }
       x.en = true ∧ x.cen = true ∧ x.work ≠ [] ∧ x.head = x.tail)
    ∧ (let s := engined { ringed (ramAddr 9 true 0x40) with cur := some (running copyWords) }; let x := s.eng 5
       x.pfe = true ∧ (x.cur.map (·.cam)) = some none ∧ ((x.tail + BitVec.ofNat 32 1) - x.tail).toNat < (x.head - x.tail).toNat
       ∧ skind (descOf ((s.core 9).iram.read 0x50 16)).src ≠ .virt ∧ skind (descOf ((s.core 9).iram.read 0x50 16)).dst ≠ .virt) := by
  and_intros <;> decide +kernel
theorem witness_StreamDescriptors_runs :
    (let s := slotting none none [] true; let r := running slotWords; let d := descOf r.words; let w := (s.core d.wc).win[d.win]
     EngineRuns s 5 r ∧ d.slot = true ∧ r.ended = none ∧ r.slot = 0xF ∧ (s.eng 5).abort = false
     ∧ w.en = true ∧ w.nsl ≠ 0 ∧ d.mld = 0 ∧ destWords d none ≤ 2 ^ min 12 (max 2 w.lsz.toNat)
     ∧ 2 ^ min 12 (max 2 { w with lsz := 2 }.lsz.toNat) < destWords d none ∧ w.wr ∉ w.inUse ∧ w.base.toNat + w.wr.toNat * 2 ^ min 12 (max 2 w.lsz.toNat) < 0x8000)
    ∧ ((slotting none none [] false).core 3).win[(1 : WinId)].en = false
    ∧ (let s := slotting (some (0x18, 0)) none [] true; let r := { running slotWords with ended := some (0x18, 0) }
       EngineRuns s 5 r ∧ r.cam = none ∧ r.ended = some (0x18, 0) ∧ r.place = .none)
    ∧ (let d := descOf copyWords; let r := { running copyWords with place := .ram 9 true 0x40 }
       let s := engined { ringed (ramAddr 9 true 0x40) with cur := some r }
       EngineRuns s 5 r ∧ (s.eng 5).abort = false ∧ d.mld = 0 ∧ d.slot = false ∧ d.cnt ≠ 0 ∧ d.cnt % 2 = 0
       ∧ 0x100 + d.cnt / 2 ≤ 0x8000 ∧ 0x7FF8 + d.cnt / 2 ≤ 0x8000 ∧ 0x40 + 16 ≤ 0x2000 ∧ d.src = ramAddr 3 false 0x100
       ∧ r.dst = ramAddr 4 false 0x7FF8 ∧ d.dst = r.dst ∧ (∀ i < d.cnt / 2, (s.core 3).locBad.get ((0x100 + i) / 4) = 0#1))
    ∧ (let s := slotting none (some 7) (List.replicate 15 1) true
       s.live = true ∧ s.pwr.st ≠ .idle ∧ (s.eng 5).cur = some { running slotWords with record := some 7 }
       ∧ (s.core 3).win[(1 : WinId)].en = true ∧ (s.core 3).win[(1 : WinId)].queue.length < 16)
    ∧ 16 ≤ ((slotting none (some 7) (List.replicate 16 1) true).core 3).win[(1 : WinId)].queue.length := by
  unfold EngineRuns
  dsimp only
  and_intros <;> decide +kernel

/-- A journal with entries up to n, durable and copied up to d. -/
def journalOf (n d : Nat) : Journal :=
  { Journal.reset with
    next := BitVec.ofNat 64 (n + 1), repl := BitVec.ofNat 64 d, hbm := BitVec.ofNat 64 d, host := BitVec.ofNat 64 d, dur := BitVec.ofNat 64 d
    sendPos := BitVec.ofNat 64 (d + 1), expect := 1, logh := 12, logq := 8, hbase := 0x10000, qaddr := 5, hde := true }
/-- A device on the ring, with its neighbours known, its stack ready and its link up; its own serial number is 9. -/
def onRing (j : Journal) : State :=
  { linked with
    jnl := j, hbm := { Hbm.reset with rdy := true }
    stw := { up.stw with fuses := { Fuses.fresh with serial := 9 } }
    ring := { Ring.reset with
      jen := true, st := .joined, byp := false, acc := true, pos := 2, pv := true
      pa := { RingPort.reset with up := true, lk := 0xF, algn := true }
      pb := { RingPort.reset with up := true, lk := 0xF, algn := true, nPos := 1, nKnown := true, nSerial := 8 } } }
theorem witness_JournalUnit :
    (Linked (onRing Journal.reset) ∧ ¬ Linked up ∧ Journal.reset.rep = false ∧ Journal.reset.fbSig = false
      ∧ { Journal.reset with fbSig := true }.fbSig = true ∧ up.ring.pb.nKnown = false)
    ∧ (Journal.reset.pen = false ∧ jnlInfl up = false ∧ Journal.reset.held = 0 ∧ (journalOf 5 3).held ≠ 0)
    ∧ (let s := onRing (journalOf 5 3)
       s.jnlWorks = true ∧ RegionOk s ∧ Claims.Entry s 4 (s.phys.read (0x900000000 + 4 * 16) 16) ∧ 4 ≤ s.jnl.dur.toNat + 2 ^ s.jnl.logh.toNat
       ∧ s.mustWait srcJournal (regionAt s 4) = false ∧ s.hbm.injArm = false ∧ s.hbm.parErr = 0#2)
    ∧ (let s := onRing { journalOf 5 3 with hbm := 5 }
       s.jnlWorks = true ∧ s.pins.phase = .running ∧ s.jnl.hde = true ∧ 8 ≤ s.jnl.logq.toNat ∧ s.jnl.logq.toNat ≤ 24 ∧ RegionOk s
       ∧ s.host.lup = true ∧ s.host.cfg[(0 : FnId)].bme = true ∧ 4 ≤ s.jnl.hbm.toNat ∧ 4 ≤ s.jnl.dur.toNat + 2 ^ s.jnl.logq.toNat
       ∧ s.mustWait srcJournal (regionAt s 4) = false ∧ s.hbm.parErr = 0 ∧ s.hbmEcc.get (regionAt s 4 / 16) = 0#32)
    ∧ (up.stw.hsf = false ∧ up.jnl.pf = false ∧ up.awake = true ∧ up.ring.st ∈ [RingSt.off, .joined, .left])
    ∧ (let s := { up with jnl := { Journal.reset with pf := true } }
       s.jnl.pf = true ∧ s.jnl.frz = false ∧ s.stw.hsf = false ∧ jnlInfl s = false ∧ s.jnl.held = 0) := by
  unfold Linked RegionOk Claims.Entry
  dsimp only
  and_intros <;> decide +kernel

/-- A sheet without encryption. -/
def sheetOf (typ src : BitVec 4) (n : BitVec 3) (sseq : BitVec 48) (payload : Option (List W16)) : List Block :=
  sheetBlocks (Hdr.mk typ src payload.isSome n sseq).bits (match payload with | some ws => quadsOf 16 ws | none => []) 0 []
/-- A device on the ring hears such a sheet at a port. -/
theorem hears_sheet (j : Journal) (p : RPort) (bs : List Block) (h : Hdr) (ws : List W16) (hf : j.frz = false)
    (ho : openSheet false KeySlot.empty bs = .ok h ws) : Hears (onRing j) p bs h ws := by
  refine ⟨?_, rfl, ?_⟩
  · show (!j.frz && !false && true) = true
    rw [hf]; rfl
  · cases p <;> exact ho
/-- An entry of sequence number q in a sheet of one. -/
def oneEntry (q : Nat) : List W16 := wordsOf (BitVec.ofNat 64 q) ++ List.replicate 60 0
theorem opens_journal : openSheet false KeySlot.empty (sheetOf 1 1 1 4 (some (oneEntry 4))) = .ok ⟨1, 1, true, 1, 4⟩ (oneEntry 4) := by
  decide +kernel
theorem opens_ack : openSheet false KeySlot.empty (sheetOf 2 3 0 4 none) = .ok ⟨2, 3, false, 0, 4⟩ [] := by decide +kernel
theorem opens_resend : openSheet false KeySlot.empty (sheetOf 5 3 0 (4#8 ++ 5#40) none) = .ok ⟨5, 3, false, 0, 4#8 ++ 5#40⟩ [] := by decide +kernel
/-- The words of a control sheet's payload, filled with zeros. -/
def filled (ws : List W16) : List W16 := padTo 64 ws
theorem opens_dur : openSheet false KeySlot.empty (sheetOf 5 1 0 (3#8 ++ 0#40) (some (filled (wordsOf 3)))) =
    .ok ⟨5, 1, true, 0, 3#8 ++ 0#40⟩ (filled (wordsOf 3)) := by decide +kernel
theorem witness_JournalSheets_sends :
    (let s := onRing { journalOf 7 3 with rep := true }
     Sending s ∧ s.jnl.sendPos.toNat + 4 < 2 ^ 64 ∧ s.jnl.next.toNat - s.jnl.sendPos.toNat = 4
     ∧ ∀ i < 4, Claims.Entry s (s.jnl.sendPos.toNat + i) ((List.replicate 4 (List.replicate 16 0)).getD i []))
    ∧ (let s := { onRing { journalOf 5 3 with rep := true, appended := [9, 0] } with now := 15 }
       Sending s ∧ s.jnl.next.toNat - s.jnl.sendPos.toNat = 2 ∧ max s.jnl.restart (s.jnl.appended.getD (2 - 1) 0) + 15 ≤ s.now
       ∧ ∀ i < 2, Claims.Entry s (s.jnl.sendPos.toNat + i) ((List.replicate 2 (List.replicate 16 0)).getD i []))
    ∧ (let s := { onRing { journalOf 5 3 with rep := true, sendPos := 6 } with now := 9000 }
       Sending s ∧ s.jnl.repl.toNat + 1 < s.jnl.sendPos.toNat ∧ s.jnl.replSince + 4500 ≤ s.now ∧ s.ring.pa.up = true
       ∧ s.jnl.dur ≠ s.jnl.durSent ∧ s.jnl.durSince + 9000 ≤ s.now)
    ∧ (let s := { onRing { Journal.reset with mv := true, msrc := 1, mslots := [(4, 4)] } with now := 900 }
       sourceOk s = true ∧ s.ringSends = true ∧ s.awake = true ∧ s.jnl.mslots ≠ [] ∧ s.jnl.ackSince + 900 ≤ s.now) := by
  unfold Sending Claims.Entry
  dsimp only
  and_intros <;> decide +kernel
theorem witness_JournalSheets_hears :
    (let j := { journalOf 5 3 with rep := true }
     Hears (onRing j) .a (sheetOf 2 3 0 4 none) ⟨2, 3, false, 0, 4⟩ [] ∧ 4 ≤ j.last ∧ j.rep = true ∧ j.repl.toNat < 4 ∧ 4 < j.repl.toNat + 2 ^ 47)
    ∧ (let j := { journalOf 5 4 with rep := true }; 4 ≤ j.repl.toNat ∧ j.repl.toNat < 4 + 2 ^ 47)
    ∧ (let j := { journalOf 5 3 with rep := true }
       Hears (onRing j) .a (sheetOf 5 3 0 (4#8 ++ 5#40) none) ⟨5, 3, false, 0, 4#8 ++ 5#40⟩ [] ∧ j.repl.toNat < 5 ∧ 5 ≤ j.next.toNat)
    ∧ (∀ e ∈ [4, 3, 5], let j := { Journal.reset with mv := true, msrc := 1, expect := BitVec.ofNat 64 e }
        Hears (onRing j) .b (sheetOf 1 1 1 4 (some (oneEntry 4))) ⟨1, 1, true, 1, 4⟩ (oneEntry 4) ∧ sourceOk (onRing j) = true)
    ∧ ((Journal.reset.mslots.get (4 % 65536)).toNat ≤ Journal.reset.pdur.toNat
      ∧ Journal.reset.pdur.toNat < (({ Journal.reset with mslots := [(4, 4)] } : Journal).mslots.get (4 % 65536)).toNat)
    ∧ (let j := { Journal.reset with mv := true, msrc := 1 }
       Hears (onRing j) .b (sheetOf 5 1 0 (3#8 ++ 0#40) (some (filled (wordsOf 3)))) ⟨5, 1, true, 0, 3#8 ++ 0#40⟩ (filled (wordsOf 3))
       ∧ sourceOk (onRing j) = true ∧ (3 : W64) = quadOf ((filled (wordsOf 3)).take 4) ∧ j.stuck = false
       ∧ { j with stuck := true }.stuck = true ∧ j.mslots.get (4 % 65536) = 0#64 ∧ (65539, (5 : W64)) ∈ [(65539, (5 : W64))]
       ∧ ¬ (5 : W64).toNat ≤ 3) := by
  refine ⟨⟨hears_sheet _ _ _ _ _ rfl opens_ack, by decide +kernel⟩, by decide +kernel, ⟨hears_sheet _ _ _ _ _ rfl opens_resend, by decide +kernel⟩,
    ?_, by decide +kernel, ⟨hears_sheet _ _ _ _ _ rfl opens_dur, by decide +kernel⟩⟩
  intro e he
  simp only [List.mem_cons, List.not_mem_nil, or_false] at he
  rcases he with rfl | rfl | rfl <;> exact ⟨hears_sheet _ _ _ _ _ rfl opens_journal, by decide +kernel⟩

theorem witness_SheetsComeBack :
    (onRing Journal.reset).ringSends = true ∧ ((onRing Journal.reset).rp .b).enc = false := by decide +kernel

/-- HELLO of a neighbour at position 1 with serial number 8 and JNL_DUR 3, with or without encryption. -/
def helloOf (enc : Bool) : List W16 := filled (wordsOf 8 ++ [if enc then 0x11 else 0x01, 0, 0, 0] ++ wordsOf 3)
theorem opens_hello (enc : Bool) : openSheet false KeySlot.empty (sheetOf 5 1 0 (1#8 ++ 0#40) (some (helloOf enc))) =
    .ok ⟨5, 1, true, 0, 1#8 ++ 0#40⟩ (helloOf enc) := by cases enc <;> decide +kernel
/-- A census list of this device, at position 2 with serial number 9, and others. -/
def censusOf (l : List W64) : List W16 := filled (l.flatMap wordsOf)
theorem opens_census (src : BitVec 4) (l : List W64)
    (hl : (src = 1 ∧ l = [0x8100000000000008]) ∨ (src = 2 ∧ (l = [0x8200000000000009] ∨ l = [0x8200000000000009, 0x8200000000000007]))) :
    openSheet false KeySlot.empty (sheetOf 5 src 0 (2#8 ++ 0#40) (some (censusOf l))) = .ok ⟨5, src, true, 0, 2#8 ++ 0#40⟩ (censusOf l) := by
  rcases hl with ⟨rfl, rfl⟩ | ⟨rfl, rfl | rfl⟩ <;> decide +kernel
theorem opens_keysw : openSheet false KeySlot.empty (sheetOf 5 1 0 (5#8 ++ 1#40) none) = .ok ⟨5, 1, false, 0, 5#8 ++ 1#40⟩ [] := by decide +kernel
theorem opens_calibration : openSheet false KeySlot.empty (sheetOf 4 1 0 0 (some (filled [0x01FF, 0, 0, 0, 7, 0, 0, 0]))) =
    .ok ⟨4, 1, true, 0, 0⟩ (filled [0x01FF, 0, 0, 0, 7, 0, 0, 0]) := by decide +kernel
/-- The ring at a state, since cycle 0. -/
def ringAt (st : RingSt) (byp : Bool) (now : Nat) : State :=
  { onRing Journal.reset with
    now := now
    ring := { (onRing Journal.reset).ring with st := st, byp := byp, pb := { RingPort.reset with lk := 0xF, algn := true } } }
theorem witness_RingConduct_members :
    (let s := { up with hbm := { Hbm.reset with rdy := true }, ring := { Ring.reset with pv := true } }; MayListen s ∧ s.ring.jen = false)
    ∧ (¬ MayListen up ∧ up.ring.jen = false)
    ∧ (let s := ringAt .joined false 0; s.ring.jen = true ∧ s.ring.st ≠ .off ∧ s.ring.st ≠ .left)
    ∧ (let s := { ringAt .listen true 1080000 with ring := { (ringAt .listen true 0).ring with clean := some 0 } }
       s.ring.st = .listen ∧ s.ring.clean = some 0 ∧ 0 + 900000 + s.ring.pos.toNat * 90000 ≤ s.now)
    ∧ (let s := ringAt .listen true 3600000; s.ring.since + 1800000 + s.ring.pos.toNat * 900000 ≤ s.now)
    ∧ (let s := ringAt .insert false 0; s.ring.st = .insert ∧ s.ring.pa.locked = true ∧ s.ring.pb.locked = true ∧ s.ring.pa.hello = false)
    ∧ (let s := ringAt .hello false 900000; s.ring.st = .hello ∧ s.ring.since + 900000 ≤ s.now ∧ s.jnl.pf = false)
    ∧ (let s := { ringAt .joined false 9000000 with ring := { (ringAt .joined false 0).ring with pa := { RingPort.reset with lost := some 0 } } }
       s.ring.byp = false ∧ (s.rp .a).lost = some 0 ∧ 0 + s.ring.lvt.toNat * 900000 ≤ s.now ∧ s.jnl.pf = false)
    ∧ (let s := ringAt .joined false 90000; LostNow s .a ∧ s.ring.pa.lost = none ∧ s.ring.pb.lost = none)
    ∧ ¬ LostNow (ringAt .joined false 89999) .b := by
  unfold MayListen LostNow
  dsimp only
  and_intros <;> decide +kernel
theorem hears_at (st : RingSt) (now : Nat) (p : RPort) (bs : List Block) (h : Hdr) (ws : List W16)
    (ho : openSheet false KeySlot.empty bs = .ok h ws) : Hears (ringAt st false now) p bs h ws := by
  refine ⟨rfl, rfl, ?_⟩
  cases p <;> exact ho
/-- Port B lost since cycle 0. -/
def lostAtB : State := (ringAt .joined false 90000).modRp .b (fun r => { r with lost := some 0 })
theorem witness_RingConduct_found :
    Hears lostAtB .b (sheetOf 5 1 0 (5#8 ++ 1#40) none) ⟨5, 1, false, 0, 5#8 ++ 1#40⟩ [] ∧ (lostAtB.rp .b).lost ≠ none ∧ lostAtB.ring.st = .joined :=
  ⟨⟨rfl, rfl, opens_keysw⟩, by decide +kernel, rfl⟩
theorem witness_RingConduct_sheets :
    (∀ enc, Hears (ringAt .census false 0) .b (sheetOf 5 1 0 (1#8 ++ 0#40) (some (helloOf enc))) ⟨5, 1, true, 0, 1#8 ++ 0#40⟩ (helloOf enc)
      ∧ ((helloOf enc).getD 4 0).getLsbD 4 = enc)
    ∧ (let s := ringAt .census false 0
       helloInOtherForm s .b (sheetOf 5 1 0 (1#8 ++ 0#40) (some (helloOf false))) = false ∧ s.ring.st = .census ∧ (helloOf false).length = 64
       ∧ s.ring.encb = false ∧ s.ring.pb.nKnown = false ∧ ((helloOf false).getD 4 0).getLsbD 5 = false
       ∧ quadOf ((helloOf false).take 4) ≠ s.serial ∧ s.jnl.mv = false ∧ s.jnl.rep = false ∧ s.jnl.rpe = false)
    ∧ (let s := ringAt .census false 0
       Hears s .b (sheetOf 5 1 0 (2#8 ++ 0#40) (some (censusOf [0x8100000000000008]))) ⟨5, 1, true, 0, 2#8 ++ 0#40⟩ (censusOf [0x8100000000000008])
       ∧ (s.ring.pos, s.serial.setWidth 56) ∉ censusList (censusOf [0x8100000000000008]))
    ∧ (let s := { ringAt .census false 0 with ring := { (ringAt .census false 0).ring with censusSent := true } }
       (∀ l, l = [0x8200000000000009] ∨ l = [0x8200000000000009, 0x8200000000000007] →
         Hears s .b (sheetOf 5 2 0 (2#8 ++ 0#40) (some (censusOf l))) ⟨5, 2, true, 0, 2#8 ++ 0#40⟩ (censusOf l)
         ∧ (s.ring.pos, s.serial.setWidth 56) ∈ censusList (censusOf l))
       ∧ s.ring.pos = 2 ∧ s.ring.censusSent = true ∧ s.jnl.pf = false
       ∧ (¬ ∃ x ∈ censusList (censusOf [0x8200000000000009]), ∃ y ∈ censusList (censusOf [0x8200000000000009]), x.1 = y.1 ∧ x.2 ≠ y.2)
       ∧ ∃ x ∈ censusList (censusOf [0x8200000000000009, 0x8200000000000007]),
           ∃ y ∈ censusList (censusOf [0x8200000000000009, 0x8200000000000007]), x.1 = y.1 ∧ x.2 ≠ y.2)
    ∧ Hears (ringAt .joined false 0) .b (sheetOf 5 1 0 (5#8 ++ 1#40) none) ⟨5, 1, false, 0, 5#8 ++ 1#40⟩ []
    ∧ (let s := { ringAt .joined false 900 with tmr := 900000 }
       s.awake = true ∧ s.ring.st = .joined ∧ (s.rp .a).lastTx + 900 ≤ s.now ∧ s.ring.byp = false ∧ s.jnl.pf = false ∧ s.tmr ≠ 0
       ∧ s.tmr.toNat % 900000 = 0 ∧ (s.rp .a).calAt ≠ s.tmr)
    ∧ Hears (ringAt .joined false 0) .a (sheetOf 4 1 0 0 (some (filled [0x01FF, 0, 0, 0, 7, 0, 0, 0]))) ⟨4, 1, true, 0, 0⟩
        (filled [0x01FF, 0, 0, 0, 7, 0, 0, 0]) := by
  refine ⟨fun enc => ⟨hears_at _ _ _ _ _ _ (opens_hello enc), by cases enc <;> decide +kernel⟩, by decide +kernel,
    ⟨hears_at _ _ _ _ _ _ (opens_census 1 _ (.inl ⟨rfl, rfl⟩)), by decide +kernel⟩, ⟨?_, by decide +kernel⟩,
    hears_at _ _ _ _ _ _ opens_keysw, by decide +kernel, hears_at _ _ _ _ _ _ opens_calibration⟩
  intro l hl
  refine ⟨⟨rfl, rfl, opens_census 2 l (.inr ⟨rfl, hl⟩)⟩, ?_⟩
  rcases hl with rfl | rfl <;> decide +kernel

/-! #### HBM, the host, the Steward, power and resets -/

/-- The device with its stack ready. -/
def stacked : State := { up with hbm := { Hbm.reset with rdy := true } }
/-- The device with an injection of a mode armed for burst 0, one parity error pending or two. -/
def injecting (m : BitVec 2) (cm : BitVec 2) : State :=
  { stacked with hbm := { stacked.hbm with injArm := true, injAddr := 0, injMode := m, cm := cm } }
theorem witness_HbmController_stack :
    (∀ m ∈ [0, 1, 2, 3], let s := injecting m 0; s.hbm.parErr = 0 ∧ s.hbm.injArm = true ∧ s.hbm.injAddr.toNat / 16 = 0 ∧ s.hbm.injMode = m)
    ∧ { stacked.hbm with parErr := 1 }.parErr = 1 ∧ { stacked.hbm with parErr := 2 }.parErr = 2
    ∧ (0x123456789 : BitVec 34).getLsbD 4 = false ∧ (List.replicate 16 (7 : W16)).length = 16 := by decide +kernel
theorem witness_HbmController :
    (StackRuns stacked ∧ stacked.hbm.per ≠ 0 ∧ stacked.mustWait srcHbm (stacked.hbm.pos.toNat / 16 * 16) = false ∧ stacked.hbm.parErr = 0
      ∧ burstSt stacked (stacked.hbm.pos.toNat / 16) = .clean)
    ∧ (let s := { stacked with hbmEcc := [(0, 1)], hbm := { stacked.hbm with thr := 0 } }
       (∃ err, burstSt s (s.hbm.pos.toNat / 16) = .corrected err) ∧ s.hbm.thr = 0 ∧ s.hbm.injArm = false)
    ∧ ¬ StackRuns up ∧ { stacked.hbm with per := 0 }.per = 0
    ∧ (let s := { stacked with locks := [(0, 3)] }; s.mustWait srcHbm (s.hbm.pos.toNat / 16 * 16) = true ∧ s.hbm.per ≠ 0 ∧ StackRuns s)
    ∧ (let s := { stacked with tmr := 3600000 }
       s.tmr ≠ 0 ∧ s.tmr.toNat % 3600000 = 0 ∧ StackRuns s ∧ s.hbm.cal = false ∧ s.jnl.pf = false)
    ∧ (let s := { stacked with now := 900, hbm := { stacked.hbm with cal := true } }; s.hbm.cal = true ∧ s.hbm.calOpened + 900 ≤ s.now)
    ∧ { stacked.hbm with low := true }.low = true ∧ stacked.hbm.low = false := by
  unfold StackRuns
  refine ⟨?_, ⟨⟨_, rfl⟩, ?_⟩, ?_⟩
  all_goals (try dsimp only)
  all_goals and_intros
  all_goals decide +kernel

/-- The same as `linked`, in Dormant; halt-safe; with the PF's memory space off. -/
def asleep : State := { linked with pwr := { Power.reset with st := .dormant } }
theorem witness_HostInterface :
    (Reaches linked 0 ∧ failedBlock linked 0x700000 = none ∧ linked.pwr.spine = true ∧ (∃ r, devPort 0x700000 = some r ∧ r.host = true)
      ∧ (∃ r, devPort 0x300000 = some r ∧ r.host = false) ∧ devPort 0x7000FF = none)
    ∧ (Reaches asleep 0 ∧ asleep.pwr.spine = false ∧ (∀ n, devPort 0x200001 ≠ some (.jnl n)))
    ∧ (linked.host.b4e = true ∧ linked.host.reads = [] ∧ 0x1FFFFFF + 1 ≤ 0x2000000 ∧ linked.vatMark.get (0x1FFFFFF / 64) = 0#2
      ∧ linked.blocked ⟨linked.now, srcPcie, linked.stamp, linked.stamp⟩ (0x40000000 + 0x1FFFFFF / 64) = false)
    ∧ ({ linked with stw := { linked.stw with hsf := true } }.stw.hsf = true ∧ linked.host.lup = true)
    ∧ ({ linked.host with cfg := Vector.replicate 16 FnCfg.reset }.cfg[(0 : FnId)].mse = false)
    ∧ (linked.answersConfig = true ∧ { linked with stw := { linked.stw with bst := .rom } }.answersConfig = false
      ∧ (2 : FnId).val ≤ linked.host.nvf.toNat)
    ∧ (Reaches linked 2 ∧ (∀ u : BitVec 7, linked.host.pba.get (128 * (2 : FnId).val + u.toNat) = 0#1))
    ∧ (let s := { linked with host := { linked.host with pba := [(128 * 2 + 5, 1)] } }
       s.host.cfg[(2 : FnId)].bme = true ∧ s.host.cfg[(2 : FnId)].msixEn = true ∧ s.host.cfg[(2 : FnId)].fnMask = false ∧ s.host.pba.get (128 * (2 : FnId).val + (5 : BitVec 7).toNat) = 1#1
       ∧ (∀ u : BitVec 7, u ≠ 5 → s.host.pba.get (128 * (2 : FnId).val + u.toNat) = 0#1))
    ∧ (linked.awake = true ∧ linked.pins.perstN = true ∧ up.host.lup = false) := by
  refine ⟨?_, ?_, ?_, ?_, ?_, ?_, ?_, ?_, ?_⟩
  · unfold Reaches
    exact ⟨by decide +kernel, by decide +kernel, by decide +kernel, ⟨_, rfl, rfl⟩, ⟨_, rfl, rfl⟩, by decide +kernel⟩
  · unfold Reaches
    exact ⟨by decide +kernel, by decide +kernel, fun n h => by revert h; revert n; decide +kernel⟩
  · and_intros <;> decide +kernel
  · and_intros <;> decide +kernel
  · decide +kernel
  · and_intros <;> decide +kernel
  · unfold Reaches
    exact ⟨by decide +kernel, fun u => rfl⟩
  · refine ⟨by decide +kernel, by decide +kernel, by decide +kernel, by decide +kernel, fun u h => ?_⟩
    have a : (5 : BitVec 7).toNat = 5 := rfl
    have b : ¬ u.toNat = 5 := fun e => h (BitVec.eq_of_toNat_eq (e.trans a.symm))
    show Cells.get [(128 * 2 + 5, 1)] (128 * 2 + u.toNat) = 0#1
    rw [Cells.get, if_neg (by omega)]
    rfl
  · and_intros <;> decide +kernel

/-- Queue pair 3 as given, on a linked device whose engine 5 takes Camwin work. -/
def paired (x : QueuePair) : State := { linked with
  qps := State.reset.qps.set 3 x, engines := State.reset.engines.set 5 { Engine.reset with en := true, cen := true } }
/-- An enabled queue pair of VF 1 for engine 5 and cores 1 and 3, with 8 entries, one of them submitted. -/
def open3 : QueuePair := { QueuePair.reset with
  sqn := 8, cqn := 8, cores := 0xA, act := { Bind.zero with eng := 5, win := 1, fn := 1, ack := 1, vec := 3, ve := true }, sqt := 1 }
theorem witness_QueuePairs_doorbells :
    (let s := paired open3; let x := s.qp 3
     Reaches s 1 ∧ x.en = true ∧ x.act.fn = 1 ∧ s.pwr.st ≠ .dormant ∧ (7 : BitVec 13).toNat < x.sqn.toNat ∧ x.sqn.toNat ≤ (8 : BitVec 13).toNat
     ∧ (x.cqt.toNat + x.cqn.toNat - x.cqh.toNat) % x.cqn.toNat = 0)
    ∧ (Reaches linked 1 ∧ (linked.qp 3).en = false)
    ∧ (let s := { paired open3 with pwr := { Power.reset with st := .dormant } }; Reaches s 1 ∧ s.pwr.st = .dormant ∧ (s.qp 3).en = true)
    ∧ (2 ≤ (BitVec.ofNat 13 (0x10000002 : W64).toNat).toNat ∧ (BitVec.ofNat 13 ((0x10000002 : W64).toNat / 2 ^ 16)).toNat ≤ 4096) := by
  unfold Reaches
  dsimp only
  and_intros <;> decide +kernel
theorem witness_QueuePairs_submissions :
    (let s := paired open3; let x := s.qp 3; let e := s.eng x.act.eng
     CamReady s 3 ∧ x.stop = false ∧ x.fetched = none ∧ x.sqh ≠ x.sqt ∧ e.en = true ∧ e.cen = true ∧ Target s x 1
     ∧ x.resv < freeCqEntries x ∧ fetchDue s 3 = true)
    ∧ (let s := paired { open3 with fetched := some (0, .data []), resv := 1 }; let x := s.qp 3
       CamReady s 3 ∧ x.stop = false ∧ x.fetched = some (0, .data []) ∧ Target s x 1 ∧ x.lastCore = none
       ∧ ∀ d : CoreId, d < 1 → x.cores.getLsbD d.val = false)
    ∧ (let s := paired { open3 with subs := [⟨0, 1, true⟩], resv := 1 }; let x := s.qp 3
       x.en = true ∧ (0x3 : W64).toNat % 16 ≠ 0 ∧ (⟨0, 1, true⟩ : Sub) ∈ x.subs ∧ (0 : BitVec 12) = BitVec.ofNat 12 ((0x3 : W64).toNat / 2 ^ 52))
    ∧ (let s := paired open3; let x := s.qp 3; x.en = true ∧ x.subs = [])
    ∧ (linked.qp 3).flr = false
    ∧ (let s := paired { open3 with staged := [⟨0, 0, 3, 0, false⟩], resv := 1, ith := 2 }; let x := s.qp 3
       CamReady s 3 ∧ x.staged = ⟨0, 0, 3, 0, false⟩ :: [] ∧ levelMet s.jnl x.act.ack 0 = true ∧ x.unsig + 1 < x.ith.toNat ∧ x.stop = false)
    ∧ (open3.ith.toNat ≤ open3.unsig + 1)
    ∧ (let s := { paired { open3 with itt := 2, unsig := 1, firstUnsig := some 0 } with now := 1800 }; let x := s.qp 3
       x.en = true ∧ x.itt ≠ 0 ∧ x.unsig ≠ 0 ∧ x.firstUnsig = some 0 ∧ 0 + x.itt.toNat * 900 ≤ s.now)
    ∧ ((1 : FnId).val ≠ 0 ∧ (1 : FnId).val ≤ linked.host.nvf.toNat)
    ∧ (let s := engined { Engine.reset with en := true, cur := some (running slotWords) }
       (s.eng 5).cur = some (running slotWords) ∧ (running slotWords).cam = none ∧ (running slotWords).ended = none
       ∧ (running slotWords).record = none ∧ (descOf slotWords).src.toNat < 2 ^ 62) := by
  unfold CamReady Target
  dsimp only
  and_intros <;> decide +kernel

/-- The device with these fatal faults under handling. -/
def faulty (l : List FatalKind) (een : Bool) : State :=
  { linked with stw := { linked.stw with faults := l, fat := !l.isEmpty }, host := { linked.host with een := een } }
/-- A Noward bundle of patch level p with no section. -/
def bundleBytesOf (p : Nat) : List Byte :=
  [0x4B, 0x4C, 0x4D, 0x43, 0, 1, 1, 1, 0, 0] ++ natBytesBE 2 p ++ List.replicate 8 0 ++ natBytesBE 4 264 ++ List.replicate 40 0
    ++ [1] ++ List.replicate 199 0
/-- The device with GO written, its link up, and nothing else of a load. -/
def loadAsked : State := { linked with stw := { linked.stw with mcGo := true } }
/-- The same once the Steward has taken GO. -/
def loadBegun : State := withStw loadAsked { loadAsked.stw with mcGo := false, mcQd := 0 }
/-- A bundle in HBM whose line a posting holds. -/
def loadHeld : State :=
  { stacked with locks := [(0x400000, 3)], stw := { up.stw with mcGo := true, mcHbm := true, mcAddr := 0x8000000 } }
/-- A load under way for quire 2. -/
def loadRunning (pf : Bool) : State :=
  { linked with stw := { linked.stw with mcBusy := true, mcTodo := [(2, Image.empty)] }, jnl := { Journal.reset with pf := pf } }
theorem runs_load : LoadRuns loadAsked ∧ LoadRuns loadHeld ∧ LoadRuns (loadRunning false) ∧ LoadRuns (loadRunning true) := by
  unfold LoadRuns
  and_intros <;> decide +kernel
theorem witness_StewardActs :
    ((faulty [.jerr] false).stw.hsf = false ∧ (faulty [.jerr] false).stw.faults = [.jerr] ∧ (faulty [.jerr] false).host.een = false)
    ∧ ((faulty [.jerr] true).stw.faults = [.jerr] ∧ (faulty [.jerr] true).host.een = true)
    ∧ (FatalKind.jerr ∈ (faulty [.jerr, .warden 2] true).stw.faults ∧ 2 ≤ (faulty [.jerr, .warden 2] true).stw.faults.length)
    ∧ (up.awake = true ∧ up.stw.hsf = false ∧ up.stw.fat = false ∧ FatalKind.steward ∉ up.stw.faults) ∧ (faulty [.jerr] true).stw.fat = true
    ∧ (FatalKind.jerr ≠ .steward ∧ FatalKind.jerr ∉ up.stw.faults)
    ∧ ((∃ r ∈ { up with reports := [(5, 0)] }.reports, r.1 = 5) ∧ up.spineRuns = true ∧ ∀ r ∈ up.reports, r.1 ≠ (5 : BitVec 19))
    ∧ (¬ LoadRuns { up with pins := { up.pins with phase := .off } } ∧ up.stw.mcBusy = false ∧ up.stw.mcGo = false)
    ∧ (LoadRuns loadAsked ∧ loadAsked.stw.mcBusy = false ∧ loadAsked.stw.mcGo = true ∧ loadAsked.stw.mcHbm = false
      ∧ (bundleBytes loadBegun .error).2 = none)
    ∧ (LoadRuns loadHeld ∧ loadHeld.stw.mcBusy = false ∧ loadHeld.stw.mcGo = true ∧ loadHeld.stw.mcHbm = true
      ∧ bundleHeld loadHeld loadHeld.stw.mcAddr.toNat = some 0x400000)
    ∧ ((bundleBytes loadBegun (.data (List.replicate 64 0))).2 = some (List.replicate 64 0) ∧ (bundleOf (List.replicate 64 0)).isNone = true)
    ∧ (LoadRuns (loadRunning false) ∧ (loadRunning false).stw.mcBusy = true ∧ ((loadRunning false).stw.mcTodo.map (·.1)).Nodup
      ∧ (∀ x ∈ (loadRunning false).stw.mcTodo, quireStopped (loadRunning false) x.1 = true))
    ∧ (LoadRuns (loadRunning true) ∧ (loadRunning true).jnl.pf = true ∧ (loadRunning true).stw.mcTodo ≠ [])
    ∧ (let s := (loadRunning false).setCore 17 (waiting false); quireStopped s 2 = false) := by
  refine ⟨?_, ?_, ?_, ?_, ?_, ?_, ?_, ⟨fun h => absurd h.1 (by decide +kernel), by decide +kernel⟩, ⟨runs_load.1, by decide +kernel⟩, ⟨runs_load.2.1, by decide +kernel⟩, ?_,
    ⟨runs_load.2.2.1, by decide +kernel⟩, ⟨runs_load.2.2.2, by decide +kernel⟩, ?_⟩ <;> decide +kernel
/-- A log of one entry, to flush. -/
theorem witness_StewardActs_log :
    let e : LogEntry := ⟨0, 0, 0, 0, List.replicate 40 0, 0⟩
    (∀ x ∈ [e], x.detail.length = 40) ∧ (∀ x ∈ [e], x.seq.toNat % 65536 = e.seq.toNat % 65536 → x = e) ∧ (0 : BitVec 32).toNat ≤ e.seq.toNat := by
  decide +kernel
/-- A bundle that is accepted if its Noward signature verifies, and one that is not since its patch level is no higher. -/
theorem witness_StewardActs_bundle :
    (∃ b, bundleOf (bundleBytesOf 1) = some b ∧ (bundleBytes loadBegun (.data (bundleBytesOf 1))).2 = some (bundleBytesOf 1)
      ∧ (nowardOk ([1] ++ List.replicate 199 0) b.digest = true → Accepted loadBegun b))
    ∧ ∃ b, bundleOf (bundleBytesOf 0) = some b ∧ (bundleBytes loadBegun (.data (bundleBytesOf 0))).2 = some (bundleBytesOf 0)
      ∧ ¬ Accepted loadBegun b := by
  have img : ∀ q : QuireId, (loadBegun.quire q).image = Image.empty := by decide +kernel
  refine ⟨⟨_, rfl, by decide +kernel, fun h => ⟨by decide, fun h => absurd h (by decide), ?_, fun q => ?_, ?_, ?_⟩⟩, ⟨_, rfl, by decide +kernel, fun h => ?_⟩⟩
  · exact ⟨⟨_, rfl, h⟩, fun h => absurd h (by decide)⟩
  · rw [img]; decide
  · intro q; rw [img]; decide
  · intro q _; rfl
  · exact absurd (h.2.2.2.2.1 0) (by rw [img]; decide)

/-- The device with an in-band message in its buffer. -/
def inBandOf (bs : List Byte) : State :=
  { linked with stw := { linked.stw with cmdBusy := true, cmdLen := BitVec.ofNat 13 bs.length, buf := Cells.write [] 0 bs } }
/-- The device with the ROM monitor at a stage. -/
def monitored (b : Bst) : State := { linked with stw := { linked.stw with bst := b } }
theorem served_over_smbus (c : Instr) (ok : List Path) (mon : List Bst) (h : paths c = some (.smbus, ok, mon)) (hk : Path.smbus ∈ ok)
    (s : State) (ha : s.awake = true) (hm : ¬ Monitor s) : Served s c .smbus := ⟨ok, mon, h, ⟨ha, trivial⟩, .inl ⟨hm, hk⟩⟩
theorem up_not_monitor : ¬ Monitor up ∧ ¬ Monitor linked := by unfold Monitor; decide +kernel
theorem witness_ManagementCommands_paths :
    (paths (.getStatus .smbus) = some (.smbus, [.smbus, .vdm, .inBand], [.bootfail, .recovery, .held, .haltsafe]) ∧ ¬ Arrives State.reset .smbus)
    ∧ (paths (.debugUnlock .vdm []) = some (.vdm, [.smbus], []) ∧ Arrives linked .vdm ∧ ¬ Monitor linked ∧ Path.vdm ∉ [Path.smbus])
    ∧ (Monitor (monitored .held) ∧ Arrives (monitored .held) .smbus ∧ (monitored .held).stw.bst ∉ [Bst.bootfail, .recovery])
    ∧ (inBandBytes (.extendMr7 .inBand 5) = some (0x08 :: natBytesBE 48 5) ∧ (inBandOf (0x08 :: natBytesBE 48 5)).stw.cmdLen.toNat = 49
      ∧ (inBandOf (0x08 :: natBytesBE 48 5)).stw.buf.read 0 49 = 0x08 :: natBytesBE 48 5)
    ∧ (¬ Monitor (inBandOf []) ∧ Arrives (inBandOf []) .inBand ∧ (inBandOf []).stw.cmdLen = 0#13)
    ∧ ((inBandOf [9]).stw.cmdLen ≠ 0#13 ∧ (inBandOf [9]).stw.buf.get 0 = 9 ∧ (inBandOf [0x0F]).stw.buf.get 0 = 0x0F) := by
  unfold Monitor Arrives
  refine ⟨⟨rfl, by decide +kernel⟩, ⟨rfl, by decide +kernel⟩, ⟨by decide +kernel, ⟨by decide +kernel, trivial⟩, by decide +kernel⟩,
    ⟨by decide +kernel, by decide +kernel, by decide +kernel⟩, ⟨by decide +kernel, by decide +kernel, by decide +kernel⟩, by decide +kernel⟩
/-- A state with two log entries, with a fused-off chain and with a password. -/
theorem witness_ManagementCommands_queries :
    Served up (.getStatus .smbus) .smbus ∧ Served up (.ackAlert .smbus) .smbus ∧ Served up (.readLog .smbus 0 56 0) .smbus
    ∧ Served up (.readJournal .smbus true 0xFFFF 1) .smbus ∧ Served up (.readPort .smbus 0x700000) .smbus ∧ Served up (.extendMr7 .smbus 1) .smbus
    ∧ (hostReg 0x700000).isSome = true ∧ failedBlock up 0x700000 = none ∧ hostReg 0x300000 = none ∧ (0xFFFF : BitVec 16).toNat + 1 ≤ 65536
    ∧ (let e : LogEntry := ⟨0, 0, 0, 0, List.replicate 40 0, 0⟩
       ∀ i < 1, [e].find? (fun x => x.seq.toNat == (0 : BitVec 32).toNat + i) = [e][i]?) := by
  have h := fun c ok mon h k => served_over_smbus c ok mon h k up (by decide +kernel) up_not_monitor.1
  refine ⟨h _ _ _ rfl (by decide), h _ _ _ rfl (by decide), h _ _ _ rfl (by decide), h _ _ _ rfl (by decide), h _ _ _ rfl (by decide),
    h _ _ _ rfl (by decide), ?_⟩
  and_intros <;> decide +kernel
/-- The device in RECOVERY serves an update of slot A, and no slot is the booted one there. -/
theorem witness_ManagementCommands_images :
    Served up (.updateImage .smbus .slotB 0x3FFFFF [1]) .smbus ∧ Served up (.commit .smbus .slotA) .smbus ∧ up.stw.slot = 0#2
    ∧ 0x3FFFFF + 1 ≤ 0x400000 ∧ Served (monitored .recovery) (.commit .smbus .slotA) .smbus ∧ (monitored .recovery).stw.bst = .recovery
    ∧ up.stw.bst ≠ .recovery :=
  ⟨served_over_smbus _ _ _ rfl (by decide) up (by decide +kernel) up_not_monitor.1,
    served_over_smbus _ _ _ rfl (by decide) up (by decide +kernel) up_not_monitor.1, rfl, by decide,
    ⟨_, _, rfl, ⟨by decide +kernel, trivial⟩, .inr ⟨by unfold Monitor; decide +kernel, rfl, by decide +kernel⟩⟩, rfl, by decide +kernel⟩
/-- An owner signature block of slot i. -/
def ownerBlock (i : Byte) : List Byte := [2, i, 0, 0] ++ List.replicate 196 0
/-- Fuses of a device owned through slots 0 and 1, whose public keys are all zeros. -/
def ownedFuses : Fuses :=
  { Fuses.fresh with serial := 9, prog := 3, hash := (Fuses.fresh.hash.set 0 (Config.sha384 (List.replicate 97 0))).set 1 (Config.sha384 (List.replicate 97 0)) }
/-- An owned device. -/
def owned : State := { up with stw := { up.stw with fuses := ownedFuses } }
theorem owner_block_verifies (i : Byte) (hi : i = 0 ∨ i = 1) (d : BitVec 384)
    (hv : Config.ecdsaVerify (List.replicate 97 0) d (List.replicate 96 0) = true) : ownerCheck ownedFuses (ownerBlock i) d = .ok i.toNat := by
  have key : (ownerBlock i |>.drop 4).take 97 = List.replicate 97 0 := by rfl
  have sig : (ownerBlock i |>.drop 104).take 96 = List.replicate 96 0 := by rfl
  unfold ownerCheck
  rw [key, sig]
  dsimp only
  rw [if_neg (by simp [ownerBlock])]
  rcases hi with rfl | rfl
  · rw [dif_pos (by decide), if_neg (by simp [Fuses.valid, ownedFuses, digestOf, ownerBlock]; decide), if_pos hv]; rfl
  · rw [dif_pos (by decide), if_neg (by simp [Fuses.valid, ownedFuses, digestOf, ownerBlock]; decide), if_pos hv]; rfl
/-- What the signature check answers is not the model's to say: where it accepts, slot 2 can be programmed and slot 1 revoked. -/
theorem witness_ManagementCommands_ownerKeys :
    (Served up (.ownerKey .smbus (.program 0 1 none)) .smbus ∧ up.stw.fuses.prog.getLsbD 0 = false ∧ up.stw.fuses.prog = 0#4)
    ∧ (Served owned (.ownerKey .smbus (.program 2 1 (some (ownerBlock 0)))) .smbus ∧ ownedFuses.prog.getLsbD 2 = false
      ∧ (Config.ecdsaVerify (List.replicate 97 0) (Config.sha384 (Config.ownerKeyBytes (.program 2 1 (some (ownerBlock 0))))) (List.replicate 96 0) = true →
          ownerCheck ownedFuses (ownerBlock 0) (Config.sha384 (Config.ownerKeyBytes (.program 2 1 (some (ownerBlock 0))))) = .ok 0))
    ∧ (Served owned (.ownerKey .smbus (.revoke 1 (some (ownerBlock 0)))) .smbus ∧ ownedFuses.rev.getLsbD 1 = false ∧ ownedFuses.prog.getLsbD 1 = true
      ∧ (Config.ecdsaVerify (List.replicate 97 0) (Config.sha384 (Config.ownerKeyBytes (.revoke 1 (some (ownerBlock 0))))) (List.replicate 96 0) = true →
          ownerCheck ownedFuses (ownerBlock 0) (Config.sha384 (Config.ownerKeyBytes (.revoke 1 (some (ownerBlock 0))))) = .ok 0))
    ∧ (∃ i : Fin 4, i ≠ 1 ∧ ownedFuses.prog.getLsbD i.val = true ∧ ownedFuses.rev.getLsbD i.val = false)
    ∧ ({ ownedFuses with rev := 2 }.rev.getLsbD 1 = true) := by
  have n : ¬ Monitor owned := by unfold Monitor; decide +kernel
  refine ⟨⟨served_over_smbus _ _ _ rfl (by decide) up (by decide +kernel) up_not_monitor.1, by decide +kernel, by decide +kernel⟩,
    ⟨served_over_smbus _ _ _ rfl (by decide) owned (by decide +kernel) n, by decide +kernel, fun h => owner_block_verifies 0 (.inl rfl) _ h⟩,
    ⟨served_over_smbus _ _ _ rfl (by decide) owned (by decide +kernel) n, by decide +kernel, by decide +kernel, fun h => owner_block_verifies 0 (.inl rfl) _ h⟩,
    ⟨0, by decide +kernel⟩, by decide +kernel⟩
/-- A ring key record for this device: accepted where its signature verifies and its key unseals. -/
def ringRecord (tx : Bool) (serial : W64) : RingKeyRecord :=
  { serial := serial, port := .a, tx := tx, slot := 1, sw := tx, salt := 7, ephemeral := [], sealedKey := [], signer := ownerBlock 1 }
theorem witness_ManagementCommands_ringKeys :
    ∀ tx, Served owned (.ringKey .smbus (ringRecord tx 9)) .smbus ∧ (ringRecord tx 9).serial = owned.serial ∧ (ringRecord tx 9).tx = tx
    ∧ ¬ ((ringRecord tx 9).tx = true ∧ (owned.rp (ringRecord tx 9).port).enc = true ∧ (owned.rp (ringRecord tx 9).port).txSlot = (ringRecord tx 9).slot)
    ∧ (Config.ecdsaVerify (List.replicate 97 0) (Config.sha384 (Config.ringKeyBytes (ringRecord tx 9))) (List.replicate 96 0) = true →
        ∃ i, ownerCheck owned.stw.fuses (ringRecord tx 9).signer (Config.sha384 (Config.ringKeyBytes (ringRecord tx 9))) = .ok i)
    ∧ (ringRecord tx 4).serial ≠ owned.serial ∧ owned.ringSends = false ∧ (onRing Journal.reset).ringSends = true := by
  intro tx
  refine ⟨served_over_smbus _ _ _ rfl (by decide) owned (by decide +kernel) (by unfold Monitor; decide +kernel), rfl, rfl, ?_,
    fun h => ⟨1, owner_block_verifies 1 (.inr rfl) _ h⟩, ?_, by decide +kernel, by decide +kernel⟩
  · cases tx <;> decide +kernel
  · cases tx <;> decide +kernel
/-- A device with a debug password whose stored digest is the given one, after n failures. -/
def passworded (h : BitVec 384) (n : BitVec 4) : State :=
  { up with stw := { up.stw with cfg := { OwnerCfg.none with hash := some h, salt := [1, 2] }, pwf := n } }
/-- The digest of the password 0x41 under that salt. -/
def goodDigest : BitVec 384 := Config.sha384 ([1, 2] ++ [BitVec.ofNat 8 1] ++ [0x41])
theorem complement_differs (x : BitVec 384) : x ≠ ~~~x := by
  intro h
  have := congrArg (BitVec.getLsbD · 0) h
  simp at this
theorem witness_ManagementCommands_debug :
    (Served up (.debugUnlock .smbus [0x41]) .smbus ∧ up.stw.cfg.hash = none)
    ∧ (∀ h n, Served (passworded h n) (.debugUnlock .smbus [0x41]) .smbus ∧ (passworded h n).stw.cfg.hash = some h
        ∧ (passworded h n).stw.plk = false ∧ (passworded h n).stw.pwUntil ≤ (passworded h n).now ∧ (passworded h n).stw.pwf = n)
    ∧ (9 : BitVec 4).toNat ≤ 9 ∧ (8 : BitVec 4).toNat < 9
    ∧ Config.sha384 ((passworded goodDigest 0).stw.cfg.salt ++ [BitVec.ofNat 8 [(0x41 : Byte)].length] ++ [0x41]) = goodDigest
    ∧ ¬ Config.sha384 ((passworded (~~~goodDigest) 0).stw.cfg.salt ++ [BitVec.ofNat 8 [(0x41 : Byte)].length] ++ [0x41]) = ~~~goodDigest
    ∧ { up.stw with plk := true }.plk = true ∧ ¬ 5 ≤ 4
    ∧ Served up (.debugLock .smbus) .smbus
    ∧ (Served up (.vendorChallenge .smbus) .smbus ∧ up.stw.fuses.unlocks < 16 ∧ 16 ≤ { ownedFuses with unlocks := 16 }.unlocks)
    ∧ (Served up (.vendorResponse .smbus []) .smbus ∧ up.stw.nonce = none ∧ { up.stw with nonce := some 5 }.nonce = some 5) := by
  have h := fun c ok mon h k => served_over_smbus c ok mon h k up (by decide +kernel) up_not_monitor.1
  refine ⟨⟨h _ _ _ rfl (by decide), rfl⟩, fun d n => ⟨served_over_smbus _ _ _ rfl (by decide) _ rfl (by
      show ¬ (Bst.ready ∈ _); decide), rfl, rfl, Nat.le_refl 0, rfl⟩, by decide, by decide, rfl, complement_differs goodDigest, rfl, by decide,
    h _ _ _ rfl (by decide), ⟨h _ _ _ rfl (by decide), by decide +kernel, by decide⟩, ⟨h _ _ _ rfl (by decide), rfl, rfl⟩⟩

/-- A device whose SPDM connection over SMBus has gone so far. -/
def spdmAt (x : Spdm) : State := { up with stw := { up.stw with spdm := up.stw.spdm.set 1 x } }
theorem witness_AttestationAndTap :
    (conn .smbus = some 1 ∧ AnswersSpdm up .smbus true ∧ AnswersSpdm up .smbus false)
    ∧ ((spdmAt ⟨true, true, true, none⟩).stw.spdm[1].algs = true ∧ (spdmAt ⟨true, true, true, none⟩).stw.spdm[1].version = true
      ∧ (spdmAt ⟨true, true, true, none⟩).stw.spdm[1].caps = true ∧ up.stw.spdm[1].version = false ∧ up.stw.spdm[1].waiting = none)
    ∧ (spdmAt ⟨true, true, true, some (none, 7)⟩).stw.spdm[1].waiting = some (none, 7)
    ∧ (conn .inBand = none ∧ ¬ AnswersSpdm State.reset .smbus true)
    ∧ (up.awake = true ∧ linked.host.lup = true ∧ ¬ Monitor linked ∧ State.reset.awake = false)
    ∧ (let s := { up with pins := { up.pins with trstN := true } }
       s.pins.phase ≠ .off ∧ s.pins.trstN = true ∧ Arrives s .smbus ∧ ¬ Monitor s)
    ∧ (up.pins.trstN = false ∧ { up.pins with phase := .off }.phase = .off ∧ Arrives up .smbus ∧ ¬ Monitor up ∧ ¬ Arrives State.reset .smbus)
    ∧ ((List.replicate 32 (0x41 : Byte)).length = 32 ∧ 1 ≤ (32 : Byte).toNat ∧ (32 : Byte).toNat ≤ 32) := by
  unfold AnswersSpdm Arrives Monitor
  dsimp only
  and_intros <;> decide +kernel
/-- The measurements that R484 numbers 1, 8, 9 and 16, and 17, which it does not. -/
theorem witness_AttestationAndTap_measures :
    (∀ n ∈ [1, 8, 9, 16], (measures up n).isSome = true) ∧ 16 < (17 : BitVec 8).toNat ∧ (17 : BitVec 8) ≠ 0xFF#8 := by decide +kernel

/-- Core 0 holds a VLD, so that Dormant waits for it. -/
def unquiet : State := upWith loading
/-- A device in Dormant, or on its way there, with request r. -/
def dormantState (busy : Bool) (r : BitVec 3) : State := { up with pwr := { Power.reset with st := if busy then .run else .dormant, move := if busy then .toDormant else .still, req := r } }
theorem up_quiet : ∀ c, Quiet up c := by unfold Quiet; decide +kernel
theorem halted : ∀ e : EngId, (up.eng e).hlt = true := by decide +kernel
theorem witness_PowerAndClocks :
    (PowerActs up ∧ up.pwr.move = .still ∧ up.pwr.st ≠ .dormant ∧ ¬ PowerActs State.reset)
    ∧ (PowerActs (dormantState false 3) ∧ (dormantState false 3).pwr.st = .dormant ∧ (dormantState false 3).pwr.move = .still ∧ ((dormantState false 3).qp 7).lateSq = none)
    ∧ (PowerActs (dormantState true 3) ∧ (dormantState true 3).pwr.move = .toDormant ∧ (dormantState true 3).pwr.late = false ∧ Calm (dormantState true 3)
      ∧ ∀ c, Quiet (dormantState true 3) c)
    ∧ (let s := { up with pwr := { Power.reset with st := .dormant, move := .outSpine, goal := .trim } }
       PowerActs s ∧ Calm s ∧ s.pwr.move = .outSpine)
    ∧ (let s := { up with pwr := { Power.reset with st := .dormant, move := .outStack, goal := .trim } }
       PowerActs s ∧ Calm s ∧ s.pwr.move = .outStack ∧ s.pwr.late = false ∧ ∀ n : QpId, (s.qp n).lateSq = none ∧ (s.qp n).lateCq = none)
    ∧ (∀ late ∈ [false, true], let s := { up with
         cores := Vector.replicate 64 { runCore with ctl := { runCore.ctl with gated := true } }
         pwr := { Power.reset with move := .toActive, goal := .trim, goalQ := 1, late := late } }
       PowerActs s ∧ Calm s ∧ s.pwr.move = .toActive ∧ ∀ c : CoreId, s.pwr.goalQ.getLsbD (coreQuire c).val = true → (s.core c).gateDone = true)
    ∧ (let s := { upWith inSlot with pwr := { Power.reset with move := .toActive, goal := .idle, goalQ := 0xFF } }
       PowerActs s ∧ Calm s ∧ ¬ ∀ c : CoreId, s.pwr.goalQ.getLsbD (coreQuire c).val = true → (s.core c).gateDone = true)
    ∧ ((¬ Quiet unquiet 0) ∧ jnlInfl up = false ∧ up.jnl.pen = false ∧ up.jnl.held = 0 ∧ (∀ e : EngId, (up.eng e).hlt = true) ∧ up.stw.mcBusy = false)
    ∧ (let s := { paired { open3 with lateSq := some 4 } with pwr := { Power.reset with st := .dormant, move := .outStack, goal := .run } }; let x := s.qp 3
       PowerActs s ∧ Calm s ∧ s.pwr.move = .outStack ∧ s.pwr.late = false ∧ x.lateSq = some 4 ∧ x.lateCq = none ∧ x.en = true ∧ x.act.qe = false ∧ (4 : W64).toNat % 2 ^ 13 < x.sqn.toNat)
    ∧ (up.awake = true ∧ up.stw.hsf = false ∧ State.reset.awake = false)
    ∧ (let p := { Power.reset with tj := 100, tjV := true }; p.tjV = true ∧ p.lvl = 0 ∧ max 70 (min 100 (p.ton.toNat : Int)) ≤ p.tj.toInt)
    ∧ (let p := { Power.reset with tj := 103, tjV := true, lvl := 1, hotSince := some 0 }; p.lvl = 1 ∧ p.hotSince = some 0 ∧ 0 + 900000 ≤ 900000)
    ∧ (let p := { Power.reset with tj := 90, tjV := true, lvl := 2, coolSince := some 0 }; p.lvl = 2 ∧ p.coolSince = some 0)
    ∧ (up.pins.phase ≠ .off ∧ up.pwr.trip = false ∧ { Power.reset with trip := true }.trip = true)
    ∧ ((3 : Fin 10) ≠ 0 ∧ up.pins.pwrgood = true ∧ { up.pins with pwrgood := false }.pwrgood = false)
    ∧ (let s := { up with now := 45000, pins := { up.pins with uvSince := up.pins.uvSince.set 3 (some 0) } }
       s.pins.uvSince[(3 : Fin 10)] = some 0 ∧ 0 + 45000 ≤ s.now ∧ s.pins.pwrgood = true ∧ s.pins.uvHold = false) := by
  unfold PowerActs Calm Quiet
  dsimp only
  and_intros <;> decide +kernel

/-- A device at the end of a reset, with this in its flash, and a boot with this strap. -/
def resetting (fl : Cells 8) : State := { State.reset with stw := { State.reset.stw with flash := fl } }
def bootWith (strap : BitVec 2) (fuseOk trained : Bool) : BootInput := ⟨strap, 0, true, fuseOk, trained, 0⟩
/-- A header of R476 with security version 1, an empty firmware area and the base image at byte 64, and a Noward block after it. -/
def goodFlash : Cells 8 :=
  (Cells.write [] 0 ([0x4B, 0x4C, 0x46, 0x57, 0, 1, 1, 0, 0, 2, 0, 0, 0, 0, 0, 64, 0, 0, 0, 0, 0, 0, 0, 64, 0, 0, 0x67, 0] : List Byte)).set 26632 1
theorem good_image (hv : Config.ecdsaVerify Config.nowardKey (digestOf (goodFlash.read 0 26632)) (List.replicate 96 0) = true) :
    slotImage (resetting goodFlash) 0 = .ok 1 2 64 [] 26632 := by
  have sg : areasEnd goodFlash (slotBase 0) (goodFlash.read (slotBase 0) 64) = 26632 := by decide +kernel
  have b0 : slotBase 0 = 0 := rfl
  have blk : goodFlash.read (0 + 26632) 200 = [1] ++ List.replicate 199 0 := by decide +kernel
  have sign : imageSigned (resetting goodFlash).stw.fuses ([1] ++ List.replicate 199 0) (digestOf (goodFlash.read 0 26632)) = true := by
    have o : (resetting goodFlash).stw.fuses.owned = false := rfl
    unfold imageSigned
    rw [o]
    show (true && true && true && Config.ecdsaVerify Config.nowardKey _ (List.replicate 96 0)) = true
    rw [hv]; rfl
  show imageCheck (resetting goodFlash).stw.fuses goodFlash 0 = _
  unfold imageCheck
  dsimp only
  rw [sg, b0, blk, sign, if_neg (by decide +kernel), if_neg (by decide), if_neg (by decide +kernel)]
  decide +kernel
theorem empty_image : ∀ slot < 2, slotImage (resetting []) slot = .bad := by decide +kernel
/-- Whether the Noward signature verifies is not the model's to say: where it does, slot A boots. -/
theorem witness_ResetsAndBoot :
    (Leaves State.reset ∧ ¬ Leaves up)
    ∧ ({ State.reset.stw with bst := .vendor }.bst = .vendor ∧ State.reset.stw.bst ≠ .vendor ∧ State.reset.stw.flash.get 0x810000 = 0#8)
    ∧ ((bootWith 3 true true).strapBoot = 3#2 ∧ (bootWith 2 true true).strapBoot = 2#2 ∧ (bootWith 0 true true).strapBoot.toNat < 2
      ∧ State.reset.pins.cold = true ∧ State.reset.stw.straps.setWidth 2 = 0#2)
    ∧ (Leaves (resetting []) ∧ ∀ slot < 2, slotImage (resetting []) slot = .bad)
    ∧ (Leaves (resetting goodFlash) ∧ (resetting goodFlash).stw.flash.get 0x810000 = 0#8
      ∧ (Config.ecdsaVerify Config.nowardKey (digestOf (goodFlash.read 0 26632)) (List.replicate 96 0) = true →
          Boots (resetting goodFlash) 0 0 1 2 64 [] 26632))
    ∧ (State.reset.pins.pwrgood = true ∧ { State.reset.pins with pwrgood := false }.pwrgood = false)
    ∧ (up.pins.phase = .running ∧ { up.pins with phase := .stopping .rst }.phase = .stopping .rst ∧ State.reset.pins.phase = .asserted)
    ∧ (jnlInfl up = false ∧ jnlInfl (booked .lockedLo []) = true)
    ∧ (Accessor.steward ≠ .host ∧ 0x10000 ≤ (0x700011 : BitVec 24).toNat ∧ failedBlock up 0x700011 = none ∧ (∃ r, devPort 0x700011 = some r)
      ∧ devPort 0x7000FF = none ∧ failedBlock (failedIn 0x100000) 0x100000 = some 0)
    ∧ (0x100000 ≤ (0x700011 : BitVec 24).toNat ∧ up.pwr.st ≠ .dormant)
    ∧ ((0x01 : BitVec 24).toNat < 0x10000 ∧ (up.core 0).portBusy 0x01 = false ∧ (waiting false).portBusy 0x85 = true
      ∧ (0x01, 0xFFFFFFFFFF) ∈ heldBits) := by
  refine ⟨?_, ?_, ?_, ⟨?_, empty_image⟩, ⟨?_, by decide +kernel, fun h => ⟨good_image h, .inl rfl⟩⟩, ?_, ?_, ?_, ⟨by decide, by decide, by decide +kernel, ⟨_, rfl⟩, ?_⟩, ?_, ?_⟩
  all_goals try unfold Leaves
  all_goals and_intros
  all_goals decide +kernel

theorem witness_InstructionsStayInTheirCore :
    issuer (.add 0 (.s 1 2)) = some 0 ∧ destinations (.add 0 (.s 1 2)) = some [sreg 1] ∧ (∃ t, exec (.add 0 (.s 1 2)) up = .next t)
    ∧ issuer (.post 0 1 2) = some 0 ∧ (∃ t, exec (.post 0 1 2) up = .next t) ∧ (20 : GReg) ∉ [sreg 1] :=
  ⟨rfl, rfl, ⟨_, rfl⟩, rfl, ⟨_, rfl⟩, by decide +kernel⟩

/-! ### More states that meet hypotheses, for the clauses that name them -/

theorem witness_ArraysStayCanonical_blocks :
    let s := { up with pending := [.registerWrite .steward 0x000000 0] }; s.blockWf = true ∧ ∃ t, step s = .next t := ⟨by decide +kernel, _, rfl⟩
/-- A group of local memory that cannot be corrected, under a load; a core with its store buffer in between. -/
theorem witness_LoadsAndStores_uncorrectable :
    let k := { placed (withBase runCore 0x100) (.ld 0 .q (.reg 1) 3) with locBad := [(0x40, 1)], sbuf := [.loc 0x101 [7]] }
    goes k (.ld 0 .q (.reg 1) 3) 1 = true ∧ MayTouch k (addrOf k (.reg 1)) 4 ∧ ∃ k1, k.readLoc 0x100 4 = .bad k1 :=
  ⟨by decide +kernel, by unfold MayTouch; decide +kernel, _, rfl⟩
/-- An entry for page 10 beside the one for page 9, and DSP at their border. -/
def entry10 : TlbEntry := { entry9 with vpn := 10, frame := 0x800007 }
def atBorder (x : BitVec 40) : Core := { runCore with dtlb := [entry9, entry10], dsp := x }
theorem witness_StackAndWaiting_pages :
    (let k := placed (atBorder 0xA001) (.push 0 1); let lo := k.dsp - 4#40
     goes k (.push 0 1) 1 = true ∧ lo.toNat % 32 = 32 - 3 ∧ lo.toNat % 4096 = 4096 - 3 ∧ k.pushLoad < 7
     ∧ Translates k lo (wantWrite [0#2, 1#2, 3#2]) (entry9.pa lo) entry9 { k with dtlb := [entry9, entry10] }
     ∧ Translates { k with dtlb := [entry9, entry10] } (lo + BitVec.ofNat 40 3) (wantWrite [0#2, 1#2, 3#2]) 0x800007000 entry10
        { k with dtlb := [entry10, entry9] } ∧ entry10.mt ≠ 3#2)
    ∧ (let k := placed (atBorder 0x9FFE) (.pop 0 1)
     goes k (.pop 0 1) 1 = true ∧ k.dsp.toNat % 32 = 32 - 2 ∧ k.dsp.toNat % 4096 = 4096 - 2 ∧ k.lBusy 1 = false
     ∧ Translates k k.dsp (wantRead [0#2, 1#2, 2#2, 3#2]) (entry9.pa k.dsp) entry9 { k with dtlb := [entry9, entry10] }
     ∧ Translates { k with dtlb := [entry9, entry10] } (k.dsp + BitVec.ofNat 40 2) (wantRead [0#2, 1#2, 2#2, 3#2]) 0x800007000 entry10
        { k with dtlb := [entry10, entry9] })
    ∧ (let k := placed (atBorder 0x901F) (.pop 0 1)
     goes k (.pop 0 1) 1 = true ∧ k.dsp.toNat % 32 = 32 - 1 ∧ k.dsp.toNat % 4096 ≠ 4096 - 1
     ∧ Translates k k.dsp (wantRead [0#2, 1#2, 2#2, 3#2]) (entry9.pa k.dsp) entry9 { k with dtlb := [entry9, entry10] }) := by
  unfold Translates; decide +kernel
theorem witness_ReturnStackIsLifo_runs :
    (∀ k ∈ [called 15 0x8000, called 16 0x7C02, called 16 0x7C00, called 0 0x7FFE, called 0 0x8000], StackOk k)
    ∧ returnStack (called 0 0x8000) = [] ∧ returnStack (called 0 0x7FFE) = 0 :: [] ∧ (called 16 0x7C02).rs = List.replicate 15 0x212 ++ [0x212]
    ∧ balanced 0 [some 1, some 2, none, some 3, none, none] = true
    ∧ ∃ k1 k2, (called 15 0x8000).rsPush 0x300 = some k1 ∧ callsAndReturns k1 [some 1, some 2, none, some 3, none, none] = some k2 := by
  refine ⟨?_, by decide +kernel, by decide +kernel, by decide +kernel, by decide +kernel, _, _, rfl, rfl⟩
  unfold StackOk CleanLocal; decide +kernel
theorem witness_TranslationAndKeys_waits :
    (let k := placed { runCore with ctl := { runCore.ctl with walkBg := some (.data, 0x9004) } } (.tlbia 0)
     goes k (.tlbia 0) 2 = true ∧ k.sys.mode = true ∧ k.ctl.walkBg ≠ none) ∧ runCore.ctl.walkBg = none
    ∧ olderSkey (keying 0x800010) ⟨0, srcCore 0, 0, 1⟩ = false ∧ olderSkey (keying 0x800010) ⟨0, srcCore 1, 0, 0⟩ = true
    ∧ { keying 0x800010 with keyMark := [(0x100002, 1)] }.keyMark.get (0x800010 / 8) ≠ 0#1 := by decide +kernel

/-- Core 0 on the way to a quiesce, with the deckle group free; one whose DSU operation an isolation meets; a DSU word with right parity. -/
theorem witness_StringInstructions_held :
    (let k := placed (decked 0x10 0x20 4) (.mvs 0); let s := (upWith k).setQuire 0 { Quire.reset with quiesced := true }
     ((s.quire (coreQuire 0)).quiesced || k.ctl.gated) = true ∧ dsuCheck k .mvs = none)
    ∧ ({ stringing true with ctl := { runCore.ctl with iso := true } }.ctl.iso = true ∧ (stringing true).ctl.iso = false)
    ∧ Image.empty.parityOk 4 (dsuSlot 4 true) = true
    ∧ ((DsuProg.unit .scs).run Image.empty true true ((stringing true).modTl (fun t => { t with op := 4, md := true, ia := 0x10 })) (some 1)).isSome = true :=
  ⟨by decide +kernel, by decide +kernel, by decide +kernel, by decide +kernel⟩
/-- A core before one pattern unit, or three, with a source word at 0x100 and one digit group to go. -/
def editing (pattern : List W16) (source : W16) (n : BitVec 32) (ps : Bool) : Core :=
  { runCore with
    loc := (runCore.loc.write 0x300 pattern).write 0x100 [source]
    dk := { runCore.dk with sa := 0x100, sc := n, da := 0x400, dc := BitVec.ofNat 32 pattern.length, ep := 0x300, fill := 0x20
                            tl := { Tally.zero with ps := ps } } }
/-- It stands before p, with a first digit that is one. -/
def before (k : Core) (p : W16) : Bool :=
  k.dk.dc == 1 && k.loc.get k.dk.ep.toNat == p && decide ((k.loc.get k.dk.sa.toNat).toNat / 4096 % 16 ≤ 9) && k.dk.sc == 1 && !k.dk.tl.ps
theorem witness_StringInstructions_edit_units :
    before (editing [0xF8A0] 0x123C 1 false) 0xF8A0 = true ∧ before (editing [0xF8A1] 0x123C 1 false) 0xF8A1 = true
    ∧ before (editing [0xF8A2] 0x123C 1 false) 0xF8A2 = true ∧ before (editing [0xF8A3] 0x123C 1 false) 0xF8A3 = true
    ∧ before (editing [0x2C] 0x123C 1 false) 0x2C = true ∧ before (editing [0xF8A0] 0xA23C 1 false) 0xF8A0 = false := by decide +kernel
theorem witness_StringInstructions_edit :
    (∀ p s n ps, CleanLocal (editing p s n ps) 0x300 1 ∧ CleanLocal (editing p s n ps) 0x100 1)
    ∧ (∀ p s n ps, (editing p s n ps).dk.sc = n ∧ (editing p s n ps).dk.tl.ps = ps ∧ (editing p s n ps).dk.dc = BitVec.ofNat 32 p.length) :=
  ⟨fun _ _ _ _ => ⟨fun _ _ => rfl, fun _ _ => rfl⟩, fun _ _ _ _ => ⟨rfl, rfl, rfl⟩⟩
/-- Units at 0x100 and a field at 0x200, as a pack or unpack finds them. -/
def packing (us ws : List W16) (n m : BitVec 32) (sa da : BitVec 15) : Core :=
  { runCore with
    loc := (runCore.loc.write 0x100 us).write 0x200 ws
    dk := { runCore.dk with sa := sa, sc := n, da := da, dc := m } }
theorem witness_StringInstructions_pack :
    (let k := packing [0x2D, 0x31, 0x32] [] 3 1 0x100 0x200; let u := fun (i : Nat) => (k.loc.get (0x100 + i)).toNat
     Apart 0x100 3 0x200 1 ∧ CleanLocal k 0x100 3 ∧ CleanLocal k 0x200 1 ∧ k.dk.tl.ps = false ∧ u 0 = 0x2D
     ∧ ∀ i < 3, 1 ≤ i → 0x30 ≤ u i ∧ u i ≤ 0x39)
    ∧ (let k := packing [0x31, 0x41, 0x32] [] 3 9 0x100 0x200; 8 < k.dk.dc.toNat
       ∧ (∀ i < 3, 1 < i → 0x30 ≤ (k.loc.get (0x100 + i)).toNat ∧ (k.loc.get (0x100 + i)).toNat ≤ 0x39) ∧ (k.loc.get 0x101).toNat = 0x41)
    ∧ (let k := packing [] [0x0012, 0x345D] 2 9 0x200 0x100
       Apart 0x200 2 0x100 9 ∧ CleanLocal k 0x200 2 ∧ IsDecField ((List.range 2).map (fun i => k.loc.get (0x200 + i))) true 12345) := by
  unfold Apart CleanLocal IsDecField; decide +kernel
/-- Three units at 0x100 and a two-level table at 0x200, of which page 0 is at 0x300, page 1 is not there and page 2 lies beyond the region. -/
def tabled : Core :=
  { runCore with
    loc := ((runCore.loc.write 0x100 [0x0001, 0x0102, 0x0203]).write 0x200 [0x300, 0, 0x7F80]).write 0x301 [0x41]
    dk := { runCore.dk with sa := 0x100, sc := 3, da := 0x80, dc := 3, ep := 0x200, cset := 0x40 } }
theorem witness_MoveAndCompareStrings_tables :
    (let k := tabled; let n := k.dk.sc.toNat; let sa := k.dk.sa.toNat; let da := k.dk.da.toNat; let ep := k.dk.ep.toNat
     sa + n ≤ 0x8000 ∧ da + n ≤ 0x8000 ∧ ep + 256 ≤ 0x8000 ∧ CleanLocal k sa n ∧ da ≤ sa ∧ Apart da n ep 256
     ∧ (∀ i < n, dirEntry k (k.loc.get (sa + i)) = 0 ∨ Apart da n (dirEntry k (k.loc.get (sa + i))) 256)
     ∧ Looks k true 0x0001 (some 0x41) ∧ Looks k true 0x0102 none ∧ LookFaults k true 0x0203
     ∧ (0x41#16 &&& k.dk.cset ≠ 0#16) ∧ ¬ (0#16 &&& k.dk.cset ≠ 0#16)) := by
  unfold Looks LookFaults PageOpen CleanLocal Apart; decide +kernel

/-- A POP of two words in each of two lines; a PUSH part in the mesh queue; a slot of a bucket that does not exist. -/
theorem witness_VatAndDirectory_stack :
    (let o : LongOp := ⟨.l 2, .pop 0x80000101E 2 0x800001020 2 none none false, 5, some ⟨0, 0⟩, none, none⟩
     ((serving (.pop 0x80000101E 2 0x800001020 2 none none false)).core 0).long? (.l 2) = some o
     ∧ ItsTurn (serving (.pop 0x80000101E 2 0x800001020 2 none none false)) 0 o 0x80000101E
     ∧ ItsTurn (serving (.pop 0x80000101E 2 0x800001020 2 none none false)) 0 o 0x800001020)
    ∧ CleanMem up 0x80000101E 2 ∧ CleanMem up 0x800001020 2
    ∧ (let s := upWith { runCore with pushq := [⟨0x800001000, [1, 2, 3, 4], 5, some ⟨0, 0⟩⟩] }
       (s.core 0).pushq = ⟨0x800001000, [1, 2, 3, 4], 5, some ⟨0, 0⟩⟩ :: [] ∧ CleanMem s 0x800001000 4
       ∧ s.blocked ((⟨0, 0⟩ : Machine.Entry).age (srcCore 0) 5) (lineOf 0x800001000) = false) :=
  ⟨⟨rfl, ⟨rfl, _, rfl, by decide +kernel⟩, ⟨rfl, _, rfl, by decide +kernel⟩⟩, by unfold CleanMem; decide +kernel, by unfold CleanMem; decide +kernel,
    ⟨rfl, by unfold CleanMem; decide +kernel, by decide +kernel⟩⟩
/-- A posting whose lo line is poisoned, one that read so, one whose rights do not cover its leg, and a write window over HBM. -/
theorem witness_PostingAndDelivery_refusals :
    LineReads { booked .issued [] with vatMark := [(vatLine ((posted .issued).lo * 32), 3)] } (posted .issued).lo true
    ∧ LineReads (booked .issued []) (posted .issued).lo false ∧ LineReads (booked .lockedLo []) (posted .lockedLo).hi false
    ∧ { posted .lockedHi with bad := true }.bad = true
    ∧ (let s := { booked .lockedHi [] with keys := [(0x800020, 0x10)] }; let p := { posted .lockedHi with krr := 0 }; legKey s p p.paA = (s, false))
    ∧ (let s := { stacked with hbm := { stacked.hbm with cal := true } }; s.hbmShut 0 = true) := by
  unfold LineReads
  refine ⟨.inr ⟨rfl, by decide +kernel, by decide +kernel⟩, .inl ⟨rfl, by unfold CleanMem; decide +kernel⟩, .inl ⟨rfl, by unfold CleanMem; decide +kernel⟩, rfl,
    by rfl, by decide +kernel⟩
/-- Tables whose second level, or third, has no valid entry, and a root outside every table region. -/
theorem witness_CoreMemoryAndDevices_levels :
    (let s := { walking true 0x0000008000010001 with phys := State.reset.phys.write 0x800000000 (wordsOf 0x0000008000010001) }
     s.canTake 0 = true ∧ WalkDue s 0 .data 0x9004 ∧ TableEntry s 0 (s.core 0).cxt.root 0 0x0000008000010001 ∧ Points 0x0000008000010001 0x800001
     ∧ TableEntry s 0 0x800001 0 0 ∧ ¬ ((0 : W64).getLsbD 0 = true ∧ (0 : W64).getLsbD 1 = false))
    ∧ (let s := { walking true 0 with phys := (State.reset.phys.write 0x800000000 (wordsOf 0x0000008000010001)).write 0x800001000 (wordsOf 0x0000008000020001) }
       TableEntry s 0 0x800001 0 0x0000008000020001 ∧ Points 0x0000008000020001 0x800002 ∧ TableEntry s 0 0x800002 9 0)
    ∧ tableFrame (walking true 0).part 0xFFFFFF = false
    ∧ ({ draining (.vst 1) with pwr := { Power.reset with st := .dormant } }.spineRuns = false ∧ (draining (.vst 1)).spineRuns = true)
    ∧ failedBlock ((outTo 0x100000).setQuire 0 { Quire.reset with failed := true }) 0x100000 = some 0
    ∧ olderOwn (outTo 0x300000) ⟨0, srcCore 0, 0, 5⟩ (.core 0) = false := by
  unfold WalkDue TableEntry Points CleanMem
  dsimp only
  and_intros <;> decide +kernel
/-- A core stopped for the reload of a DSU word. -/
theorem witness_MachineChecks_reloads :
    ((checking [] [] (some true)).core 0).ctl.reload = some true ∧ ((checking [] [] (some false)).core 0).ctl.reload = some false
    ∧ ((checking [] [] (some false)).core 0).branch = none ∧ ((checking [] [] none).core 0).ctl.reload = none := by decide +kernel
/-- The broadcast with core 0's walk in progress; core 0 checkstopped, in halt-safe. -/
theorem witness_WardenActs_walks :
    (let s := shooting.setCore 0 { runCore with ctl := { runCore.ctl with walkBg := some (.data, 0x9004) } }
     ShootTarget.core 0 ∈ (s.quire 0).shoot.waiting ∧ (s.core 0).ctl.walkBg ≠ none ∧ (s.core 0).ctl.gated = false ∧ (s.core 0).ctl.cks = false
     ∧ (s.core 0).ctl.iso = false) ∧ (shooting.core 0).ctl.walkBg = none
    ∧ { up with stw := { up.stw with hsf := true } }.stw.hsf = true ∧ (up.qp 3).stop = false := by decide +kernel

/-- A mould of one inbound field: two bytes of a record of 4 by COPY into the second of 3 units. -/
def copyMould : Cells 16 := (Cells.write [] 5 [0x50]).write 0x50 [1, 4, 3, 0, 0x0001, 0x0001, 0x0102, 0]
/-- A descriptor of two records from the host, under that mould, to core 4. -/
def recordWords : List W16 := descWords 0x2000 (ramAddr 4 false 0x200) 8 5 0 false false 0 7
/-- The state of engine 5 with a descriptor of its ring under way, linked. -/
def streaming (ws : List W16) (x : Engine) : State :=
  { linked with
    engines := State.reset.engines.set 5 { x with cur := some { running ws with place := .ram 9 true 0x40 } }
    hbm := { Hbm.reset with rdy := true } }
theorem witness_StreamDescriptors_records :
    let s := streaming recordWords { ringed (ramAddr 9 true 0x40) with mould := copyMould }; let d := descOf recordWords
    let bs : List Byte := [1, 2, 3, 4, 5, 6, 7, 8]
    EngineRuns s 5 { running recordWords with place := .ram 9 true 0x40 } ∧ d.mld ≠ 0
    ∧ (∃ g, mouldAt (s.eng 5).mould d.mld = some g ∧ g.out = false ∧ d.cnt = 2 * g.rs
        ∧ g.convert (s.eng 5).mould [1, 2, 3, 4] = .ok [(1, 0x0203)] false ∧ g.convert (s.eng 5).mould [5, 6, 7, 8] = .ok [(1, 0x0607)] false
        ∧ 0x200 + 2 * g.ds ≤ 0x8000)
    ∧ skind d.src = .host ∧ s.host.lup = true ∧ s.host.cfg[(0 : FnId)].bme = true ∧ bs.length = d.cnt ∧ d.slot = false
    ∧ (hostAddr d.src) % s.readMax + d.cnt ≤ s.readMax ∧ d.dst = ramAddr 4 false 0x200 := by
  unfold EngineRuns
  exact ⟨by decide +kernel, by decide +kernel, ⟨_, rfl, by decide +kernel⟩, by decide +kernel⟩
/-- Copies to the host, and to and from page 9 of the Vat. -/
def virt9 : W64 := BitVec.ofNat 64 (2 ^ 62 + 0x9004)
theorem witness_StreamDescriptors_copies :
    let x := { ringed (ramAddr 9 true 0x40) with xctx := ⟨0x800000, 0, true⟩, krr := 0xFFFFFFFF }
    let toHost := descWords (ramAddr 3 false 0x100) 0x4000 16 0 0 false false 0 7
    let toVirt := descWords (ramAddr 3 false 0x100) virt9 16 0 0 false false 0 7
    let fromVirt := descWords virt9 (ramAddr 3 false 0x100) 16 0 0 false false 0 7
    (∀ ws ∈ [toHost, toVirt, fromVirt], EngineRuns (streaming ws x) 5 { running ws with place := .ram 9 true 0x40 } ∧ (descOf ws).cnt = 2 * 8
      ∧ (descOf ws).mld = 0 ∧ (descOf ws).slot = false)
    ∧ skind (descOf toHost).dst = .host ∧ (hostAddr (descOf toHost).dst) % linked.payloadMax + 2 * 8 ≤ linked.payloadMax
    ∧ skind (descOf toVirt).dst = .virt ∧ skind (descOf fromVirt).src = .virt ∧ virtAddr virt9 = 0x9004 ∧ x.xctx.v = true
    ∧ (∀ w ∈ [wantWrite [0#2, 1#2], wantRead [0#2, 1#2, 2#2]], translate [entry9] x.xctx.tag true x.krr 0x9004 w = .ok 0x800001004 entry9)
    ∧ CleanMem up 0x800001004 8 ∧ up.mustWait (srcEng 5) 0x800001004 = false
    ∧ (let e := { entry9 with r := false }; translate [e] x.xctx.tag true x.krr 0x9004 (wantRead [0#2, 1#2, 2#2]) ≠ .miss
        ∧ translate [e] x.xctx.tag true x.krr 0x9004 (wantRead [0#2, 1#2, 2#2]) ≠ .ok 0x800001004 e)
    ∧ Engine.reset.xctx.v = false := by
  unfold EngineRuns CleanMem
  and_intros <;> decide +kernel
/-- Fields of MAP8 and UNMAP8 whose map has the units asked for; an integer that fits and one that does not; a zoned field; units of UTF-8. -/
theorem witness_StreamDescriptors_conversions :
    (let f : MField := { cv := 1, so := 0, dO := 0, map := 0, sl := 2, dl := 3, w3 := 4 }; f.so + f.sl ≤ [(1 : Byte), 2].length ∧ f.dl ≥ 2)
    ∧ (let m := Cells.write [] 2048 [(7 : W16), 8]; m.get (2048 + 0 * 256 + 1) = 8)
    ∧ intIn true false 1 [0xFF] = some [0xFFFF] ∧ intIn false false 1 [1, 0, 0] = none
    ∧ fieldBad [0x123C] = none ∧ (fieldVal [0x123C]).mag < 10 ^ (4 * 1 - 1) ∧ zonedOut 0 3 [0x123C] = some [1, 2, 3]
    ∧ (utf8Encode 2 [0xD83D, 0xDE00]).2 = false := by decide +kernel

/-- A device that exchanges sheets, and one in INSERT. -/
theorem witness_JournalSheets_talks :
    Talks (onRing Journal.reset) ∧ ¬ Talks (ringAt .insert false 0)
    ∧ (let j := { Journal.reset with mv := true, msrc := 1, mhi := 4 }; sourceOk (onRing j) = true ∧ j.mhi ≠ 0#64) := by
  unfold Talks; decide +kernel
/-- An IN of core 0 that stands at the block of the port that the host, or the Steward, accesses. -/
theorem witness_HostInterface_waits :
    NoneOlder linked .host 0x700000
    ∧ (let s := { linked with now := 9, cores := (inFrom 0x700000).cores }; ¬ NoneOlder s .host 0x700001 ∧ Reaches s 0)
    ∧ NoneOlder up .steward 0x700011 ∧ ¬ NoneOlder { up with now := 9, cores := (outTo 0x700000).cores } .steward 0x700011 := by
  unfold NoneOlder Reaches
  have none1 : ∀ c, (linked.core c).longs = [] := by decide +kernel
  have none2 : ∀ c, (up.core c).longs = [] := by decide +kernel
  refine ⟨⟨fun c o ho => ?_, by decide +kernel, by decide +kernel⟩, ⟨fun h => ?_, by decide +kernel⟩,
    ⟨fun c o ho => ?_, by decide +kernel, by decide +kernel⟩, fun h => ?_⟩
  · rw [none1] at ho; cases ho
  · exact absurd (h.1 0 ⟨.l 2, .devIn 0x700000, 5, some ⟨0, 0⟩, none, none⟩ (by decide +kernel) 0x700000 ⟨0, 0⟩ rfl rfl rfl (by decide +kernel)) (by decide +kernel)
  · rw [none2] at ho; cases ho
  · exact absurd (h.2.1 0 ⟨0x700000, 7, 5, ⟨0, 0⟩⟩ (by decide +kernel) (.inl (by decide +kernel))) (by decide +kernel)
theorem witness_HostInterface_retry :
    (let s := { linked with stw := { linked.stw with bst := .rom } }; s.host.lup = true ∧ s.answersConfig = false)
    ∧ linked.answersConfig = true ∧ linked.host.nvf.toNat < (9 : FnId).val ∧ (1 : FnId).val ≤ linked.host.nvf.toNat := by decide +kernel
/-- A ring descriptor with a HOST source, and one between cores, on a linked device with an enabled queue pair of VF 1. -/
theorem witness_QueuePairs_resets :
    ((paired open3).host.lup = true ∧ (paired open3).answersConfig = true ∧ ((paired open3).qp 3).en = true ∧ ((paired open3).qp 3).act.fn = 1)
    ∧ (descOf recordWords).src.toNat < 2 ^ 62 ∧ ¬ ((descOf copyWords).src.toNat < 2 ^ 62)
    ∧ ((streaming recordWords Engine.reset).eng 5).cur = some { running recordWords with place := .ram 9 true 0x40 } := by decide +kernel
/-- A load under way for quires 1 and 2, whose verification fails in the second. -/
theorem witness_StewardActs_verify :
    let s := { loadRunning false with stw := { (loadRunning false).stw with mcTodo := [(1, Image.empty), (2, Image.empty)] } }
    LoadRuns s ∧ s.stw.mcTodo = [(1, Image.empty)] ++ (2, Image.empty) :: [] ∧ (∀ x ∈ [((1 : QuireId), Image.empty)], quireStopped s x.1 = true ∧ ¬ Fails (.restored 2) x.1)
    ∧ quireStopped s 2 = true ∧ Fails (.restored 2) 2 ∧ Fails (.failed 17) 2 ∧ ¬ Fails .ok 2 := by
  unfold LoadRuns
  refine ⟨by decide +kernel, rfl, fun x hx => ?_, by decide +kernel, .inl rfl, .inr ⟨17, rfl, rfl⟩, fun h => ?_⟩
  · obtain rfl : x = (1, Image.empty) := by simpa using hx
    refine ⟨by decide +kernel, fun h => ?_⟩
    rcases h with h | ⟨c, h, _⟩
    · exact absurd h (by decide)
    · exact absurd h (by simp)
  · rcases h with h | ⟨c, h, _⟩ <;> exact absurd h (by simp)
/-- A core that does not execute; the phases of the flush; Dormant at the ring and at the stack. -/
theorem witness_ResetsAndBoot_writes :
    up.runs 0 = true ∧ State.reset.runs 0 = false ∧ (up.core 0).sys.mode = true ∧ up.pins.phase = .running ∧ State.reset.pins.phase ≠ .running
    ∧ asleep.spineRuns = false ∧ { stacked with pwr := { Power.reset with st := .dormant } }.pwr.spine = false ∧ stacked.pwr.spine = true
    ∧ (paired open3).host.lup = true := by decide +kernel

/-! ### Worked examples of the spec -/

/-- Words written out from the layouts of R100 and the opcode tables: ADD G1,G2; ADD G20,G21,G22; ADDI G8,G8,−1; LD.Q G1,[G2];
TLBIA.F. -/
theorem test_decode_integer :
    decodeWords 0 [0x0212] = some (.add 0 (.s 1 2)) ∧ decodeWords 0 [0x1000, 0b1010010101101100] = some (.add 0 (.w 20 21 22))
    ∧ decodeWords 0 [0x1200, 0b0100001000000000, 0xFFFF] = some (.addi 0 8 8 0xFFFF)
    ∧ decodeWords 0 [0x0E12] = some (.ld 0 .q (.reg 2) 1) ∧ decodeWords 0 [0x3812, 0x0000] = some (.tlbiaF 0) := by decide +kernel
/-- DLD A4,[G1+0] with n = 3; DADD A1,A2,A3; MVS; FADD; VLD L3,[G5]; POST. -/
theorem test_decode_data :
    decodeWords 0 [0x4003, 0b0010000001000000, 0x0000] = some (.dld 0 4 1 0 3)
    ∧ decodeWords 0 [0x4200, 0b0000100010000110] = some (.dadd 0 1 2 3) ∧ decodeWords 0 [0x5000] = some (.mvs 0)
    ∧ decodeWords 0 [0x6000, 0b0000100010000110] = some (.fadd 0 1 2 3) ∧ decodeWords 0 [0x7000, 0b0001100101000000] = some (.vld 0 3 5)
    ∧ decodeWords 0 [0x7101, 0b0001000100000000] = some (.post 0 2 4) := by decide +kernel
/-- R102: the word of zeros, a reserved bit, a reserved field and a sub-opcode not listed. -/
theorem test_decode_refuses :
    decodeWords 0 [0x0000] = none ∧ decodeWords 0 [0x1000, 0b1010010101101101] = none ∧ decodeWords 0 [0x5009] = none
    ∧ decodeWords 0 [0x7000, 0b0100000101000000] = none := by decide +kernel
/-- The example of chapter 14: where word address 0x1_2345_6789 lies. -/
theorem test_hbm_place : hbmPlace 0x123456789 = { word := 9, pc := 12, column := 0b00110, bank := 9, row := 0x11A2, stackId := 1 } := by
  decide +kernel
/-- HC_INJ of one byte with two correctable symbols, and of two bytes with one. -/
def injected (m cm : BitVec 2) : State := hbmWrite (injecting m cm) 0 (List.replicate 16 0x1234)
theorem test_injection :
    (match burstSt (injected 1 0) 0 with | .corrected _ => true | _ => false) = true ∧ wordAsRead (injected 1 0) 0 = 0x1234
    ∧ burstSt (injected 2 1) 0 = .uncorrectable := by decide +kernel


/-- The result for a register that a command has put in flight, or else what the register holds. -/
def willG (k : Core) (r : GReg) : W64 :=
  (k.flights.findSome? fun f => match f.dst with | .g q v => if q = r then some v else none | _ => none).getD (k.gr r)
def willA (k : Core) (r : AReg) : Acc :=
  (k.flights.findSome? fun f => match f.dst with | .a q v => if q = r then some v else none | _ => none).getD (k.ac r)
/-- A core with four words in its X bank at 0x100, which G1 addresses, and a quad in G2. -/
def ordered : Core :=
  { runCore with g := (runCore.g.set 1 0x100).set 2 0x0123456789ABCDEF, loc := runCore.loc.write 0x100 [0x0123, 0x4567, 0x89AB, 0xCDEF] }
/-- The example of R8: a quad's words, and a one-word load of one of them. -/
theorem test_store_word_order : (ran (.st 0 .q (.reg 1) 2) ordered).sbuf = [.loc 0x100 [0x0123, 0x4567, 0x89AB, 0xCDEF]] := by
  decide +kernel
theorem test_load_one_word : willG (ran (.ld 0 .w (.disp 1 2) 3) ordered) 3 = 0x89AB := by decide +kernel
/-- The example of chapter 3: a load inside a buffered store is forwarded from it. -/
theorem test_load_forwards :
    willG (ran (.ld 0 .d (.disp 1 1) 3) { runCore with g := runCore.g.set 1 0x20, sbuf := [.loc 0x20 [1, 2, 3, 4]] }) 3 = 0x20003 := by
  decide +kernel
/-- The example of chapter 3: 47 − 100. -/
theorem test_sub_below_zero :
    let k := ran (.sub 0 (.s 1 2)) (withPair 47 100); k.gr 1 = BitVec.ofInt 64 (-53) ∧ k.fl = { Flags.zero with n := true } := by
  decide +kernel
/-- The example of chapter 4: the second sum carries, and the carry comes into the upper quad. -/
theorem test_add_carries :
    let k := ran (.add 0 (.s 1 2)) (withPair 0xFFFFFFFFFFFFFFF0 0x20); k.gr 1 = 0x10 ∧ k.fl = { Flags.zero with c := true } := by
  decide +kernel
theorem test_addc_takes_carry :
    (ran (.addc 0 (.s 1 2)) { withPair 0 0 with fl := { Flags.zero with c := true } }).gr 1 = 1 := by decide +kernel
/-- The examples of division (R105). -/
theorem test_div :
    (let k := ran (.div 0 4 1 2) (withPair (-7) 2); k.gr 4 = -3 ∧ k.gr 5 = -1)
    ∧ (let k := ran (.div 0 4 1 2) (withPair 7 (-2)); k.gr 4 = -3 ∧ k.gr 5 = 1) := by decide +kernel
theorem test_divu :
    let k := ran (.divu 0 4 1 2) (withPair 0xFFFFFFFFFFFFFFF9 2); k.gr 4 = 0x7FFFFFFFFFFFFFFC ∧ k.gr 5 = 1 := by decide +kernel
/-- The example of chapter 16: MOVIU, then MOVH. -/
theorem test_movh : (ran (.movh 0 8 0x000FFFFF) { runCore with g := runCore.g.set 8 0xFFFFFFFF }).gr 8 = 0x000FFFFFFFFFFFFF := by
  decide +kernel
/-- The example of chapter 2: a spill on a deep call, and the spill of the whole hardware top. -/
theorem test_call_spills :
    let k := { called 16 0x8000 with pc := 0x1400 }
    let t := ran (.callRegister 0 false 5) k
    t.rsp = 0x7FFE ∧ t.rs.length = 16 ∧ t.rs.head? = some 0x1402 := by decide +kernel
theorem test_spill_words :
    (({ called 16 0x8000 with sbuf := [] }.rsPush 0x2402).map fun t => [0x7FFE, 0x7FFF].map (localWords t · 1)) = some [[0x0000], [0x0212]] := by
  decide +kernel
theorem test_out_rsd_spills_all :
    let k := { called 16 0x7FFE with rs := 0x2402 :: List.replicate 15 0x300 }
    let t := ran (.outRsd 0 .imm 1) k
    t.rsp = 0x7FDE ∧ t.rs = [] := by decide +kernel

/-- The examples of chapter 5: a field, the four steps of the running total, and conversions. -/
theorem test_dld : (willA (ran (.dld 0 4 1 0 3) withFields) 4) = fixedOf false 0x125000000 := by decide +kernel
/-- A pair A2, A3, an addend in A4, and DC. -/
def total (hi lo x : BitVec 136) (dc : Bool) : Core :=
  { runCore with
    a := ((runCore.a.set 2 (fixedOf false hi)).set 3 (fixedOf false lo)).set 4 (fixedOf false x), fl := { Flags.zero with dc := dc } }
theorem test_daddc_first :
    let k := ran (.daddc 0 true 3 3 4) (total 3 0x9993000000000000000000000000000500 0x0008000000000000000000000000000250 false)
    willA k 3 = fixedOf false 0x0001000000000000000000000000000750 ∧ k.fl = { Flags.zero with dc := true } := by decide +kernel
theorem test_daddc_next :
    let k := ran (.daddc 0 false 2 2 5) (total 3 0 0 true); willA k 2 = fixedOf false 4 ∧ k.fl = Flags.zero := by decide +kernel
theorem test_dsubc_first :
    let k := ran (.dsubc 0 true 3 3 4) (total 3 0x0001000000000000000000000000000750 0x0002000000000000000000000000001000 false)
    willA k 3 = fixedOf false 0x9998999999999999999999999999999750 ∧ k.fl = { Flags.zero with dc := true } := by decide +kernel
theorem test_dsubc_next :
    let k := ran (.dsubc 0 false 2 2 5) (total 4 0 0 true); willA k 2 = fixedOf false 3 ∧ k.fl = Flags.zero := by decide +kernel
theorem test_dcvb_least :
    let k := fun u => ran (.dcvb 0 u 1 0) { runCore with a := runCore.a.set 0 (fixedOf true 0x9223372036854775808) }
    willG (k false) 1 = 0x8000000000000000 ∧ (k false).fl.v = false ∧ willG (k true) 1 = 0x8000000000000000 ∧ (k true).fl.v = true := by
  decide +kernel
theorem test_dcvb_wraps :
    let k := ran (.dcvb 0 true 1 0) { runCore with a := runCore.a.set 0 (fixedOf false 0x18446744073709551617) }
    willG k 1 = 1 ∧ k.fl.v = true := by decide +kernel
/-- Account 2 of the accrual example: 8,341,755 cents at 958,904. -/
theorem test_dmac :
    let k := { runCore with
      g := (runCore.g.set 1 0x104).set 2 0x4104
      loc := (runCore.loc.write 0x104 [0, 0, 0x8341, 0x755C]).write 0x4104 [0, 0, 0x0958, 0x904C] }
    willA (ran (.dmac 0 false false false 1 1 2) k) 1 = fixedOf false 0x7998942236520 := by decide +kernel

/-- The statement line of chapter 6. -/
def statement : Core := { runCore with
  pc := 0x520
  loc := (runCore.loc.write 0x100 [0x0123, 0x450D]).write 0x300
    [0xF8A0, 0xF8A0, 0x002C, 0xF8A0, 0xF8A0, 0xF8A1, 0x002E, 0xF8A0, 0xF8A0, 0xF8A3, 0x0020, 0x0043, 0xF8A3, 0x0020, 0x0052]
  dk := { runCore.dk with sa := 0x100, sc := 2, da := 0x400, dc := 15, ep := 0x300, fill := 0x20 }
  longs := [⟨.dsu, .dsu 6 false 0x520 true false none, 0, none, none, none⟩] }
theorem test_edsm :
    let k := coreAfter (.longOpDeliver 0 .dsu) (upWith statement)
    k.loc.read 0x400 11 = [0x20, 0x31, 0x2C, 0x32, 0x33, 0x34, 0x2E, 0x35, 0x30, 0x43, 0x52] ∧ k.dk.mark = 0x401 ∧ k.dk.mv = true
    ∧ k.dk.sa = 0x102 ∧ k.dk.sc = 0 ∧ k.dk.tl.neg = true ∧ k.dk.tl.ps = true := by decide +kernel

/-- The overflow of chapter 7: flags overflow and inexact, a request for overflow with the address and word 0. -/
theorem test_fmul_overflows :
    let k := { withPair 0x7FEFFFFFFFFFFFFF 0x4000000000000000 with pc := 0x100, sys := { runCore.sys with fpen := 4 } }
    let t := ran (.fmul 0 3 1 2) k
    willG t 3 = 0x7FF0000000000000 ∧ ⟨.fp 0x14 (some ⟨4, 0x100, 0x6002, 0⟩), 3⟩ ∈ t.flights := by decide +kernel
theorem test_floating_trap :
    let k := { runCore with pc := 0x105, fpDue := [⟨4, 0x100, 0x6002, 0⟩], sys := { runCore.sys with fpen := 4, fpsf := 0x14 } }
    let t := coreAfter (.floatingTrap 0) (upWith k)
    t.sys.x.xpc = 0x105 ∧ t.sys.x.xad = 0x100 ∧ t.sys.fop = 0x6002 := by decide +kernel
/-- The least and the greatest decimal128 of R189. -/
theorem test_dqld_least :
    let t := ran (.dqld 0 1 1) { withPair 0x100 0 with loc := runCore.loc.write 0x100 [0, 0, 0, 0, 0, 0, 0, 1] }
    willA t 1 = { Acc.zero with tag := 1, exp := BitVec.ofInt 16 (-6176), dig := 1 } := by decide +kernel
theorem test_dqst_greatest :
    let x : Acc := { Acc.zero with tag := 1, exp := 6111, dig := 0x9999999999999999999999999999999999 }
    (ran (.dqst 0 1 1) { withPair 0x100 0 with a := runCore.a.set 1 x }).sbuf
      = [.loc 0x100 [0x77FF, 0xCFF3, 0xFCFF, 0x3FCF], .loc 0x104 [0xF3FC, 0xFF3F, 0xCFF3, 0xFCFF]] := by decide +kernel

/-- The postings of chapter 8, and the entry of chapter 9: posting 1 closes with its sequence number, and is refused for 1,500.00. -/
theorem test_post_close :
    let t := after (.postClose 0) (booked .lockedHi [(0x40001020, 0), (0x400018E2, 0)])
    t.posts.map (fun p => (p.newA, p.newB, p.phase)) = [([0, 0, 0x0095, 0x000C], [0, 0, 0x0032, 0x530C], .closed 0 0x317A40)]
    ∧ t.jnl.next = 0x317A41 := by decide +kernel
theorem test_journal_entry :
    (after (.postClose 0) (booked .lockedHi [(0x40001020, 0), (0x400018E2, 0)])).phys.read (tailSlot 0x317A40) 16
      = [0x0000, 0x0000, 0x0031, 0x7A40, 0x0000, 0x0000, 0x00A1, 0x0F33, 0x0000, 0x0000, 0x0025, 0x000C, 0x4000, 0x1020, 0x4000, 0x18E2] := by
  decide +kernel
theorem test_post_refused :
    postCompute { posted .lockedHi with amt := [0, 0, 0x0150, 0x000C] } [0, 0, 0x0095, 0x000C] [0, 0, 0x0032, 0x530C] [0, 0, 0x0050, 0x000D]
      = .error 0x1 := by rfl
/-- The window and the record of chapter 10. -/
theorem test_swin_enable :
    (coreAfter (.swinEnable 0 0 0x3440800) up).win[(0 : WinId)] = { Window.zero with base := 0x800, lsz := 4, nsl := 4, ie := true, en := true } := by
  decide +kernel
def swaiting : Core := { runCore with
  longs := [⟨.l 1, .swait 0, 3, none, none, none⟩]
  win := runCore.win.set 0 { Window.zero with base := 0x800, lsz := 4, nsl := 4, en := true, wr := 1, queue := [0x0003004100105000], inUse := [0] } }
theorem test_swait_deliver :
    let t := coreAfter (.swaitDeliver 0 0) (upWith swaiting)
    t.l[(1 : LRegId)].val = 0x0003004100105000 ∧ t.win[(0 : WinId)].own = true ∧ t.win[(0 : WinId)].osl = 0 := by decide +kernel

/-- The walk of chapter 11 fills the group of the leaf. -/
theorem test_walk_fills_group :
    let k := { runCore with cxt := ⟨0x800400, 0x2A, true⟩, ctl := { runCore.ctl with need := some (.data, 0x0100000400) } }
    let s := { upWith k with
      phys := ((State.reset.phys.write 0x800400004 [0, 0x80, 0x401, 1]).write 0x800401000 [0, 0x80, 0x402, 1]).write 0x800402000 [0, 0x80, 0x20, 0x0AAF] }
    (coreAfter (.tlbWalk 0 .data 0x0100000400) s).dtlb
      = [⟨0x100000, 5, 0x800020, true, true, false, true, false, 1, 0x02A, 0, 0, false, 0⟩] := by decide +kernel
theorem test_tlb_shoot :
    let x := ((after (.tlbShoot 2 0x00000002A0100000) up).quire 2).shoot; x.op = 0 ∧ x.tag = 0x02A ∧ x.vpn = 0x100000 := by decide +kernel
/-- The fault in a delay slot of chapter 12 (with the program in the local RAM). -/
theorem test_fault_in_slot :
    let k := { tenant with
      pc := 0x102, branch := some ⟨0xF0, 0x100, .none, none⟩, fl := { Flags.zero with c := true }, cxt := ⟨0x800400, 0x2A, true⟩
      ctl := { tenant.ctl with need := some (.data, 0x0240000010) }
      sys := { tenant.sys with ie := true, x := { tenant.sys.x with xvb := 0x800 } } }
    let s := { upWith k with phys := (State.reset.phys.write 0x800400008 [0, 0x80, 0x401, 1]).write 0x800401400 [0, 0x80, 0x402, 1] }
    let t := coreAfter (.tlbWalk 0 .data 0x0240000010) s
    t.pc = 0x890 ∧ t.sys.x.xpc = 0x102 ∧ t.sys.x.xtgt = 0xF0 ∧ t.sys.x.xms = 6 ∧ t.sys.x.cause = 9 ∧ t.sys.x.xds = true ∧ t.sys.x.lvl = 3
    ∧ t.sys.x.xad = 0x0240000010 ∧ t.sys.mode = true ∧ t.sys.ie = false := by decide +kernel
/-- JNL_STAT of chapter 20, as the bytes of an 8-byte read of BAR0. -/
theorem test_jnl_stat :
    (after (.bar0Read 0x1800808 8) { linked with jnl := { Journal.reset with pen := true, rpe := true, rep := true, hbm := 300, next := 301 } }).out
      = [.cplData [0x02, 0x00, 0x2C, 0x01, 0, 0, 0, 0] false] := by decide +kernel
/-- Queue pair 3 of chapter 16: enabled with 1,024 entries of both queues. -/
theorem test_queue_pair_enable :
    let s := { linked with qps := linked.qps.set 3 { QueuePair.reset with sqb := 0x840000, cqb := 0x840010, cores := 0x300000 } }
    let x := (after (.queuePairEnable 3 0x04000400) s).qp 3
    x.en = true ∧ x.sqn = 1024 ∧ x.cqn = 1024 := by decide +kernel
end Sys2Proof.Tests
end

