-- ==== Sys2Proof/Proofs/CoreReset.lean ====
section
/-!
PROOFS. The core out of reset (R30). A core's fetch takes a word that it has fetched already before it looks at the instruction RAM
(R35, R73), so what R30 says of the first fetch holds of a core with no such word at its pc.
-/
namespace Sys2Proof.Machine

/-! ### The core held by its warden -/

/-- A core that its warden holds does not execute (R30). -/
theorem State.runs_of_held {s : State} {c : CoreId} (h : (s.core c).ctl.run = false) : s.runs c = false := by
  simp [State.runs, h]

/-- A core that does not execute issues nothing. -/
theorem State.canIssue_of_not_runs {s : State} {c : CoreId} (h : s.runs c = false) : s.canIssue c = false := by
  simp [State.canIssue, h]

/-- NOP goes through the issue of a plain instruction (R121). -/
theorem exec_nop (c : CoreId) (s : State) : exec (.nop c) s = issue s c (.nop c) plain (simple (fun k => (k, []))) := rfl

/-- NOP changes nothing where the warden holds the core (R30). -/
theorem exec_nop_of_held {s : State} {c : CoreId} (h : (s.core c).ctl.run = false) : exec (.nop c) s = .next s := by
  rw [exec_nop, issue_idle (State.canIssue_of_not_runs (State.runs_of_held h))]

/-- Every core of the device after a cold reset is in its reset state. -/
@[simp] theorem State.reset_core (c : CoreId) : State.reset.core c = Core.reset := by
  simp [State.core, State.reset]

/-- Stage READY changes of a core only that its warden releases it (R30, R480). -/
theorem readyStage_core (s : State) (c : CoreId) :
    (readyStage s).core c = { s.core c with ctl := { (s.core c).ctl with run := true } } := by
  simp [readyStage, State.core]

/-! ### The first fetch -/

/-- A word fetched earlier is what the fetch brings (R35, R73). -/
theorem fetchWord_of_ahead {k : Core} {a : BitVec 32} {w : W16} (h : k.aheadAt a = some w) : fetchWord k a = .ok w k := by
  simp [fetchWord, h]

/-- In Service mode a fetch below I-space 0x2000, of a word that is not fetched yet and reads without error, brings what the
instruction RAM holds (R33). -/
theorem fetchWord_iram {k : Core} {a : BitVec 32} (ahead : k.aheadAt a = none) (low : a.toNat < 0x2000)
    (service : k.sys.mode = true) (good : k.iramBad.get (a.toNat / 4) = 0#1) :
    fetchWord k a = .ok (k.iram.get a.toNat) k := by
  simp [fetchWord, fetchFresh, ahead, low, service, good]

/-- What R30 says, where the core has not fetched the word at pc 0 before: the statement of O5 with this one hypothesis added to its
last clause. -/
theorem coreLeavesReset_of_nothing_ahead :
    (∀ c : CoreId, (State.reset.core c).sys.mode = true ∧ (State.reset.core c).sys.ie = false ∧ (State.reset.core c).pc = 0#32
      ∧ State.reset.runs c = false)
    ∧ (∀ (s : State) (c : CoreId), (s.core c).ctl.run = false → s.runs c = false ∧ exec (.nop c) s = .next s)
    ∧ (∀ (s : State) (c : CoreId), ((readyStage s).core c).ctl.run = true)
    ∧ (∀ k : Core, k.aheadAt 0#32 = none → k.pc = 0#32 → k.sys.mode = true → k.iramBad.get 0 = 0#1 →
        fetchWord k k.pc = .ok (k.iram.get 0) k) := by
  refine ⟨fun c => ?_, fun s c held => ⟨State.runs_of_held held, exec_nop_of_held held⟩, fun s c => ?_, ?_⟩
  · have held : (State.reset.core c).ctl.run = false := by rw [State.reset_core]; rfl
    refine ⟨?_, ?_, ?_, State.runs_of_held held⟩ <;> rw [State.reset_core] <;> rfl
  · rw [readyStage_core]
  · intro k ahead pc service good
    rw [pc]
    exact fetchWord_iram ahead (by decide) service good

/-! ### A core whose first word is rewritten after its fetch -/

/-- A core that its warden has just released. -/
def Core.released : Core := { Core.reset with ctl := { Ctl.reset with run := true } }

/-- That core when it has fetched word 0 and a stream then writes 1 there, as State.ramPut does with a free value of 1 (R35). -/
def Core.rewrittenAtZero : Core :=
  ramWrite { Core.released with ahead := Core.released.aheadFrom Core.released.pc 1 } true 0 [(0, ⟨1, 0, false⟩)]

/-- It stands as R30 leaves it, and the fetched word 0 still waits in it, where its instruction RAM now holds 1. -/
theorem Core.rewrittenAtZero_state :
    Core.rewrittenAtZero.pc = 0#32 ∧ Core.rewrittenAtZero.sys.mode = true ∧ Core.rewrittenAtZero.iramBad.get 0 = 0#1
      ∧ Core.rewrittenAtZero.aheadAt 0#32 = some 0 ∧ Core.rewrittenAtZero.iram.get 0 = 1 := by
  decide

/-- Refutes O5: its last clause leaves out that no word at pc 0 has been fetched earlier. The released core at pc 0 that fetched word
0 before a stream rewrote it still gets the old word (R35), and the clause asks for the new one. The rest of the statement
holds: coreLeavesReset_of_nothing_ahead. -/
theorem not_coreLeavesReset : ¬ Obligations.CoreLeavesReset := by
  rintro ⟨-, -, -, firstFetch⟩
  obtain ⟨pc, service, good, ahead, iram⟩ := Core.rewrittenAtZero_state
  have new : fetchWord Core.rewrittenAtZero 0#32 = .ok 1 Core.rewrittenAtZero := by
    simpa only [pc, iram] using firstFetch Core.rewrittenAtZero pc service good
  have old : fetchWord Core.rewrittenAtZero 0#32 = .ok 0 Core.rewrittenAtZero := fetchWord_of_ahead ahead
  have same : (1 : W16) = 0 := (FetchRes.ok.inj (new.symm.trans old)).1
  exact absurd same (by decide)

end Sys2Proof.Machine
end

