-- ==== Sys2Proof/Proofs/SystemCall.lean ====
section
/-!
PROOFS. SVC and SRET (R122). First what any control or privileged instruction comes to where the core issues it, stated once with the
claims' own words (Ends, Raises, LeavesStatus), then the two instructions.
-/
namespace Sys2Proof.Machine
open Sys2Proof.Claims

/-! ### An instruction that the core issues -/

section
variable {s t : State} {c : CoreId} {len : Nat} {k k1 : Core} {i : Instr} {body : State → Core → Res} {own : List Flight} {nx : Next}

/-- Where a core issues the instruction at its pc, nothing holds it, the fetch brings exactly the words that spell it, and they dispatch. -/
theorem fetched_of_issues (h : Issues s c len k) (pc : AtPc s c i) :
    s.canIssue c = true ∧ ∃ ws, fetchInstr (s.quire (coreQuire c)).image (s.core c) (s.core c).pc = .ok ws k ∧ spells c k ws i = true
      ∧ dispatchOk s c ws = true ∧ ws.length = len := by
  obtain ⟨ready, ws, fetch, length, dispatch⟩ := h
  obtain ⟨ws', k', fetch', spelt⟩ := pc
  obtain ⟨rfl, rfl⟩ := FetchRun.ok.inj (fetch.symm.trans fetch')
  exact ⟨ready, ws, fetch, spelt, dispatch, length⟩

/-- A control instruction outside a delay slot whose own effect completes ends as that effect says (R88). -/
theorem ends_of_control (h : IssuesOpen s c len k) (run : exec i s = issue s c i ctlKind body)
    (effect : body s k = .done t k1 own nx) : Ends i s t c len k1 own nx := by
  intro pc
  obtain ⟨issues, outside⟩ := h
  obtain ⟨ready, ws, fetch, spelt, dispatch, rfl⟩ := fetched_of_issues issues pc
  rw [run, issue_ctl ready fetch spelt dispatch outside, effect]
  rfl

/-- A control instruction outside a delay slot whose own effect is an exception raises it, with nothing else done. -/
theorem raises_of_control {cause : BitVec 8} {xad : BitVec 40} (h : IssuesOpen s c len k)
    (run : exec i s = issue s c i ctlKind body) (effect : body s k = .exc cause xad 0) : Raises i s c k cause xad := by
  intro pc
  obtain ⟨issues, outside⟩ := h
  obtain ⟨ready, ws, fetch, spelt, dispatch, -⟩ := fetched_of_issues issues pc
  rw [run, issue_ctl ready fetch spelt dispatch outside, effect]
  rfl

/-- A privileged control instruction in Service mode outside a delay slot ends as its own effect says (R31, R88). -/
theorem ends_of_system (h : IssuesSystem s c len k) (run : exec i s = issue s c i ⟨true, true⟩ body)
    (effect : body s k = .done t k1 own nx) : Ends i s t c len k1 own nx := by
  intro pc
  obtain ⟨issues, outside, service⟩ := h
  obtain ⟨ready, ws, fetch, spelt, dispatch, rfl⟩ := fetched_of_issues issues pc
  rw [run, issue_sys ready fetch spelt dispatch outside service, effect]
  rfl

/-- A privileged instruction in Tenant mode outside a delay slot raises privileged-operation (R31). -/
theorem raises_privileged_of_tenant {ctl : Bool} (h : IssuesOpen s c len k) (tenant : k.sys.mode = false)
    (run : exec i s = issue s c i ⟨ctl, true⟩ body) : Raises i s c k 0x02 0 := by
  intro pc
  obtain ⟨issues, outside⟩ := h
  obtain ⟨ready, ws, fetch, spelt, dispatch, -⟩ := fetched_of_issues issues pc
  rw [run, issue_tenant ready fetch spelt dispatch outside tenant]

end

/-! ### MODE and IE written last (R71) -/

/-- MODE and IE written at distance 0 stand over any write of them that falls due at the same time (R71). -/
theorem Core.retire_wrMs (k : Core) (mode ie : Bool) :
    (k.retire (wrMs mode ie)).sys.mode = mode ∧ (k.retire (wrMs mode ie)).sys.ie = ie := ⟨rfl, rfl⟩

/-- The pc goes on with no change of the status, unless past an annulled slot, which is a second completion (R87). -/
theorem Core.goOn_sys {nx : Next} (k : Core) (len : Nat) (h : ∀ a, nx ≠ .annul a) : (k.goOn len nx).sys = k.sys := by
  cases nx with
  | jump a => rfl
  | slot b => rfl
  | slotAt a b => rfl
  | annul a => exact absurd rfl (h a)
  | seq =>
    simp only [Core.goOn]
    split
    · rfl
    · rw [Core.stepPast_frame]

/-- An instruction that completes with MODE and IE written at distance 0 leaves them as it wrote them. -/
theorem Core.finish_wrMs {nx : Next} (k : Core) (len : Nat) (mode ie : Bool) (h : ∀ a, nx ≠ .annul a) :
    (k.finish len (wrMs mode ie) nx).sys.mode = mode ∧ (k.finish len (wrMs mode ie) nx).sys.ie = ie := by
  simp only [Core.finish, Core.keepAhead, Core.goOn_sys _ len h]
  exact k.retire_wrMs mode ie

/-- The same as LeavesStatus says it of the device. -/
theorem leavesStatus_of_ends {s t : State} {c : CoreId} {len : Nat} {k1 : Core} {i : Instr} {mode ie : Bool} {nx : Next}
    (ends : Ends i s t c len k1 (wrMs mode ie) nx) (h : ∀ a, nx ≠ .annul a) : LeavesStatus i s c mode ie := by
  intro pc
  refine ⟨_, ends pc, ?_⟩
  rw [State.core_setCore]
  exact k1.finish_wrMs len mode ie h

/-! ### SVC and SRET (R122) -/

/-- SVC goes through the issue of a control instruction that is illegal in Service mode and else enters Service mode at SVEn, with the
next pc, FL and MS saved. -/
theorem exec_svc (c : CoreId) (n : Fin 8) (s : State) : exec (.svc c n) s = issue s c (.svc c n) ctlKind (fun s k =>
    if k.sys.mode then .illegal k.pc
    else
      .done s { k with sys := { k.sys with spc := k.pc + 1#32, sflFl := k.fl, sflMs := k.sys.ms, mode := true } } []
        (.jump k.sys.sve[n])) := rfl

/-- SRET goes through the issue of a privileged control instruction that restores FL, MODE, IE and the pc. -/
theorem exec_sret (c : CoreId) (s : State) : exec (.sret c) s = issue s c (.sret c) ⟨true, true⟩ (fun s k =>
    .done s { k with fl := k.sys.sflFl } (wrMs (k.sys.sflMs.getLsbD 0) (k.sys.sflMs.getLsbD 1)) (.jump k.sys.spc)) := rfl

/-- Settles O19: each instruction comes to its own effect where it issues, and SRET's MODE and IE are written last. -/
theorem systemCall : Obligations.SystemCall := by
  refine ⟨?svcTenant, ?service, ?sretTenant⟩
  case svcTenant =>
    intro s c n k issues tenant
    exact ends_of_control issues (exec_svc c n s) (by simp [tenant])
  case service =>
    intro s c n k issues
    obtain ⟨fetches, outside, service⟩ := issues
    have sret := ends_of_system ⟨fetches, outside, service⟩ (exec_sret c s) rfl
    have svc : Raises (.svc c n) s c k 0x01 (BitVec.ofNat 40 k.pc.toNat) :=
      raises_of_control ⟨fetches, outside⟩ (exec_svc c n s) (by simp [service, Res.illegal])
    exact ⟨svc, sret, leavesStatus_of_ends sret (fun _ => Next.noConfusion)⟩
  case sretTenant =>
    intro s c k issues tenant
    exact raises_privileged_of_tenant issues tenant (exec_sret c s)

end Sys2Proof.Machine
end

