-- ==== Sys2Proof/Proofs/MachineCheckReturn.lean ====
section
/-!
PROOFS. MRET (R368): its own effect where it issues in Service mode, privileged in Tenant mode, illegal in a delay slot.
-/
namespace Sys2Proof.Machine
open Sys2Proof.Claims

/-- A control instruction in a delay slot raises illegal instruction at its pc, whatever its privilege and the mode (R88, R114). -/
theorem raises_illegal_of_slot {s : State} {c : CoreId} {len : Nat} {k : Core} {i : Instr} {priv : Bool} {body : State → Core → Res}
    (h : Issues s c len k) (slot : k.branch ≠ none) (run : exec i s = issue s c i ⟨true, priv⟩ body) :
    Raises i s c k 0x01 (BitVec.ofNat 40 k.pc.toNat) := by
  intro pc
  obtain ⟨ready, ws, fetch, spelt, dispatch, -⟩ := fetched_of_issues h pc
  rw [run, issue_slot ready fetch spelt dispatch (Option.isSome_iff_ne_none.2 slot), BitVec.ofNat_toNat]

/-- MRET goes through the issue of a privileged control instruction that clears MCIP and restores MODE, IE and the pc. -/
theorem exec_mret (c : CoreId) (s : State) : exec (.mret c) s = issue s c (.mret c) ⟨true, true⟩ (fun s k =>
    .done s { k with sys := { k.sys with m := { k.sys.m with mcip := false } } }
      (wrMs (k.sys.m.mms.getLsbD 0) (k.sys.m.mms.getLsbD 1)) (.jump k.sys.m.mpc)) := rfl

/-- Settles O20: MRET comes to its own effect where it issues, which writes MODE and IE last and does not ask for MCIP. -/
theorem machineCheckReturn : Obligations.MachineCheckReturn := by
  intro s c k issues
  refine ⟨?service, ?tenant, ?slot⟩
  case service =>
    intro outside service
    have mret := ends_of_system ⟨issues, outside, service⟩ (exec_mret c s) rfl
    exact ⟨mret, leavesStatus_of_ends mret (fun _ => Next.noConfusion)⟩
  case tenant =>
    intro outside tenant
    exact raises_privileged_of_tenant ⟨issues, outside⟩ tenant (exec_mret c s)
  case slot =>
    intro slot
    exact raises_illegal_of_slot issues slot (exec_mret c s)

end Sys2Proof.Machine
end

