-- ==== Sys2Proof/Proofs/InterruptClaim.lean ====
section
/-!
PROOFS. IN from ICLAIM (R357). The sources pending at a core are listed by number, so the source that the look-up keeps is the highest
with ties to the lowest; then what the port shows and takes, and the instruction.
-/
namespace Sys2Proof.Machine
open Sys2Proof.Claims

/-! ### The highest pending source (R357) -/

/-- Nothing is found only where nothing is pending. -/
theorem topSrc_eq_none {l : List Src} (h : topSrc l = none) : l = [] := by
  cases l with
  | nil => rfl
  | cons x l =>
    simp only [topSrc] at h
    split at h
    · cases h
    · split at h <;> cases h

/-- In a list by number, the source found is the highest, the lowest numbered of equals. -/
theorem highest_of_topSrc {l : List Src} {y : Src} (sorted : l.Pairwise (fun a b => a.n ≤ b.n)) (h : topSrc l = some y) :
    Highest l y := by
  induction l generalizing y with
  | nil => cases h
  | cons x l ih =>
    obtain ⟨first, rest⟩ := List.pairwise_cons.1 sorted
    simp only [topSrc] at h
    split at h
    case h_1 none =>
      cases h
      simp [Highest, topSrc_eq_none none]
    case h_2 z top =>
      obtain ⟨mem, above⟩ := ih rest top
      split at h
      case isTrue lower =>
        cases h
        exact ⟨List.mem_cons_of_mem _ mem, List.forall_mem_cons.2 ⟨.inl lower, above⟩⟩
      case isFalse upper =>
        cases h
        refine ⟨List.mem_cons_self, List.forall_mem_cons.2 ⟨.inr ⟨rfl, Nat.le_refl _⟩, fun w hw => ?_⟩⟩
        have wz : w.lvl.toNat ≤ z.lvl.toNat := (above w hw).elim Nat.le_of_lt (fun e => e.1 ▸ Nat.le_refl _)
        rcases Nat.lt_or_eq_of_le (Nat.le_trans wz (Nat.le_of_not_lt upper)) with less | same
        · exact .inl less
        · exact .inr ⟨BitVec.eq_of_toNat_eq same, first w hw⟩

/-- At most one source is the highest. -/
theorem highest_unique {l : List Src} {x y : Src} (hx : Highest l x) (hy : Highest l y) : x = y := by
  obtain ⟨xn, xl⟩ := x
  obtain ⟨yn, yl⟩ := y
  obtain ⟨memx, abovex⟩ := hx
  obtain ⟨memy, abovey⟩ := hy
  have xy := abovex _ memy
  have yx := abovey _ memx
  simp only at xy yx
  rcases xy with less | ⟨rfl, le⟩
  · rcases yx with less' | ⟨rfl, -⟩
    · omega
    · exact absurd less (Nat.lt_irrefl _)
  · rcases yx with less' | ⟨-, le'⟩
    · exact absurd less' (Nat.lt_irrefl _)
    · rw [Nat.le_antisymm le le']

/-- The look-up finds the highest source of a list by number. -/
theorem topSrc_of_highest {l : List Src} {x : Src} (sorted : l.Pairwise (fun a b => a.n ≤ b.n)) (h : Highest l x) :
    topSrc l = some x := by
  cases top : topSrc l with
  | none =>
    rw [topSrc_eq_none top] at h
    exact absurd h.1 List.not_mem_nil
  | some y => rw [highest_unique (highest_of_topSrc sorted top) h]

/-- The pending sources are listed by number: those of the quire below 64, then the timer, 64, then the mailbox, 65 (R356). -/
theorem pendingSrcs_sorted (s : State) (c : CoreId) : (pendingSrcs s c).Pairwise (fun a b => a.n ≤ b.n) := by
  have quire : ∀ p : Fin 64 → Bool, ((List.finRange 64).filter p).Pairwise (fun a b => a.val ≤ b.val) :=
    fun p => ((List.pairwise_lt_finRange 64).imp Nat.le_of_lt).filter p
  unfold pendingSrcs
  refine List.pairwise_append.2 ⟨List.pairwise_append.2 ⟨List.pairwise_map.2 (quire _), ?timer, ?quireBelowTimer⟩, ?mailbox,
    ?othersBelowMailbox⟩
  case timer => split <;> simp
  case mailbox => split <;> simp
  case quireBelowTimer =>
    intro a quireA b timerB
    obtain ⟨i, -, rfl⟩ := List.mem_map.1 quireA
    obtain ⟨-, rfl⟩ : _ ∧ b = _ := by simpa using timerB
    exact Nat.le_of_lt i.isLt
  case othersBelowMailbox =>
    intro a below b mailboxB
    obtain ⟨-, rfl⟩ : _ ∧ b = _ := by simpa using mailboxB
    rcases List.mem_append.1 below with quireA | timerA
    · obtain ⟨i, -, rfl⟩ := List.mem_map.1 quireA
      exact Nat.le_of_lt (Nat.lt_succ_of_lt i.isLt)
    · obtain ⟨-, rfl⟩ : _ ∧ a = _ := by simpa using timerA
      exact Nat.le_succ 64

/-- No pending source has a number above the mailbox's, 65 (R356). -/
theorem pendingSrcs_n_le {s : State} {c : CoreId} {x : Src} (h : x ∈ pendingSrcs s c) : x.n ≤ 65 := by
  unfold pendingSrcs at h
  simp only [List.mem_append, List.mem_map, List.mem_ite_nil_right, List.mem_singleton] at h
  rcases h with (⟨i, -, rfl⟩ | ⟨-, rfl⟩) | ⟨-, rfl⟩
  · exact Nat.le_of_lt (Nat.lt_succ_of_lt i.isLt)
  · exact Nat.le_succ 64
  · exact Nat.le_refl _

/-! ### The port (R357) -/

/-- A field placed above a smaller number adds to it. -/
theorem ofNat_or_at64 {a lo : Nat} (b : Nat) (h : a < 2 ^ lo) : BitVec.ofNat 64 a ||| at64 b lo = BitVec.ofNat 64 (a + b * 2 ^ lo) := by
  apply BitVec.eq_of_toNat_eq
  rw [Nat.add_comm, Nat.mul_comm, Nat.two_pow_add_eq_or_of_lt h, Nat.mul_comm, BitVec.ofNat_or, BitVec.or_comm]
  simp [at64, Nat.shiftLeft_eq]

/-- What ICLAIM shows of a source: its number, its level and a bit that says there is one (R357). -/
def Src.claimBits (x : Src) : W64 := at64 x.n 0 ||| at64 x.lvl.toNat 8 ||| bit64 true 15

/-- The three fields of ICLAIM do not overlap. -/
theorem Src.claimBits_eq {x : Src} (h : x.n < 2 ^ 8) : x.claimBits = BitVec.ofNat 64 (x.n + x.lvl.toNat * 2 ^ 8 + 2 ^ 15) := by
  have number : at64 x.n 0 = BitVec.ofNat 64 x.n := BitVec.shiftLeft_zero _
  have valid : bit64 true 15 = at64 1 15 := rfl
  have below : x.n + x.lvl.toNat * 2 ^ 8 < 2 ^ 15 := by have := x.lvl.isLt; omega
  rw [Src.claimBits, number, valid, ofNat_or_at64 _ h, ofNat_or_at64 _ below, Nat.one_mul]

/-- ICLAIM reads the highest pending source, and 0 with nothing pending (R357). -/
theorem corePortVal_iclaim (s : State) (c : CoreId) (k : Core) :
    corePortVal s c k 0x202 = ((topSrc (pendingSrcs s c)).map Src.claimBits).getD 0#64 := by
  cases h : topSrc (pendingSrcs s c) <;> simp [corePortVal, lPort, aPort, h, Src.claimBits]

/-- With nothing pending ICLAIM takes nothing. -/
theorem corePortTake_iclaim_none {s : State} {c : CoreId} (k : Core) (h : topSrc (pendingSrcs s c) = none) :
    corePortTake s c k 0x202 = k := by
  simp [corePortTake, h]

/-- ICLAIM clears the bit in IPND of a source of the quire, and PND of the timer; it leaves the mailbox (R357). -/
theorem corePortTake_iclaim {s : State} {c : CoreId} {x : Src} (k : Core) (h : topSrc (pendingSrcs s c) = some x) :
    corePortTake s c k 0x202 = { k with irq := { k.irq with
      ipnd := if x.n < 64 then k.irq.ipnd &&& ~~~(1#64 <<< x.n) else k.irq.ipnd
      tpnd := if x.n = 64 then false else k.irq.tpnd } } := by
  simp only [corePortTake, h]
  split
  case isTrue timer => simp [timer]
  case isFalse other =>
    split
    case isTrue quire => rfl
    case isFalse mailbox => rfl

/-! ### The instruction (R38, R77, R357) -/

/-- In Service mode an IN from a core-local port that is no L register, and that no long op owns, brings what the port shows, at
distance 1, and takes what a read of it takes (R38, R77). -/
theorem portIn_local {s : State} {c : CoreId} {k : Core} {p : BitVec 24} (d : GReg) (near : p.toNat < 0x10000) (service : k.sys.mode = true)
    (free : k.portBusy p.toNat = false) (notL : lPort p.toNat = none) :
    portIn c s k p d = .done s (corePortTake s c k p.toNat) (wrG d (corePortVal s c k p.toNat) 1) .seq := by
  simp [portIn, near, service, free, notL]

/-- A plain instruction whose own effect completes ends as that effect says. -/
theorem ends_of_plain {s t : State} {c : CoreId} {len : Nat} {k k1 : Core} {i : Instr} {body : State → Core → Res} {own : List Flight}
    {nx : Next} (h : Issues s c len k) (run : exec i s = issue s c i plain body) (effect : body s k = .done t k1 own nx) :
    Ends i s t c len k1 own nx := by
  intro pc
  obtain ⟨ready, ws, fetch, spelt, dispatch, rfl⟩ := fetched_of_issues h pc
  rw [run, issue_plain ready fetch spelt dispatch, effect]
  rfl

/-- IN from ICLAIM goes through the issue of a plain instruction that reads port 0x202. -/
theorem exec_iclaim (c : CoreId) (f : IoForm) (d : GReg) (s : State) :
    exec (.iclaim c f d) s = issue s c (.iclaim c f d) plain (fun s k => portIn c s k 0x000202 d) := rfl

/-- In Service mode IN from ICLAIM always completes, with what the port shows and takes. -/
theorem ends_iclaim {s : State} {c : CoreId} {k : Core} (f : IoForm) (d : GReg) (h : IssuesService s c (ioLen f) k) :
    Ends (.iclaim c f d) s s c (ioLen f) (corePortTake s c k 0x202) (wrG d (corePortVal s c k 0x202) 1) :=
  ends_of_plain h.1 (exec_iclaim c f d s) (portIn_local d (by decide) h.2 rfl rfl)

/-- Settles O24: the pending sources are listed by number, so what ICLAIM shows and takes is the one highest source. -/
theorem claimHighestSource : Obligations.ClaimHighestSource := by
  intro s c f d k issues
  have read := ends_iclaim f d issues
  rw [corePortVal_iclaim] at read
  refine ⟨fun empty => ?_, fun x highest => ?_⟩
  · have top : topSrc (pendingSrcs s c) = none := by rw [empty]; rfl
    rw [corePortTake_iclaim_none k top, top] at read
    exact read
  · have top := topSrc_of_highest (pendingSrcs_sorted s c) highest
    have small : x.n < 2 ^ 8 := Nat.lt_of_le_of_lt (pendingSrcs_n_le highest.1) (by decide)
    rw [corePortTake_iclaim k top, top, Option.map_some, Option.getD_some, Src.claimBits_eq small] at read
    exact read

end Sys2Proof.Machine
end

