-- ==== Sys2Proof/Proofs/Checkstop.lean ====
section
/-!
PROOFS. A second machine check (R371, R372). First what each step of stopping a core for good leaves in the device, then all of R372
for any fatal fault that reports the stop, then the three ways to raise a machine check while MCIP is 1.
-/
namespace Sys2Proof.Machine
open Sys2Proof.Claims

/-! ### An event on a source (R355, R570) -/

/-- The message of an event waits with its source. -/
theorem mem_raiseIn_msgs (s : State) (q : QuireId) (i : Fin 64) (m : BitVec 56) :
    m ∈ ((raiseIn s q i (some m)).quire q).routes[i].msgs := by
  simp only [raiseIn, State.quire_setQuire, Fin.getElem_fin, Vector.getElem_set_self]
  split
  case isTrue merged => exact List.contains_iff_mem.1 merged
  case isFalse new => exact List.mem_append_right _ List.mem_cons_self

/-- An event on a source leaves TLB_SHOOT of every quire. -/
theorem raiseIn_shoot (s : State) (q r : QuireId) (i : Fin 64) (m : Option (BitVec 56)) :
    ((raiseIn s q i m).quire r).shoot = (s.quire r).shoot := by
  by_cases same : q = r
  · subst same
    simp [raiseIn]
  · rw [raiseIn_other s i m same]

/-! ### A lost target core (R469) -/

/-- No queue pair keeps a submission of a lost core. -/
theorem QueuePair.core_ne_of_mem_loseCore {x : QueuePair} {c : CoreId} {u : Sub} (h : u ∈ (x.loseCore c).subs) : u.core ≠ c := by
  simpa using (List.mem_filter.1 h).2

/-- A lost target core changes the queue pairs, and what the host is told. -/
theorem targetLost_frame (s : State) (c : CoreId) : targetLost s c = { s with
    qps := s.qps.map (fun x => x.loseCore c), host := (targetLost s c).host, out := (targetLost s c).out } := by
  simp only [targetLost]
  split
  · rw [hostEvent_frame]
  · rfl

theorem targetLost_core (s : State) (c d : CoreId) : (targetLost s c).core d = s.core d := by
  rw [targetLost_frame]
  rfl
theorem targetLost_quire (s : State) (c : CoreId) (q : QuireId) : (targetLost s c).quire q = s.quire q := by
  rw [targetLost_frame]
  rfl
theorem targetLost_eng (s : State) (c : CoreId) (e : EngId) : (targetLost s c).eng e = s.eng e := by
  rw [targetLost_frame]
  rfl
theorem targetLost_qp (s : State) (c : CoreId) (n : QpId) : (targetLost s c).qp n = (s.qp n).loseCore c := by
  rw [targetLost_frame]
  simp [State.qp]

/-! ### A core stops (R23, R372) -/

/-- A running descriptor for a window slot of the core ends with status 0x18, where it has not ended and keeps no record. -/
theorem Engine.endSlot_cur {e : Engine} {c : CoreId} {r : Running} (running : e.cur = some r) (slot : slotCore r.words = some c.val)
    (going : r.ended = none) (noRecord : r.record = none) :
    (e.endSlot c (fun _ => true) false).cur = some { r with ended := some (0x18, 0) } := by
  simp [Engine.endSlot, running, slot, going, noRecord]

theorem coreStops_core (s : State) (c : CoreId) : (coreStops s c).core c = (s.core c).closeWindows := by
  simp only [coreStops, targetLost_core]
  exact State.core_modCore s c Core.closeWindows
theorem coreStops_core_ne (s : State) {c d : CoreId} (h : c ≠ d) : (coreStops s c).core d = s.core d := by
  simp only [coreStops, targetLost_core]
  exact State.core_modCore_ne s Core.closeWindows h
/-- No quire waits for the core to invalidate. -/
theorem not_mem_coreStops_waiting (s : State) (c : CoreId) (q : QuireId) :
    ShootTarget.core c ∉ ((coreStops s c).quire q).shoot.waiting := by
  rw [coreStops, targetLost_quire]
  simp [State.quire]
theorem coreStops_eng (s : State) (c : CoreId) (e : EngId) :
    (coreStops s c).eng e = (s.eng e).endSlot c (fun _ => true) false := by
  rw [coreStops, targetLost_eng]
  simp [State.eng]
theorem coreStops_qp (s : State) (c : CoreId) (n : QpId) : (coreStops s c).qp n = (s.qp n).loseCore c := by
  simp only [coreStops, targetLost_qp]
  rfl

/-! ### A checkstop (R371, R372) -/

/-- The core itself as a checkstop leaves it, but for its windows (R372). -/
def Core.halted (k : Core) : Core :=
  { k with micro := none, branch := none, ctl := { k.ctl.proceed with cks := true, run := false, reload := none } }

/-- The device in which core c has halted and the parts of R372 outside it have followed, before its quire is told. -/
def haltedAt (s : State) (c : CoreId) : State := coreStops (s.modCore c Core.halted) c

/-- A checkstop halts the core and raises source 45 in its quire, with message 0x07 (R372). -/
theorem stopCore_eq (s : State) (c : CoreId) : stopCore s c = raiseIn (haltedAt s c) (coreQuire c) 45 (some (stwMsg 0x07 c.val)) := rfl

theorem stopCore_core (s : State) (c d : CoreId) : (stopCore s c).core d = (haltedAt s c).core d := rfl
theorem stopCore_eng (s : State) (c : CoreId) (e : EngId) : (stopCore s c).eng e = (haltedAt s c).eng e := rfl
theorem stopCore_qp (s : State) (c : CoreId) (n : QpId) : (stopCore s c).qp n = (haltedAt s c).qp n := rfl
theorem stopCore_shoot (s : State) (c : CoreId) (q : QuireId) : ((stopCore s c).quire q).shoot = ((haltedAt s c).quire q).shoot := by
  rw [stopCore_eq, raiseIn_shoot]
theorem stopCore_pnd (s : State) (c : CoreId) : ((stopCore s c).quire (coreQuire c)).routes[(45 : Fin 64)].pnd = true := by
  rw [stopCore_eq]
  exact raiseIn_pnd _ _ _ _
theorem mem_stopCore_msgs (s : State) (c : CoreId) :
    stwMsg 0x07 c.val ∈ ((stopCore s c).quire (coreQuire c)).routes[(45 : Fin 64)].msgs := by
  rw [stopCore_eq]
  exact mem_raiseIn_msgs _ _ _ _

theorem haltedAt_core (s : State) (c : CoreId) : (haltedAt s c).core c = (s.core c).halted.closeWindows := by
  rw [haltedAt, coreStops_core, State.core_modCore]
theorem haltedAt_core_ne (s : State) {c d : CoreId} (h : c ≠ d) : (haltedAt s c).core d = s.core d := by
  rw [haltedAt, coreStops_core_ne _ h, State.core_modCore_ne _ _ h]
theorem haltedAt_eng (s : State) (c : CoreId) (e : EngId) : (haltedAt s c).eng e = (s.eng e).endSlot c (fun _ => true) false := by
  rw [haltedAt, coreStops_eng, State.modCore_eng]
theorem haltedAt_qp (s : State) (c : CoreId) (n : QpId) : (haltedAt s c).qp n = (s.qp n).loseCore c := by
  rw [haltedAt, coreStops_qp, State.modCore_qp]

@[simp] theorem detectFatal_core (s : State) (f : FatalKind) (c : CoreId) : (detectFatal s f).core c = s.core c := rfl
@[simp] theorem detectFatal_quire (s : State) (f : FatalKind) (q : QuireId) : (detectFatal s f).quire q = s.quire q := rfl
@[simp] theorem detectFatal_eng (s : State) (f : FatalKind) (e : EngId) : (detectFatal s f).eng e = s.eng e := rfl
@[simp] theorem detectFatal_qp (s : State) (f : FatalKind) (n : QpId) : (detectFatal s f).qp n = s.qp n := rfl

/-- Every stop of a core has the consequences of R372, whichever fatal fault reports it. -/
theorem stopped_of_detectFatal (s : State) (c : CoreId) (f : FatalKind) : Stopped s (detectFatal (stopCore s c) f) c f := by
  obtain ⟨reported, fat⟩ := detectFatal_mem (stopCore s c) f
  refine ⟨?core, ?others, ?pnd, ?msg, ?shoot, ?engines, ?subs, reported, fat, rfl⟩
  case core =>
    rw [detectFatal_core, stopCore_core, haltedAt_core]
    rfl
  case others =>
    intro d other
    rw [detectFatal_core, stopCore_core, haltedAt_core_ne s other.symm]
  case pnd =>
    rw [detectFatal_quire]
    exact stopCore_pnd s c
  case msg =>
    rw [detectFatal_quire]
    exact mem_stopCore_msgs s c
  case shoot =>
    intro q
    rw [detectFatal_quire, stopCore_shoot]
    exact not_mem_coreStops_waiting _ c q
  case engines =>
    intro e r running slot going noRecord
    rw [detectFatal_eng, stopCore_eng, haltedAt_eng, Engine.endSlot_cur running slot going noRecord]
  case subs =>
    intro n u mem
    rw [detectFatal_qp, stopCore_qp, haltedAt_qp] at mem
    exact QueuePair.core_ne_of_mem_loseCore mem

/-- A machine check while MCIP is 1 checkstops the core, whatever its cause (R371). -/
theorem machineCheckAt_of_mcip {s : State} {c : CoreId} (mcip : (s.core c).sys.m.mcip = true) (cause : MCause) (lvl : BitVec 2) (sync : Bool) :
    machineCheckAt s c cause lvl sync = checkstopCore s c := by
  simp [machineCheckAt, mcip]

/-- A machine check while MCIP is 1 leaves what R372 says. -/
theorem stopped_of_machineCheckAt {s : State} {c : CoreId} (mcip : (s.core c).sys.m.mcip = true) (cause : MCause) (lvl : BitVec 2)
    (sync : Bool) : Stopped s (machineCheckAt s c cause lvl sync) c (.checkstop c) := by
  rw [machineCheckAt_of_mcip mcip]
  exact stopped_of_detectFatal s c _

/-- The command of a checkstop comes to one, where the core executes and a machine check is in progress. -/
theorem exec_checkstop {s : State} {c : CoreId} (run : (s.core c).ctl.run = true) (cks : (s.core c).ctl.cks = false)
    (iso : (s.core c).ctl.iso = false) (mcip : (s.core c).sys.m.mcip = true) :
    exec (.checkstop c) s = .next (checkstopCore s c) := by
  have command : exec (.checkstop c) s = execCheckstop c s := rfl
  simp [command, execCheckstop, run, cks, iso, mcip]

/-- A machine check of the instruction at the pc that no queue holds is taken at once (R365, R367). -/
theorem exec_machineCheck_sync {s : State} {c : CoreId} {m : MCause} (take : s.canTake c = true) (new : m ∉ (s.core c).ctl.asyncMc)
    (sync : m ∈ [MCause.localData, .poisonedData, .instr]) :
    exec (.machineCheck c m) s = .next (machineCheckAt s c m 0 true) := by
  have command : exec (.machineCheck c m) s = execMachineCheck c m s := rfl
  simp only [List.mem_cons, List.not_mem_nil, or_false] at sync
  rcases sync with rfl | rfl | rfl <;> simp [command, execMachineCheck, take, new]

/-- Settles O43: the command, the machine check of an instruction and one at a boundary all come to the checkstop of the core. -/
theorem secondMachineCheckStopsCore : Obligations.SecondMachineCheckStopsCore := by
  intro s c mcip iso
  refine ⟨fun run cks => ?event, fun m take new sync => ?instruction, fun m lvl sync => ?itself⟩
  case event => exact ⟨_, exec_checkstop run cks iso mcip, stopped_of_detectFatal s c _⟩
  case instruction => exact ⟨_, exec_machineCheck_sync take new sync, stopped_of_machineCheckAt mcip m 0 true⟩
  case itself => exact stopped_of_machineCheckAt mcip m lvl sync

end Sys2Proof.Machine
end
